-- ==== Sys2Proof/Word.lean ====
section
/-!
DEFINITION. The words of the machine: widths and their plainest arithmetic (spec/00_scope.md R3, R5).
-/

namespace Sys2Proof

/-- A byte of any memory. -/
abbrev Byte := BitVec 8
/-- A 16-bit halfword of the instruction store (R51). -/
abbrev Half := BitVec 16
/-- A 32-bit lane. -/
abbrev Lane := BitVec 32
/-- A 64-bit register or special register (R8). -/
abbrev Word := BitVec 64
/-- A vector register: VL = 2048 bits on Carosh (R8). -/
abbrev VWord := BitVec 2048
/-- An accumulator tile: 32 rows of 32 columns of 32 bits, element (r, c) at bit 32 * (32 * r + c) (R8). -/
abbrev Tile := BitVec 32768
/-- A 64-byte body or payload, byte 0 in bits 7..0 (R194, R388). -/
abbrev Body := BitVec 512
/-- An `id.core` (R167): y * 64 + x. -/
abbrev CoreId := Fin 4096
/-- A cluster number (R168). -/
abbrev ClusterId := Fin 512

/-- Bits [lo + n - 1 : lo] of a number. -/
def bits (v lo n : Nat) : Nat := v / 2 ^ lo % 2 ^ n

/-- Bit n of a number. -/
def bit (v n : Nat) : Bool := v / 2 ^ n % 2 == 1

/-- A Bool as the number 0 or 1. -/
def b2n (b : Bool) : Nat := if b then 1 else 0

/-- The signed value of the low `w` bits of `v` (two's complement, R34). -/
def signed (w v : Nat) : Int :=
  let u := v % 2 ^ w
  if w != 0 && u >= 2 ^ (w - 1) then (u : Int) - (2 ^ w : Nat) else (u : Int)

/-- The low `w` bits of an integer (R34: wraps modulo 2^w). -/
def wrap (w : Nat) (v : Int) : Nat := (v % ((2 ^ w : Nat) : Int)).toNat

/-- sext64 of the low `w` bits. -/
def sext64 (w v : Nat) : Word := BitVec.ofInt 64 (signed w v)

/-- A 64-bit word from an exact integer, modulo 2^64. -/
def wordOfInt (v : Int) : Word := BitVec.ofInt 64 v

end Sys2Proof
end

