-- ==== Sys2Proof/Config.lean ====
section
/-!
DEFINITION. What this implementation fixes, and the free values: constants with no body, so that a statement about
one holds whatever it is.
-/

namespace Sys2Proof.Config

/-- Vector length in bits on Carosh (R8). -/
abbrev vl : Nat := 2048
/-- VL in bytes (R90). -/
abbrev vlb : Nat := 256

/-- FREE VALUE (log 3): reference cycles that pass during the n-th step. Instruction timing is not architectural
(01_sequential_core.md, "Instruction timing is not architectural, except where a chapter states a bound"). -/
opaque elapsed : Nat → Nat

/-- FREE VALUE (log 12): which of the superseded values of a line that R256 lets a load across dies return in the n-th
step it returns. -/
opaque staleChoice : Nat → Nat → Nat

/-- FREE VALUE (log 11): the traffic that the governor finds on a link in its n-th cycle: 0 less than a quarter of the
capacity, 1 neither, any other number a flit that waited (R398). -/
opaque linkUse : Nat → Fin 18 → Nat

/-- FREE VALUE (log 22): the fabric, link and DRAM-base voltage domains of a package, whose number R221 does not give.
-/
opaque otherDomains : Nat

/-- FREE VALUE (log 22): what Slate measures in a voltage domain over the interval that ends in the n-th step: mean and
peak current in mA, mean voltage in mV (R411). -/
opaque measured : Nat → Nat → Nat × Nat × Nat

/-- FREE VALUE (log 16): whether the n-th access uses a cached translation that differs from the page table's entry
(R236: "may use either the old or new entry"). -/
opaque usesCached : Nat → Bool

/-- FREE VALUE (log 19): the native code that the translator makes of a KPF section whose virtual registers do not fit,
from its bytes, the device's FEAT words 0 to 2 and the translator's version (R86: "The output is a function of three
things only"). -/
opaque kpfCode : List Byte → List Word → BitVec 16 → List Byte

/-- FREE VALUE (log 19): the bytes of scratch area that this code needs (R86). -/
opaque kpfScratch : List Byte → List Word → BitVec 16 → Nat

/-- FREE VALUE (log 19): where in this code that of the record at an offset of the section begins, in halfwords. -/
opaque kpfAddress : List Byte → List Word → BitVec 16 → Nat → Nat

end Sys2Proof.Config
end

