-- ==== Sys2Proof/Syntax.lean ====
section
/-!
DEFINITION. The whole syntax: operand types and `Instr`, one constructor per row of spec/opcode_table.json.
Rows with an encoding come first, in the table's order; rows without one (the SWR write rules and the machine's
events) follow and carry what identifies the event and what the outside decides in it (a false conflict, a corrected error).
-/

namespace Sys2Proof

/-- An x register number. -/
abbrev XReg := Fin 32
/-- A vector register number. -/
abbrev VReg := Fin 32
/-- A predicate register number. -/
abbrev PReg := Fin 8
/-- A tile, queue, ring or barrier line number. -/
abbrev Reg8 := Fin 8

/-- Element formats (02_number_formats.md R28), in the order of their codes 0 to 15. -/
inductive Fmt where
  | raw | int8 | uint8 | int4 | fp32 | bf16 | fp16 | e4m3 | e5m2 | e2m1 | int16 | int32 | res | s24 | int64 | fp64
  deriving DecidableEq, Repr

/-- Trap causes (19_traps_faults.md R335), in the order of their codes 0x01 to 0x12. -/
inductive Cause where
  | illegal | resfield | prefixed | rdonly | align | localbound | vfree | tmdomain | tmcount | wcycle | brk | swtrap
  | fmt | ptrovf | scope | matrix | ring | gateerr
  deriving DecidableEq, Repr

/-- The tcause code of a cause (R335). -/
def Cause.code : Cause → Nat
  | .illegal => 1 | .resfield => 2 | .prefixed => 3 | .rdonly => 4 | .align => 5 | .localbound => 6
  | .vfree => 7 | .tmdomain => 8 | .tmcount => 9 | .wcycle => 10 | .brk => 11 | .swtrap => 12
  | .fmt => 13 | .ptrovf => 14 | .scope => 15 | .matrix => 16 | .ring => 17 | .gateerr => 18

/-- A trap: its cause and the value tval receives. -/
structure Trap where
  cause : Cause
  tval : Word
  deriving DecidableEq, Repr

/-- Rounding modes (R36), in the order of their codes. -/
inductive RMode where
  | rne | rtz | rdn | rup
  deriving DecidableEq, Repr

/-- Scalar floating-point formats (R33), in the order of their codes. -/
inductive FpTy where
  | fp32 | fp64 | bf16 | fp16
  deriving DecidableEq, Repr

/-- `rm` and `type` of a page-1 floating-point instruction (R108). -/
structure FpMode where
  rm : RMode
  ty : FpTy
  deriving DecidableEq, Repr

/-- Access sizes of M forms (R60): 1, 2, 4 or 8 bytes. -/
inductive Size where
  | byte | half | word | dword
  deriving DecidableEq, Repr

/-- Governing predicate and zeroing bit of a vector-page instruction (R61). -/
structure Gov where
  pred : PReg
  zero : Bool
  deriving DecidableEq, Repr

/-- The b operand of a vector instruction (R117): a vector with its last-use bit, x[b], or an element of q0. -/
inductive VSrc where
  | vec (r : VReg) (last : Bool)
  | x (r : XReg)
  | q0
  deriving DecidableEq, Repr

/-- A scalar operand that is x[r] or popped from q0 (R129, R136). -/
inductive XSrc where
  | x (r : XReg)
  | q0
  deriving DecidableEq, Repr

/-- Operands of the binary elementwise instructions (R124). -/
structure VBin where
  d : VReg
  a : VReg
  la : Bool
  b : VSrc
  gov : Gov
  ty : Fmt
  u : Bool
  sat : Bool
  rm : RMode
  deriving DecidableEq, Repr

/-- Operands of VSQRT, VABS, VNEG (R124). -/
structure VUn where
  d : VReg
  a : VReg
  la : Bool
  gov : Gov
  ty : Fmt
  sat : Bool
  rm : RMode
  deriving DecidableEq, Repr

/-- Conditions of VCMP (R122), in the order of their codes 0 to 6. -/
inductive Cond where
  | eq | ne | lt | le | gt | ge | un
  deriving DecidableEq, Repr

/-- Operands of VCMP (R122). -/
structure VCmpOps where
  d : VReg
  a : VReg
  la : Bool
  b : VSrc
  gov : Gov
  ty : Fmt
  u : Bool
  cond : Cond
  deriving DecidableEq, Repr

/-- The four variants of FMA arithmetic (R109, R128), in the order of their codes. -/
inductive FmaVar where
  | fma | fms | nfma | nfms
  deriving DecidableEq, Repr

/-- Three vector sources (Q form, R60, R61) with their last-use bits. -/
structure VTri where
  d : VReg
  a : VReg
  la : Bool
  b : VReg
  lb : Bool
  e : VReg
  le : Bool
  gov : Gov
  ty : Fmt
  deriving DecidableEq, Repr

/-- One vector source and a type: VMOV, and the shape VSFU builds on. -/
structure VOne where
  d : VReg
  a : VReg
  la : Bool
  gov : Gov
  ty : Fmt
  deriving DecidableEq, Repr

/-- Operands of VQNT and VDQNT (R131, R132): `bf` selects bf16 in place of fp32. -/
structure VQOps where
  d : VReg
  a : VReg
  la : Bool
  b : VReg
  gov : Gov
  ty : Fmt
  bf : Bool
  pm : Bool
  bl : Fin 3
  deriving DecidableEq, Repr

/-- Reductions of VRED (R133), in the order of their codes. -/
inductive Red where
  | add | max | min | maxi | mini
  deriving DecidableEq, Repr

/-- Functions of VSFU (R135), in the order of their codes. -/
inductive Sfu where
  | exp2 | log2 | rcp | rsqrt
  deriving DecidableEq, Repr

/-- Unit-stride vector memory operands (R138, R141): `slot` in blocks of VL / 8 bytes. `last` is the stored
vector's last-use bit (stores only). -/
structure VMem where
  v : VReg
  a : XReg
  slot : Int
  gov : Gov
  ty : Fmt
  last : Bool
  deriving DecidableEq, Repr

/-- Strided vector memory operands (R139). -/
structure VStr where
  v : VReg
  a : XReg
  b : XReg
  gov : Gov
  ty : Fmt
  last : Bool
  deriving DecidableEq, Repr

/-- Indexed vector memory operands (R140). -/
structure VIdx where
  v : VReg
  a : XReg
  b : VReg
  lb : Bool
  gov : Gov
  ty : Fmt
  last : Bool
  deriving DecidableEq, Repr

/-- Scopes (R253), in the order of their codes 0 to 6. -/
inductive Scope where
  | core | clus | die | pkg | part | sys | gate
  deriving DecidableEq, Repr

/-- Atomic operations (R269), in the order of their codes. -/
inductive Aop where
  | add | and | or | xor | min | max | swap | cas
  deriving DecidableEq, Repr

/-- Types of ATOML (R271), in the order of their codes. -/
inductive AtomTy where
  | int32 | int64 | fp32 | bf16
  deriving DecidableEq, Repr

/-- Kinds of a copy (R285), in the order of their codes. -/
inductive CopyKind where
  | g2l | l2g | g2g | l2l
  deriving DecidableEq, Repr

/-- The mod and aux fields of MMA (R307). -/
structure MmaMode where
  byp : Bool
  perm : Bool
  gang : Bool
  zero : Bool
  line : Reg8
  done : Bool
  tag : Fin 32
  deriving DecidableEq, Repr

/-- The mod field of MDRAIN (R312). -/
structure DrainMode where
  byp : Bool
  nor : Bool
  sat : Bool
  clr : Bool
  deriving DecidableEq, Repr

/-- What GSTAT reports (R367), in the order of its codes. -/
inductive GSel where
  | status | posts | takes | idx | peers
  deriving DecidableEq, Repr

/-- A buddy node (R352). -/
structure Node where
  pkg : Nat
  order : Nat
  origin : Nat
  deriving DecidableEq, Repr

/-- A gate's name: its package and its index there (R360). -/
structure GateId where
  pkg : Fin 128
  idx : Fin 1024
  deriving DecidableEq, Repr

/-- An access-list entry as Slate writes it (R361). -/
structure GateEntry where
  part : Nat
  rate : Nat
  burst : Nat
  v : Bool
  wr : Bool
  rd : Bool
  take : Bool
  post : Bool
  deriving DecidableEq, Repr

/-- The window Slate gives a gate (R361, R362): size code 1 to 5, its physical base, and for each listed partition
the global address it is mapped at. -/
structure WindowSpec where
  size : Fin 6
  base : Nat
  maps : List (Nat × Nat)
  deriving DecidableEq, Repr

/-- The operand fields of one reconfiguration entry (R355). `first` and `last` mark the command's two ends. -/
structure ReconfEntry where
  first : Bool
  last : Bool
  arg : Nat
  part : Nat
  vf : Nat
  node : Node
  resOk : Bool
  opOk : Bool
  deriving DecidableEq, Repr

/-- Requests that reach the home directory for one line (R240). -/
inductive DirKind where
  | read | write | evict | agentRead | agentWrite
  deriving DecidableEq, Repr

/-- What a failed link or route was carrying (R385, R396). -/
inductive LinkLoss where
  | access (core : CoreId) (addr : BitVec 56)
  | barrier (core : CoreId)
  | collective (core : CoreId) (cid : BitVec 16)
  deriving DecidableEq, Repr

/-- Protected words in which an uncorrectable error can arise (19 R343): a dword of a scratchpad, a halfword of an
instruction store, a row of an accumulator tile, a vector register, a line of a journal (of global memory or of the
scratchpad), a line of a stash, a dword of DRAM, of a near cache or behind a CXL port. -/
inductive SoftAt where
  | spad (core : CoreId) (offset : BitVec 19)
  | istore (core : CoreId) (pc : Half)
  | acc (core : CoreId) (z : Reg8) (row : Fin 32)
  | vec (core : CoreId) (n : VReg)
  | journal (core : CoreId) (global : Bool) (line : BitVec 46)
  | stash (core : CoreId) (line : BitVec 46)
  | memory (pa : BitVec 52)
  deriving DecidableEq, Repr

/-- An error that the debugger makes (R374), or that arises by itself (19 R343). -/
inductive PoisonAt where
  | debug (core : CoreId) (offset : BitVec 19)
  | soft (e : SoftAt)
  deriving DecidableEq, Repr

/-- Settings of R205 and R359 that the hypervisor writes through Slate. -/
inductive AllotWrite where
  | shares (part : Nat) (a : Nat)
  | tokens (vf : Fin 16) (res : Fin 5) (n : Nat)
  deriving DecidableEq, Repr

/-- Settings of R88, R233 and R324, whether the debugger is attached to a partition (R374), and a Slate core's firewall
register (R407). -/
inductive SlateWrite where
  | loadArea (part : Nat) (base size : Nat)
  | wayMask (vf : Fin 16) (mask : BitVec 16)
  | ramp (up down : Vector (Fin 73) 10)
  | attach (part : Nat) (on : Bool)
  | firewall (slateCore : Nat) (w : Word)
  deriving DecidableEq, Repr

/-- A packet that the external switch returns through a Cobalt port (R396). -/
structure ExtPacket where
  port : Fin 5
  marker : Bool
  cid : BitVec 16
  idx : Nat
  body : Body
  deriving DecidableEq, Repr

/-- What STREAM_PACKET concerns: an entry of a router, and a packet that the external switch returns to it, if one. -/
structure StreamTurn where
  entry : Fin 64
  ext : Option ExtPacket
  deriving DecidableEq, Repr

/-- A packet of a logical core that is addressed to a Slate core (R407): the gate request that it waits for, an event or
fault report for the front end of a function, or any other. -/
inductive SlatePacket where
  | gate
  | report (vf : Fin 16)
  | other
  deriving DecidableEq, Repr

/-- Such a packet and its sender. -/
structure SlateSend where
  core : CoreId
  packet : SlatePacket
  deriving DecidableEq, Repr

/-- An image of the monitor (R409): its version, and that of the translator it carries (R91). -/
structure MonitorImage where
  version : Nat
  translator : BitVec 16
  deriving DecidableEq, Repr

/-- The uses the configuration table gives the 36 columns of a die, and the rest of it (R406). -/
structure BootTable where
  pkg : Fin 128
  domain : List (Fin 128)
  slateWidth : Nat
  slateColumns : List (Nat × Nat)
  spareColumns : List (Nat × Nat)
  roles : List (Nat × Nat)
  ownerKey : Nat
  remap : List (Nat × Nat)
  reserve : Nat
  cxl : List (Nat × Nat)
  deriving DecidableEq, Repr

/-- What the boot core meets at power-on (R408): the table it fetches and the outcome of each step. -/
structure BootInput where
  fetched : Bool
  tableOk : Bool
  imagesOk : Bool
  umber : Nat
  policies : List Nat
  table : BootTable
  deriving DecidableEq, Repr

/-- The instructions and events of the opcode table. -/
inductive Instr where
  | nop
  | halt
  | brk (code : BitVec 8)
  | add (d a b : XReg)
  | sub (d a b : XReg)
  | and (d a b : XReg)
  | or (d a b : XReg)
  | xor (d a b : XReg)
  | sll (d a b : XReg)
  | srl (d a b : XReg)
  | sra (d a b : XReg)
  | seq (d a b : XReg)
  | sne (d a b : XReg)
  | slt (d a b : XReg)
  | sltu (d a b : XReg)
  | min (d a b : XReg)
  | max (d a b : XReg)
  | minu (d a b : XReg)
  | maxu (d a b : XReg)
  | addi (d a : XReg) (imm : Int)
  | andi (d a : XReg) (imm : Int)
  | ori (d a : XReg) (imm : Int)
  | xori (d a : XReg) (imm : Int)
  | slli (d a : XReg) (sh : Nat)
  | srli (d a : XReg) (sh : Nat)
  | srai (d a : XReg) (sh : Nat)
  | slti (d a : XReg) (imm : Int)
  | li (d : XReg) (imm : Int)
  | ldl (d a : XReg) (off : Int) (size : Size)
  | ldlu (d a : XReg) (off : Int) (size : Size)
  | stl (s a : XReg) (off : Int) (size : Size)
  | beqz (a : XReg) (off : Int)
  | bnez (a : XReg) (off : Int)
  | bltz (a : XReg) (off : Int)
  | bgez (a : XReg) (off : Int)
  | br (off : Int)
  | call (off : Int)
  | jr (a : XReg)
  | jalr (d a : XReg)
  | mv (d a : XReg)
  | addp (d a b : XReg)
  | subp (d a b : XReg)
  | tagp (d a b : XReg)
  | addpi (d a : XReg) (imm : Int)
  | loop (level : Bool) (c : XReg) (len : Nat)
  | srd (d : XReg) (sid : BitVec 8)
  | swr (s : XReg) (sid : BitVec 8)
  | mul (d a b : XReg)
  | mulh (d a b : XReg)
  | mulhu (d a b : XReg)
  | mulhsu (d a b : XReg)
  | div (d a b : XReg)
  | divu (d a b : XReg)
  | rem (d a b : XReg)
  | remu (d a b : XReg)
  | clz (d a : XReg)
  | ctz (d a : XReg)
  | popc (d a : XReg)
  | bswap (d a : XReg)
  | fadd (f : FpMode) (d a b : XReg)
  | fsub (f : FpMode) (d a b : XReg)
  | fmul (f : FpMode) (d a b : XReg)
  | fdiv (f : FpMode) (d a b : XReg)
  | fmin (f : FpMode) (d a b : XReg)
  | fmax (f : FpMode) (d a b : XReg)
  | fsqrt (f : FpMode) (d a : XReg)
  | fneg (f : FpMode) (d a : XReg)
  | fma (f : FpMode) (d a b e : XReg)
  | fms (f : FpMode) (d a b e : XReg)
  | fnma (f : FpMode) (d a b e : XReg)
  | fnms (f : FpMode) (d a b e : XReg)
  | feq (f : FpMode) (d a b : XReg)
  | flt (f : FpMode) (d a b : XReg)
  | fle (f : FpMode) (d a b : XReg)
  | fclass (f : FpMode) (d a : XReg)
  | cvtfi (u : Bool) (f : FpMode) (d a : XReg)
  | cvtif (u : Bool) (f : FpMode) (d a : XReg)
  | cvtff (sat : Bool) (f : FpMode) (d a : XReg) (dst : FpTy)
  | sel (d a b : XReg)
  | feat (d : XReg) (k : BitVec 8)
  | tret
  | trap (code : BitVec 8)
  | loopi (level : Bool) (imm : Nat) (len : Nat)
  | vadd (o : VBin)
  | vsub (o : VBin)
  | vmul (o : VBin)
  | vmin (o : VBin)
  | vmax (o : VBin)
  | vand (o : VBin)
  | vor (o : VBin)
  | vxor (o : VBin)
  | vsll (o : VBin)
  | vsrl (o : VBin)
  | vsra (o : VBin)
  | vfma (var : FmaVar) (rm : RMode) (o : VTri)
  | vdiv (o : VBin)
  | vsqrt (o : VUn)
  | vabs (o : VUn)
  | vneg (o : VUn)
  | vcmp (o : VCmpOps)
  | vsel (o : VTri)
  | vsplat (d : VReg) (a : XSrc) (gov : Gov) (ty : Fmt)
  | vmov (o : VOne)
  | vcvt (o : VOne) (dst : Fmt) (sat : Bool) (rm : RMode)
  | vqnt (o : VQOps)
  | vdqnt (o : VQOps) (lb : Bool)
  | vred (o : VOne) (red : Red) (u : Bool) (rm : RMode) (b : VReg)
  | vperm (o : VOne) (b : VReg) (lb : Bool)
  | vslide (o : VOne) (b : XSrc)
  | vext (a : VReg) (la : Bool) (b : XSrc) (ty : Fmt)
  | vins (d : VReg) (a b : XReg) (ty : Fmt)
  | vdot (o : VTri) (mix : Bool)
  | vsfu (o : VOne) (fn : Sfu) (rm : RMode)
  | viota (d : VReg) (a b : XReg) (gov : Gov) (ty : Fmt)
  | vldl (o : VMem)
  | vstl (o : VMem)
  | vldls (o : VStr)
  | vstls (o : VStr)
  | vgath (o : VIdx)
  | vscat (o : VIdx)
  | vldg (o : VMem) (ff : Bool)
  | vstg (o : VMem)
  | pcount (d : XReg) (a : PReg)
  | pbound (d : PReg) (a b : XReg)
  | pmask (d : PReg) (a : VReg) (la : Bool) (pred : PReg) (ty : Fmt)
  | pfirst (d : PReg) (a : VReg) (la : Bool) (pred : PReg) (ty : Fmt)
  | vpopc (a : VReg) (la : Bool) (pred : PReg) (ty : Fmt)
  | vwidth (d : XReg) (ty : Fmt)
  | vloop (a : XReg) (n : Nat)
  | vsync
  | vfree (sub : Fin 4) (code : BitVec 8)
  | tmclr (d : VReg) (gov : Gov)
  | tmacc (o : VOne)
  | tmmerge (d a : VReg) (la : Bool) (b : VReg) (lb : Bool) (gov : Gov)
  | tmfold (d a : VReg) (la : Bool) (pred : PReg)
  | tmexit (d a : VReg) (la : Bool) (gov : Gov)
  | tmtab (a : XReg) (pair exit : Bool)
  | barv (n : Reg8)
  | bwait (n : Reg8)
  | bmask (d a : XReg)
  | send (d a : XReg) (req : Bool) (len : Fin 8)
  | recv (d : XReg) (ch : Fin 16)
  | rpoll (d : XReg) (ch : Fin 16)
  | fetake (d a : XReg)
  | feput (d a b : XReg)
  | fepeek (d a b : XReg)
  | sstep
  | shpark (d a : XReg)
  | shunpark (d a : XReg)
  | ldg (d a : XReg) (off : Int) (size : Size) (u acq : Bool) (scope : Scope)
  | stg (s a : XReg) (off : Int) (size : Size) (rel : Bool) (scope : Scope)
  | atom (d a b : XReg) (aop : Aop) (scope : Scope)
  | atoml (d a b : XReg) (aop : Aop) (ty : AtomTy)
  | fence (scope : Scope)
  | chunk
  | stashRdwin (d a : XReg)
  | stashWrwin (d a b : XReg)
  | stashClean (d a b : XReg)
  | stashFlush (d a b : XReg)
  | stashFetch (d a b : XReg)
  | qpush (a : XReg)
  | qpop (d : XReg) (q : Reg8)
  | qstat (d : XReg) (q : Reg8)
  | cpy (kind : CopyKind) (d a b : XReg)
  | cpyx (kind : CopyKind) (d a b e : XReg)
  | ringset (d : Reg8) (a b : XReg)
  | ringadv (d : Reg8) (head : Bool) (n : Nat)
  | mma (d a b : Reg8) (m : MmaMode) (k : Nat)
  | mdrain (d a : Reg8) (b : XReg) (m : DrainMode)
  | rtset (d a b : XReg) (rd : Bool)
  | rtsend (d a b : XReg)
  | rtmark (entry : Fin 64)
  | gpost (d a b : XReg)
  | gtake (d a b : XReg)
  | gstat (d a : XReg) (sel : GSel)
  | gerr (d a b : XReg)
  | grearm (d a b : XReg)
  | loopCntWrite (n : Bool) (s : XReg)
  | amaxWrite (f : Bool) (s : XReg)
  | shapeWrite (s : XReg)
  | tmodeWrite (s : XReg)
  | bmWrite (n : Reg8) (s : XReg)
  | chcfgWrite (n : Fin 16) (s : XReg)
  | waitcfgWrite (s : XReg)
  | stashCfgWrite (s : XReg)
  | chunkLimWrite (s : XReg)
  | ringRegisterWrite (n : Reg8) (k : Fin 6) (s : XReg)
  | permWrite (s : XReg)
  | accmodeWrite (s : XReg)
  | gangWrite (s : XReg)
  | sequencerEntryExecute (cl : ClusterId)
  | waitResume (c : CoreId)
  | sendDelivery (c : CoreId)
  | fetakeRetry (c : CoreId)
  | remoteOperation (c : CoreId)
  | barrierRelease (c : CoreId) (n : Reg8)
  | startMessage (c : CoreId) (entry : Half)
  | instructionStoreWrite (c : CoreId) (addr : Half) (w : Half)
  | levelStep (c : CoreId)
  | lend (i : Nat)
  | recallMsg (i : Nat)
  | returnMsg (i : Nat)
  | cycleNotice (i : Nat)
  | governorCycle
  | parkedShareTimeout (c : CoreId)
  | linkWidthChange (l : Fin 18)
  | regulatorFailure (c : CoreId)
  | slewBoundary (cl : ClusterId)
  | chunkCommit (c : CoreId) (spurious : Bool)
  | pageWalk (c : CoreId) (va : BitVec 56) (w : Bool)
  | directoryRequest (c : CoreId) (line : Nat) (kind : DirKind)
  | translationInvalidate (part : Nat) (va : BitVec 56)
  | copyCommand (c : CoreId)
  | copySegment (c : CoreId) (corrected : Bool)
  | planEntry (c : CoreId)
  | gangJoin (c : CoreId)
  | mmaCommand (c : CoreId)
  | kStep (c : CoreId)
  | mmaCompletion (c : CoreId) (corrected : Bool)
  | mdrainCommand (c : CoreId) (corrected : Bool)
  | routerCommand (c : CoreId)
  | streamPacket (c : CoreId) (e : StreamTurn)
  | entryUpdate (c : CoreId) (e : Fin 64)
  | rtsendCompletion (c : CoreId) (corrected : Bool)
  | lostNotice (c : CoreId) (cid : BitVec 16)
  | fault
  | gateRequest (c : SlateSend)
  | launch (vf : Fin 16)
  | launchStart (id : Nat)
  | resetpart (vf : Fin 16)
  | readlog (vf : Fin 16)
  | resync (vf : Fin 16)
  | resizeApply (part : Nat)
  | telemetryInterval (recs : List (Nat × Nat × Nat))
  | scrubError (pa : BitVec 52)
  | watchdog (c : CoreId)
  | synchronisedStop (part : Nat) (t : Word)
  | stopAtT (part : Nat)
  | flushToken (c : CoreId)
  | resume (part : Nat) (t2 : Word)
  | resumeRelease (part : Nat)
  | sliceEnd (part : Nat)
  | tokenPeriod
  | bucketRefill
  | gateSetup (g : GateId) (entries : List GateEntry) (w : Option WindowSpec)
  | gateClose (g : GateId)
  | gateRelease (g : GateId)
  | migration (part : Nat) (dst : List Node)
  | cutover (part : Nat)
  | vfReset (vf : Fin 16)
  | resize (part : Nat) (masks : List (Nat × BitVec 512))
  | reconfigureAdd (e : ReconfEntry)
  | reconfigureRemove (e : ReconfEntry)
  | reconfigureShare (e : ReconfEntry)
  | reconfigureUnshare (e : ReconfEntry)
  | reconfigureSlice (e : ReconfEntry)
  | sqtail (vf : Fin 16) (v : Word)
  | eqhead (vf : Fin 16) (v : Word)
  | barRegisterWrite (vf : Fin 16) (reg : Fin 3) (v : Word)
  | monitorRestart
  | powerOn (b : BootInput)
  | monitorUpdate (version : MonitorImage) (ok : Bool)
  | linkFailure (loss : LinkLoss)
  | debugHold (c : CoreId) (pc : Half)
  | debugStep (c : CoreId)
  | poison (p : PoisonAt)
  | debugRun
  | vfEnable (vf : Fin 16) (policy : Nat)
  | policyImageLoad (version : Nat) (ok : Bool)
  | allotmentWrite (w : AllotWrite)
  | slateSetting (w : SlateWrite)
  deriving DecidableEq, Repr

end Sys2Proof
end

