-- ==== Sys2Proof/Machine/Exact.lean ====
section
/-!
DEFINITION. Exact numbers and the one rounding (02_number_formats.md R35, R48): dyadic reals with a sign, infinities
and NaN; sums and products without error; and the rounding of a ratio to a grid.
-/

namespace Sys2Proof

/-- An exact value: NaN, an infinity, or (-1)^neg * m * 2^e. A zero keeps its sign in `neg`. -/
inductive Num where
  | nan
  | inf (neg : Bool)
  | fin (neg : Bool) (m : Nat) (e : Int)
  deriving DecidableEq, Repr

/-- The exact value of an integer; zero is +0. -/
def Num.ofInt (v : Int) : Num := .fin (v < 0) v.natAbs 0

/-- Negation, exact, zeros included. -/
def Num.neg : Num → Num
  | .nan => .nan
  | .inf n => .inf (!n)
  | .fin n m e => .fin (!n) m e

/-- Magnitude. -/
def Num.abs : Num → Num
  | .nan => .nan
  | .inf _ => .inf false
  | .fin _ m e => .fin false m e

/-- Whether a value is NaN. -/
def Num.isNan : Num → Bool
  | .nan => true
  | _ => false

/-- Whether a value is neither NaN nor an infinity. -/
def Num.isFin : Num → Bool
  | .fin _ _ _ => true
  | _ => false

/-- Whether a value is +0 or -0. -/
def Num.isZero : Num → Bool
  | .fin _ m _ => m == 0
  | _ => false

/-- The sign bit of a value. -/
def Num.sign : Num → Bool
  | .nan => false
  | .inf n => n
  | .fin n _ _ => n

/-- Exact product (R48: exclusive OR of the signs; 0 * infinity is NaN). -/
def Num.mul : Num → Num → Num
  | .nan, _ => .nan
  | _, .nan => .nan
  | .inf a, .inf b => .inf (a != b)
  | .inf a, .fin b m _ => if m == 0 then .nan else .inf (a != b)
  | .fin a m _, .inf b => if m == 0 then .nan else .inf (a != b)
  | .fin a m e, .fin b n f => .fin (a != b) (m * n) (e + f)

/-- The signed integer (-1)^neg * m * 2^(e - q) for q at most e. -/
def scaledInt (neg : Bool) (m : Nat) (e q : Int) : Int :=
  let v : Int := ((m <<< (e - q).toNat : Nat) : Int)
  if neg then -v else v

/-- Adds a finite term to a running sum s * 2^q, lowering q where needed. -/
def addTerm (acc : Int × Int) (neg : Bool) (m : Nat) (e : Int) : Int × Int :=
  let q := if e < acc.2 then e else acc.2
  (acc.1 * ((1 <<< (acc.2 - q).toNat : Nat) : Int) + scaledInt neg m e q, q)

/-- What a list of terms holds: a NaN, a +infinity, a -infinity, whether every term is -0, whether every term is +0,
and the finite sum. -/
structure SumAcc where
  nan : Bool
  pinf : Bool
  ninf : Bool
  allNegZero : Bool
  allPosZero : Bool
  sum : Int
  exp : Int
  deriving DecidableEq, Repr

/-- One term of an exact sum. -/
def SumAcc.step (s : SumAcc) : Num → SumAcc
  | .nan => { s with nan := true, allNegZero := false, allPosZero := false }
  | .inf n => { s with pinf := s.pinf || !n, ninf := s.ninf || n, allNegZero := false, allPosZero := false }
  | .fin n m e =>
    let t := addTerm (s.sum, s.exp) n m e
    { s with
      allNegZero := s.allNegZero && (m == 0 && n)
      allPosZero := s.allPosZero && (m == 0 && !n)
      sum := t.1, exp := t.2 }

/-- The exact sum of terms under a rounding mode, which decides the sign of an exact zero only (R48). -/
def sumExact (rm : RMode) (ts : List Num) : Num :=
  let s := ts.foldl SumAcc.step ⟨false, false, false, true, true, 0, 0⟩
  if s.nan || (s.pinf && s.ninf) then .nan
  else if s.pinf then .inf false
  else if s.ninf then .inf true
  else if s.sum == 0 then
    .fin (match rm with
      | .rdn => !s.allPosZero
      | _ => s.allNegZero) 0 0
  else .fin (s.sum < 0) s.sum.natAbs s.exp

/-- Compares two exact values that are not NaN as reals (+0 = -0). -/
def Num.cmp : Num → Num → Ordering
  | .nan, _ => .eq
  | _, .nan => .eq
  | .inf a, .inf b => if a == b then .eq else if a then .lt else .gt
  | .inf a, .fin _ _ _ => if a then .lt else .gt
  | .fin _ _ _, .inf b => if b then .gt else .lt
  | .fin a m e, .fin b n f =>
    let q := if e < f then e else f
    compare (scaledInt a m e q) (scaledInt b n f q)

/-- a < b, false when either is NaN. -/
def Num.lt (a b : Num) : Bool := !a.isNan && !b.isNan && a.cmp b == .lt
/-- a <= b, false when either is NaN. -/
def Num.le (a b : Num) : Bool := !a.isNan && !b.isNan && a.cmp b != .gt
/-- a = b as reals, false when either is NaN. -/
def Num.eqv (a b : Num) : Bool := !a.isNan && !b.isNan && a.cmp b == .eq

/-- a < b in the order that ranks -0 below +0 (R50). -/
def Num.ltz (a b : Num) : Bool := a.lt b || (a.isZero && b.isZero && a.sign && !b.sign)

/-- A non-negative ratio num / den, den not 0, for the one rounding. -/
structure Ratio where
  num : Nat
  den : Nat
  deriving DecidableEq, Repr

/-- The ratio of m * 2^e. -/
def Ratio.dyadic (m : Nat) (e : Int) : Ratio :=
  if e < 0 then ⟨m, 1 <<< (-e).toNat⟩ else ⟨m <<< e.toNat, 1⟩

/-- The largest l with 2^l <= num / den, for a non-zero ratio. -/
def Ratio.log2 (r : Ratio) : Int :=
  let l : Int := (r.num.log2 : Int) - (r.den.log2 : Int)
  let ok := if l < 0 then r.den <= r.num <<< (-l).toNat else r.den <<< l.toNat <= r.num
  if ok then l else l - 1

/-- Whether rounding goes up in magnitude: `q` and `r` are the quotient and remainder on the grid, `d` the divisor. -/
def roundUp (rm : RMode) (neg : Bool) (q r d : Nat) : Bool :=
  match rm with
  | .rne => d < 2 * r || (2 * r == d && q % 2 == 1)
  | .rtz => false
  | .rdn => neg && r != 0
  | .rup => !neg && r != 0

/-- A ratio rounded to a whole number of steps 2^q. -/
def roundGrid (rm : RMode) (neg : Bool) (r : Ratio) (q : Int) : Nat :=
  let n := if q < 0 then r.num <<< (-q).toNat else r.num
  let d := if q < 0 then r.den else r.den <<< q.toNat
  let s := n / d
  if roundUp rm neg s (n % d) d then s + 1 else s

/-- Steps 1 and 2 of R35: the code of a magnitude in a format with fraction width `m` and least exponent step `qmin`,
the exponent unbounded above. Codes are ordered as the values are. -/
def roundCode (rm : RMode) (neg : Bool) (m : Nat) (qmin : Int) (r : Ratio) : Nat :=
  if r.num == 0 then 0
  else
    let q0 := r.log2 - m
    let q := if q0 < qmin then qmin else q0
    (q - qmin).toNat * 2 ^ m + roundGrid rm neg r q

/-- floor of the square root, by setting bits from `k - 1` down. -/
def sqrtBits (n : Nat) : Nat → Nat → Nat
  | 0, acc => acc
  | k + 1, acc =>
    let t := acc + 2 ^ k
    sqrtBits n k (if t * t <= n then t else acc)

/-- floor of the square root of n. -/
def isqrt (n : Nat) : Nat := sqrtBits n (n.log2 / 2 + 1) 0

/-- A ratio that rounds, to any grid of at most 60 significant bits, as the square root of `r` does: exact where the
root is, and else strictly between the neighbouring points of a finer grid. -/
def Ratio.sqrt (r : Ratio) : Ratio :=
  -- sqrt(num / den) = sqrt(num * den) / den, carried to 140 further bits
  let s := isqrt (r.num * r.den <<< 280)
  if s * s == r.num * r.den <<< 280 then ⟨s, r.den <<< 140⟩ else ⟨2 * s + 1, r.den <<< 141⟩

/-- An exact value rounded to an integer in a mode; 0 for NaN and infinities, which callers treat first. -/
def Num.toInt (rm : RMode) : Num → Int
  | .fin n m e =>
    let k := roundGrid rm n (Ratio.dyadic m e) 0
    if n then -(k : Int) else (k : Int)
  | _ => 0

end Sys2Proof
end

