-- ==== Sys2Proof/Machine/Formats.lean ====
section
/-!
DEFINITION. The sixteen element formats (02_number_formats.md R28 to R47): codes, widths, classes, decoding to exact
values, rounding and conversion, S24 scales, residue triples and the amax record.
-/

namespace Sys2Proof

/-- The format with a code of 0 to 15; codes 16 to 31 are reserved (R28). -/
def Fmt.ofCode : Nat → Option Fmt
  | 0 => some .raw | 1 => some .int8 | 2 => some .uint8 | 3 => some .int4
  | 4 => some .fp32 | 5 => some .bf16 | 6 => some .fp16 | 7 => some .e4m3
  | 8 => some .e5m2 | 9 => some .e2m1 | 10 => some .int16 | 11 => some .int32
  | 12 => some .res | 13 => some .s24 | 14 => some .int64 | 15 => some .fp64
  | _ => none

/-- The code of a format (R28). -/
def Fmt.code : Fmt → Nat
  | .raw => 0 | .int8 => 1 | .uint8 => 2 | .int4 => 3
  | .fp32 => 4 | .bf16 => 5 | .fp16 => 6 | .e4m3 => 7
  | .e5m2 => 8 | .e2m1 => 9 | .int16 => 10 | .int32 => 11
  | .res => 12 | .s24 => 13 | .int64 => 14 | .fp64 => 15

/-- Element width in bits (R28). -/
def Fmt.width : Fmt → Nat
  | .int4 | .e2m1 => 4
  | .raw | .int8 | .uint8 | .e4m3 | .e5m2 => 8
  | .bf16 | .fp16 | .int16 => 16
  | .fp32 | .int32 | .res | .s24 => 32
  | .int64 | .fp64 => 64

/-- Lanes of a vector register (R28, R114). -/
def Fmt.lanes (f : Fmt) : Nat := Config.vl / f.width

/-- The float class of R115. -/
def Fmt.isFloat : Fmt → Bool
  | .fp64 | .fp32 | .bf16 | .fp16 => true
  | _ => false

/-- The integer class of R115. -/
def Fmt.isInt : Fmt → Bool
  | .int8 | .uint8 | .int16 | .int32 | .int64 => true
  | _ => false

/-- The floating formats of R130: the float class with e4m3, e5m2, e2m1. -/
def Fmt.isFloating : Fmt → Bool
  | .fp64 | .fp32 | .bf16 | .fp16 | .e4m3 | .e5m2 | .e2m1 => true
  | _ => false

/-- The whole formats of R130: the integer class with int4. -/
def Fmt.isWhole : Fmt → Bool
  | .int8 | .uint8 | .int16 | .int32 | .int64 | .int4 => true
  | _ => false

/-- Whether a format is one of the signed integers that `u` may reinterpret (R122, R124). -/
def Fmt.isSignedInt (f : Fmt) : Bool := f.isInt && f != .uint8

/-- Scalar floating-point formats as element formats (R33). -/
def FpTy.fmt : FpTy → Fmt
  | .fp32 => .fp32 | .fp64 => .fp64 | .bf16 => .bf16 | .fp16 => .fp16

/-- The layout of a floating format (R30, R38): fraction width, bias, code of the largest finite magnitude, code of
infinity where there is one, default NaN (R32) where there is one, and the position of the sign (none for S24). -/
structure FloatLayout where
  frac : Nat
  bias : Nat
  maxCode : Nat
  infCode : Option Nat
  nanCode : Option Nat
  signAt : Option Nat
  deriving DecidableEq, Repr

/-- R30, R32 and R38. -/
def Fmt.layout : Fmt → FloatLayout
  | .fp64 => ⟨52, 1023, 0x7FEFFFFFFFFFFFFF, some 0x7FF0000000000000, some 0x7FF8000000000000, some 63⟩
  | .fp32 => ⟨23, 127, 0x7F7FFFFF, some 0x7F800000, some 0x7FC00000, some 31⟩
  | .bf16 => ⟨7, 127, 0x7F7F, some 0x7F80, some 0x7FC0, some 15⟩
  | .fp16 => ⟨10, 15, 0x7BFF, some 0x7C00, some 0x7E00, some 15⟩
  | .e5m2 => ⟨2, 15, 0x7B, some 0x7C, some 0x7E, some 7⟩
  | .e4m3 => ⟨3, 7, 0x7E, none, some 0x7F, some 7⟩
  | .e2m1 => ⟨1, 1, 0x7, none, none, some 3⟩
  | .s24 => ⟨16, 127, 0xFEFFFF, some 0xFF0000, some 0xFF8000, none⟩
  | _ => ⟨0, 0, 0, none, none, none⟩

/-- The exponent of the least step of a layout: 1 - bias - fraction width. -/
def FloatLayout.qmin (l : FloatLayout) : Int := 1 - (l.bias : Int) - (l.frac : Int)

/-- The exact value of a magnitude code that is finite (R30). -/
def FloatLayout.finite (l : FloatLayout) (neg : Bool) (code : Nat) : Num :=
  let e := code / 2 ^ l.frac
  let f := code % 2 ^ l.frac
  if e == 0 then .fin neg f l.qmin
  else .fin neg (2 ^ l.frac + f) (l.qmin + (e - 1 : Nat))

/-- The exact value of a code in a layout. -/
def FloatLayout.value (l : FloatLayout) (v : Nat) : Num :=
  let neg := match l.signAt with
    | some s => bit v s
    | none => false
  let mag := match l.signAt with
    | some s => v % 2 ^ s
    | none => v % 2 ^ 24
  if mag <= l.maxCode then l.finite neg mag
  else if some mag == l.infCode then .inf neg
  else .nan

/-- A magnitude code with a sign. -/
def FloatLayout.signedCode (l : FloatLayout) (neg : Bool) (mag : Nat) : Nat :=
  match l.signAt with
  | some s => if neg then mag + 2 ^ s else mag
  | none => mag

/-- The default NaN, +0 where the format has none (R32). -/
def FloatLayout.nan (l : FloatLayout) : Nat := l.nanCode.getD 0

/-- Whether an overflow in a mode delivers the largest finite value in place of an infinity (R35 step 3). -/
def overflowToMax (rm : RMode) (neg : Bool) : Bool :=
  match rm with
  | .rne => false
  | .rtz => true
  | .rdn => !neg
  | .rup => neg

/-- A finite ratio rounded into a layout with no saturation (R35, and R37's first column for formats with no
infinity). -/
def FloatLayout.roundRatio (l : FloatLayout) (rm : RMode) (neg : Bool) (r : Ratio) : Nat :=
  let c := roundCode rm neg l.frac l.qmin r
  if c <= l.maxCode then l.signedCode neg c
  else match l.infCode with
    | some i => l.signedCode neg (if overflowToMax rm neg then l.maxCode else i)
    | none => match l.nanCode with
      | some n => n
      | none => l.signedCode neg l.maxCode

/-- round(v, mode, fmt) of R35 for the float class. -/
def FloatLayout.round (l : FloatLayout) (rm : RMode) : Num → Nat
  | .nan => l.nan
  | .inf n => match l.infCode with
    | some i => l.signedCode n i
    | none => l.nan
  | .fin n m e => l.roundRatio rm n (Ratio.dyadic m e)

/-- round(v, mode, fmt) of R35. -/
def Fmt.round (f : Fmt) (rm : RMode) (v : Num) : Nat := f.layout.round rm v

/-- A converted value and whether it sets amaxf.sat (R37). -/
structure Conv where
  val : Nat
  sat : Bool
  deriving DecidableEq, Repr

/-- The exact value of the largest finite number of a layout. -/
def FloatLayout.largest (l : FloatLayout) : Num := l.finite false l.maxCode

/-- Conversion into a floating format (R37, R38 for S24). -/
def Fmt.convFloat (f : Fmt) (rm : RMode) (sat : Bool) (v : Num) : Conv :=
  let l := f.layout
  match v with
  | .nan => ⟨l.nan, f == .e2m1⟩
  | .inf n =>
    if f == .s24 && n then ⟨l.nan, false⟩
    else if sat || f == .e2m1 then ⟨l.signedCode n l.maxCode, true⟩
    else match l.infCode with
      | some i => ⟨l.signedCode n i, false⟩
      | none => ⟨l.nan, false⟩
  | .fin n m e =>
    if f == .s24 && n && m != 0 then ⟨l.nan, false⟩
    else
      let c := roundCode rm n l.frac l.qmin (Ratio.dyadic m e)
      let beyond := l.largest.lt (Num.fin false m e)
      if c <= l.maxCode then ⟨l.signedCode n c, c == l.maxCode && beyond⟩
      else if sat || f == .e2m1 then ⟨l.signedCode n l.maxCode, true⟩
      else match l.infCode with
        | some i =>
          if overflowToMax rm n then ⟨l.signedCode n l.maxCode, true⟩ else ⟨l.signedCode n i, false⟩
        | none => ⟨l.nan, false⟩

/-- The range of an integer format, read as unsigned where `u` is set (R34, R124). -/
def Fmt.intRange (f : Fmt) (u : Bool) : Int × Int :=
  let w := f.width
  if u || f == .uint8 then (0, (2 ^ w : Nat) - 1)
  else (-(2 ^ (w - 1) : Nat), (2 ^ (w - 1) : Nat) - 1)

/-- A value clamped to a range, and whether it lay outside. -/
def clampInt (lo hi v : Int) : Int × Bool :=
  if v < lo then (lo, true) else if hi < v then (hi, true) else (v, false)

/-- A floating value rounded to an integer and clamped (R37): NaN gives 0; both set amaxf.sat. -/
def convToRange (rm : RMode) (lo hi : Int) (v : Num) : Int × Bool :=
  match v with
  | .nan => (0, true)
  | .inf n => (if n then lo else hi, true)
  | .fin n m e =>
    let c := clampInt lo hi (Num.toInt rm v)
    -- a bound reached by rounding from outside the range counts too
    let outside := (Num.ofInt hi).lt (.fin n m e) || (Num.fin n m e).lt (Num.ofInt lo)
    (c.1, outside && (c.1 == lo || c.1 == hi))

/-- The integer an element of a whole format holds; `u` reads a signed format as unsigned. -/
def Fmt.intValue (f : Fmt) (u : Bool) (v : Nat) : Int :=
  if u || f == .uint8 then ((v % 2 ^ f.width : Nat) : Int) else signed f.width v

/-! ### Residue triples (R42 to R45) -/

/-- The product of the moduli, 255 * 256 * 257 (R43). -/
def resM : Nat := 16776960

/-- A RES container packed from its residues (R42). -/
def resPack (c257 c255 c256 : Nat) : Nat := c257 <<< 16 ||| c255 <<< 8 ||| c256

/-- Whether R42 rejects a container as an input. -/
def resBad (v : Nat) : Bool := bits v 25 7 != 0 || bits v 16 9 > 256

/-- The three residues of a container, 255 read as 0 (R42). -/
def resParts (v : Nat) : Nat × Nat × Nat := (bits v 16 9 % 257, bits v 8 8 % 255, bits v 0 8)

/-- The container of an integer (R44). -/
def resOfInt (v : Int) : Nat := resPack (v % 257).toNat (v % 255).toNat (v % 256).toNat

/-- The integer of a container, by the Chinese remainder theorem (R44). -/
def resToInt (v : Nat) : Int :=
  let (c257, c255, c256) := resParts v
  let x := (c255 * 8421376 + c256 * 16711425 + c257 * 8421120) % resM
  if x <= 8388479 then (x : Int) else (x : Int) - (resM : Int)

/-- A channel-by-channel operation on integers' residues (R43). -/
def resMap2 (op : Int → Int → Int) (a b : Nat) : Nat :=
  let (a7, a5, a6) := resParts a
  let (b7, b5, b6) := resParts b
  resPack ((op a7 b7) % 257).toNat ((op a5 b5) % 255).toNat ((op a6 b6) % 256).toNat

/-- The signed range of RES (R43). -/
def resRange : Int × Int := (-8388480, 8388479)

/-! ### Elements as exact values -/

/-- The exact value of an element: floating formats by R30, S24 by R38, whole formats by R34, RES by R44. -/
def Fmt.value (f : Fmt) (v : Nat) : Num :=
  if f.isFloating || f == .s24 then f.layout.value v
  else if f == .res then .ofInt (resToInt v)
  else .ofInt (f.intValue false v)

/-- The pairs VCVT accepts (R130). -/
def convAllowed (src dst : Fmt) : Bool :=
  (src.isFloating && (dst.isFloating || dst.isWhole))
  || (src.isWhole && (dst.isFloating || dst.isWhole || dst == .res))
  || (src == .res && (dst == .int32 || dst == .int64))
  || (src == .fp32 && dst == .s24) || (src == .s24 && dst == .fp32)

/-- Whether a format is the source of some pair of R130. -/
def convSource (src : Fmt) : Bool := src.isFloating || src.isWhole || src == .res || src == .s24

/-- One element converted (R37, R130). DESIGN CHOICE (log 8): an S24 infinity into fp32 with sat = 1 gives the largest
finite value and sets amaxf.sat, as R37's column says; R130 says that an S24 infinity gives +∞, and names no sat. -/
def convElem (src dst : Fmt) (rm : RMode) (sat : Bool) (v : Nat) : Conv :=
  if dst.isFloating || dst == .s24 then dst.convFloat rm sat (src.value v)
  else if dst == .res then
    let i := src.intValue false v
    if sat then
      let c := clampInt resRange.1 resRange.2 i
      ⟨resOfInt c.1, c.2⟩
    else ⟨resOfInt i, false⟩
  else
    let (lo, hi) := dst.intRange false
    if src.isFloating then
      let c := convToRange rm lo hi (src.value v)
      ⟨wrap dst.width c.1, c.2⟩
    else
      let i := if src == .res then resToInt v else src.intValue false v
      if sat then
        let c := clampInt lo hi i
        ⟨wrap dst.width c.1, c.2⟩
      else ⟨wrap dst.width i, false⟩

/-! ### Block codes, fat pointers and scales -/

/-- The block length of a code (R40): none when unscaled. -/
def blkLen : Nat → Option Nat
  | 3 => some 8
  | 4 => some 16
  | 5 => some 32
  | _ => none

/-- Whether a blk code is reserved (R40). -/
def blkReserved (b : Nat) : Bool := b == 1 || b == 2 || b == 6 || b == 7

/-- Whether a format may carry a block code other than 0 (R40). -/
def Fmt.blkOk : Fmt → Bool
  | .int8 | .int4 | .e4m3 | .e5m2 | .e2m1 => true
  | _ => false

/-- fmt field of a fat pointer, bits [63:59]. -/
def ptrFmt (p : Word) : Nat := bits p.toNat 59 5
/-- blk field of a fat pointer, bits [58:56]. -/
def ptrBlk (p : Word) : Nat := bits p.toNat 56 3
/-- tag of a fat pointer, bits [63:56] (R101). -/
def ptrTag (p : Word) : Nat := bits p.toNat 56 8
/-- address of a fat pointer, bits [55:0]. -/
def ptrAddr (p : Word) : Nat := bits p.toNat 0 56

/-- Whether fmt and blk together are refused with FMT (R28, R40). -/
def tagBad (fmt blk : Nat) : Bool :=
  match Fmt.ofCode fmt with
  | none => true
  | some f => blkReserved blk || (blk != 0 && !f.blkOk)

/-- Whether an S24 container's bits [31:24] are not zero (R38). -/
def s24Bad (v : Nat) : Bool := bits v 24 8 != 0

/-- The exact product of an element and a scale (R39). It is the product of R48: the cases of R39's table are those
of an exact product whose first factor is not negative. -/
def scaled (s x : Num) : Num := s.mul x

/-! ### amax and amaxf (R46, R47) -/

/-- What a converting instruction adds to the two amax registers: the largest magnitude seen, already rounded up to
FP32, and the two sticky flags. -/
structure AmaxDelta where
  mag : Option Nat
  nan : Bool
  sat : Bool
  deriving DecidableEq, Repr

/-- No contribution. -/
def AmaxDelta.zero : AmaxDelta := ⟨none, false, false⟩

/-- The larger of two FP32 magnitude codes. -/
def maxMag (a b : Option Nat) : Option Nat :=
  match a, b with
  | none, b => b
  | a, none => a
  | some x, some y => some (if x < y then y else x)

/-- The union of two contributions. -/
def AmaxDelta.join (a b : AmaxDelta) : AmaxDelta := ⟨maxMag a.mag b.mag, a.nan || b.nan, a.sat || b.sat⟩

/-- The contribution of one source element's value and of its conversion's saturation (R47). -/
def AmaxDelta.ofElem (v : Num) (sat : Bool) : AmaxDelta :=
  if v.isNan then ⟨none, true, sat⟩ else ⟨some (Fmt.fp32.layout.round .rup v.abs), false, sat⟩

/-- amax after a contribution: the stored value is compared as an FP32 magnitude, and a stored NaN is replaced
(R46). DESIGN CHOICE (log 8): where the contribution does not exceed it, a stored value keeps the sign bit that an SWR
gave it; R46 and R47 leave open whether its absolute value is stored. -/
def amaxUpdate (amax : Word) (d : AmaxDelta) : Word :=
  match d.mag with
  | none => amax
  | some m =>
    let old := bits amax.toNat 0 31
    if old > 0x7F800000 || old < m then BitVec.ofNat 64 m else amax

/-- amaxf after a contribution. -/
def amaxfUpdate (amaxf : Word) (d : AmaxDelta) : Word :=
  amaxf ||| BitVec.ofNat 64 (b2n d.nan + 2 * b2n d.sat)

end Sys2Proof
end

