-- ==== Sys2Proof/Machine/Classes.lean ====
section
/-!
DEFINITION. Which types, registers and codes an instruction's fields admit (03 R64, 06 R115, R124 to R136, 07 R150,
14 R271): shared by the well-formedness of an instruction and its decoder.
-/

namespace Sys2Proof

/-- Whether R64 reserves a sid. -/
def sidReserved (n : Nat) : Bool :=
  (0x15 <= n && n <= 0x17) || n == 0x1F || n == 0x3B || n == 0x3F || (0x40 <= n && n < 0x80 && n % 8 == 7) || 0x80 <= n

/-- What an elementwise op accepts (R124, R125): its classes, and whether u and sat may be set on integers. -/
structure BinKind where
  float : Bool
  res : Bool
  stor : Bool
  u : Bool
  sat : Bool
  deriving DecidableEq, Repr

/-- Whether a type is in the classes a `BinKind` names. -/
def BinKind.takes (k : BinKind) (t : Option Fmt) : Bool :=
  match t with
  | none => false
  | some f => f.isInt || (k.float && f.isFloat) || (k.res && f == .res) || k.stor

/-- VADD, VSUB, VMUL (R124, R125). -/
def BinKind.arith : BinKind := ⟨true, true, false, true, true⟩
/-- VMIN, VMAX, VDIV. -/
def BinKind.order : BinKind := ⟨true, false, false, true, false⟩
/-- VAND, VOR, VXOR. -/
def BinKind.logic : BinKind := ⟨true, true, true, false, false⟩
/-- VSLL, VSRL, VSRA. -/
def BinKind.shift : BinKind := ⟨false, false, false, false, false⟩

/-- The types VQNT writes and VDQNT reads (R131). -/
def qntType (f : Fmt) : Bool := f.blkOk

/-- The types VDOT accepts (R134). -/
def dotType : Fmt → Bool
  | .bf16 | .fp16 | .e4m3 | .e5m2 | .e2m1 | .int8 | .uint8 | .int4 => true
  | _ => false

/-- The types mix is allowed with (R134). -/
def mixType : Fmt → Bool
  | .e4m3 | .e5m2 | .int8 | .uint8 => true
  | _ => false

/-- A triple base above 29 (R150). -/
def triHigh (k : Fin 32) : Bool := k.val > 29
/-- Two triples that intersect without being equal (R150). -/
def triClash (j k : Fin 32) : Bool := j != k && (j.val < k.val + 3 && k.val < j.val + 3)
/-- and, or and xor. -/
def Aop.logic : Aop → Bool
  | .and | .or | .xor => true
  | _ => false

/-- The types of VSFU and TMACC (R135, R164). -/
def sfuType : Fmt → Bool
  | .fp32 | .bf16 | .fp16 => true
  | _ => false

end Sys2Proof
end

