-- ==== Sys2Proof/WellFormed.lean ====
section
/-!
DEFINITION. Well-formed instructions: the operand values that some sequence of words encodes without a trap of R65
(03_encoding_opcode_map.md R57 to R62 and the field tables of each instruction). That no instruction has more than
four prefixes (R54) is a condition on its words and stands beside `encode`.
-/

namespace Sys2Proof

/-- An integer of w bits, signed. -/
def fitsS (w : Nat) (v : Int) : Bool := -(2 ^ (w - 1) : Int) <= v && v < (2 ^ (w - 1) : Int)

/-- A vector b operand: lb only on a vector (R117). The type holds nothing else that could be refused. -/
def VBin.wf (o : VBin) (k : BinKind) : Bool :=
  k.takes (some o.ty)
  && (!o.u || (k.u && o.ty.isInt))
  && (!o.sat || (k.sat && o.ty.isInt))
  && (o.rm == .rne || o.ty.isFloat)

/-- VSQRT (no integers), VABS and VNEG (R124, R125). -/
def VUn.wf (o : VUn) (ints : Bool) : Bool :=
  (o.ty.isFloat || (ints && o.ty.isInt)) && (!o.sat || (ints && o.ty.isInt)) && (o.rm == .rne || o.ty.isFloat)

/-- R122. -/
def VCmpOps.wf (o : VCmpOps) : Bool :=
  (o.ty.isFloat || o.ty.isInt || o.ty == .res)
  && (!o.u || o.ty.isInt)
  && (o.ty != .res || o.cond == .eq || o.cond == .ne)

/-- R138, R141: offsets of at most 30 bits; a load names no vector source. -/
def VMem.wf (o : VMem) (store : Bool) : Bool := fitsS 30 o.slot && (store || !o.last)
/-- R139. -/
def VStr.wf (o : VStr) (store : Bool) : Bool := o.ty.width != 4 && (store || !o.last)
/-- R140. -/
def VIdx.wf (o : VIdx) (store : Bool) : Bool := o.ty.width != 4 && (store || !o.last)

/-- Whether a row of the table has words of its own: every constructor down to GREARM (R63). -/
def Instr.hasWords : Instr → Bool
  | .loopCntWrite _ _ | .amaxWrite _ _ | .shapeWrite _ | .tmodeWrite _ | .bmWrite _ _ | .chcfgWrite _ _
  | .waitcfgWrite _ | .stashCfgWrite _ | .chunkLimWrite _ | .ringRegisterWrite _ _ _ | .permWrite _
  | .accmodeWrite _ | .gangWrite _
  | .sequencerEntryExecute _ | .waitResume _ | .sendDelivery _ | .fetakeRetry _ | .remoteOperation _
  | .barrierRelease _ _ | .startMessage _ _ | .instructionStoreWrite _ _ _ | .levelStep _ | .lend _ | .recallMsg _
  | .returnMsg _ | .cycleNotice _ | .governorCycle | .parkedShareTimeout _ | .linkWidthChange _
  | .regulatorFailure _ | .slewBoundary _ | .chunkCommit _ _ | .pageWalk _ _ _ | .directoryRequest _ _ _
  | .translationInvalidate _ _ | .copyCommand _ | .copySegment _ _ | .planEntry _ | .gangJoin _ | .mmaCommand _
  | .kStep _ | .mmaCompletion _ _ | .mdrainCommand _ _ | .routerCommand _ | .streamPacket _ _ | .entryUpdate _ _
  | .rtsendCompletion _ _ | .lostNotice _ _ | .fault | .linkFailure _ | .scrubError _ | .watchdog _
  | .synchronisedStop _ _ | .stopAtT _ | .flushToken _ | .resume _ _ | .resumeRelease _ | .sliceEnd _
  | .tokenPeriod | .bucketRefill | .gateSetup _ _ _ | .gateClose _ | .gateRelease _ | .migration _ _ | .cutover _
  | .vfReset _ | .resize _ _ | .resizeApply _ | .reconfigureAdd _ | .reconfigureRemove _ | .reconfigureShare _
  | .reconfigureUnshare _ | .reconfigureSlice _ | .sqtail _ _ | .eqhead _ _ | .barRegisterWrite _ _ _ | .launch _
  | .launchStart _ | .resetpart _ | .readlog _ | .resync _ | .monitorRestart | .powerOn _ | .monitorUpdate _ _
  | .telemetryInterval _ | .debugHold _ _ | .debugStep _ | .poison _ | .gateRequest _ | .debugRun
  | .vfEnable _ _ | .policyImageLoad _ _ | .allotmentWrite _ | .slateSetting _ => false
  | _ => true

/-- Operands some words encode. Rows without words are events, whose operands are bounded by their types. -/
def Instr.wf : Instr → Bool
  | .addi _ _ v | .andi _ _ v | .ori _ _ v | .xori _ _ v | .slti _ _ v | .addpi _ _ v => fitsS 32 v
  | .slli _ _ n | .srli _ _ n | .srai _ _ n => n < 64
  | .li _ v => fitsS 35 v
  | .ldl _ _ o _ | .ldlu _ _ o _ | .stl _ _ o _ => fitsS 30 o
  | .beqz _ o | .bnez _ o | .bltz _ o | .bgez _ o => fitsS 35 o
  | .br o | .call o => fitsS 38 o
  | .loop _ _ n => 0 < n && n < 128
  | .loopi _ v n => v < 2 ^ 30 && 0 < n && n < 128
  | .srd _ sid | .swr _ sid => !sidReserved sid.toNat
  | .vadd o | .vsub o | .vmul o => o.wf .arith
  | .vmin o | .vmax o | .vdiv o => o.wf .order
  | .vand o | .vor o | .vxor o => o.wf .logic
  | .vsll o | .vsrl o | .vsra o => o.wf .shift
  | .vfma _ _ o => o.ty.isFloat
  | .vsqrt o => o.wf false
  | .vabs o | .vneg o => o.wf true
  | .vcmp o => o.wf
  | .vcvt o dst _ _ => convSource o.ty && convAllowed o.ty dst
  | .vqnt o => qntType o.ty && o.b != o.d
  | .vdqnt o _ => qntType o.ty
  | .vred o red u rm b =>
    let idx := red == .maxi || red == .mini
    (o.ty.isFloat || o.ty.isInt || (o.ty == .res && red == .add))
    && (!u || (o.ty.isInt && red != .add))
    && (rm == .rne || (red == .add && o.ty.isFloat))
    && !o.gov.zero
    && (if idx then b != o.d else b == 0)
  | .vperm o _ _ => o.ty.width != 4
  | .vdot o mix => dotType o.ty && (!mix || mixType o.ty)
  | .vsfu o fn rm => sfuType o.ty && (rm == .rne || fn == .rcp || fn == .rsqrt)
  | .viota _ _ _ _ ty => ty.isInt
  | .vldl o => o.wf false
  | .vstl o => o.wf true
  | .vldls o => o.wf false
  | .vstls o => o.wf true
  | .vgath o => o.wf false
  | .vscat o => o.wf true
  | .vldg o ff => o.wf false && (!ff || o.gov.pred != 0)
  | .vstg o => o.wf true
  | .vloop _ n => 0 < n && n < 16
  | .tmclr d _ => !triHigh d
  | .tmacc o => sfuType o.ty && !triHigh o.d
  | .tmmerge d a _ b _ _ =>
    !triHigh d && !triHigh a && !triHigh b && !triClash d a && !triClash d b && !triClash a b
  | .tmfold d a _ _ => !triHigh d && !triHigh a && !triClash d a
  | .tmexit _ a _ _ => !triHigh a
  | .ldg _ _ o _ _ acq sc => fitsS 30 o && (acq || sc == .core)
  | .stg _ _ o _ rel sc => fitsS 30 o && (rel || sc == .core)
  | .atoml _ _ _ aop ty => !(aop.logic && (ty == .fp32 || ty == .bf16))
  | .qpop _ q => q.val % 2 == 1
  | .ringadv _ _ n => 0 < n && n < 16
  | .mma _ _ _ _ k => 0 < k && k <= 256
  | .rtset _ _ b rd => !rd || b == 0
  | _ => true

end Sys2Proof
end

