-- ==== Sys2Proof/Decode.lean ====
section
/-!
DEFINITION. The decoder (03_encoding_opcode_map.md R51 to R66), total on any halfwords, and after it the encoder. A
pattern that is not an instruction decodes to the trap R65 and R66 give it.
-/

namespace Sys2Proof

/-! ### The prefix chain (R51 to R55) -/

/-- Which word of an instruction a field stands in (R66 names the lowest-addressed offending word). -/
inductive WK where
  | page | aux | reg1 | reg2 | imm | base
  deriving DecidableEq, Repr

/-- The words of one instruction taken apart: prefix payloads and the base word (R54, R55, R60). -/
structure Raw where
  words : List (WK × Nat)
  page : Nat
  mod : Nat
  aux : Nat
  reg1 : Nat
  reg2 : Nat
  nreg : Nat
  npage : Nat
  naux : Nat
  nimm : Nat
  immv : Nat
  base : Nat
  deriving DecidableEq, Repr

/-- No word read yet. -/
def Raw.empty : Raw := ⟨[], 0, 0, 0, 0, 0, 0, 0, 0, 0, 0, 0⟩

/-- A trap whose tval is an instruction word. -/
def wordTrap (c : Cause) (w : Nat) : Trap := ⟨c, BitVec.ofNat 64 w⟩

/-- One prefix word added, or the PREFIX trap of R54. -/
def Raw.addPrefix (r : Raw) (w : Nat) : Except Trap Raw :=
  if r.words.length >= 4 then .error (wordTrap .prefixed w)
  else match bits w 9 2 with
    | 0 =>
      if r.nimm >= 3 then .error (wordTrap .prefixed w)
      else .ok { r with words := r.words ++ [(.imm, w)], nimm := r.nimm + 1, immv := r.immv * 512 + bits w 0 9 }
    | 1 =>
      if r.nreg >= 2 then .error (wordTrap .prefixed w)
      else if r.nreg == 0 then .ok { r with words := r.words ++ [(.reg1, w)], nreg := 1, reg1 := bits w 0 9 }
      else .ok { r with words := r.words ++ [(.reg2, w)], nreg := 2, reg2 := bits w 0 9 }
    | 2 =>
      if r.npage >= 1 then .error (wordTrap .prefixed w)
      else .ok { r with words := r.words ++ [(.page, w)], npage := 1, page := bits w 6 3, mod := bits w 0 6 }
    | _ =>
      if r.naux >= 1 then .error (wordTrap .prefixed w)
      else .ok { r with words := r.words ++ [(.aux, w)], naux := 1, aux := bits w 0 9 }

/-- Reads prefix words up to the base word (R52). A list that ends early is read as followed by 0x0000. -/
def Raw.scan : List Nat → Raw → Except Trap Raw
  | [], r => .ok { r with words := r.words ++ [(.base, 0)], base := 0 }
  | w :: ws, r =>
    if bits w 11 5 == 31 then
      match r.addPrefix w with
      | .ok r' => Raw.scan ws r'
      | .error t => .error t
    else .ok { r with words := r.words ++ [(.base, w)], base := w }

/-- How many words the decoder reads: none after a prefix that breaks R54 (R52). -/
def Raw.wordsRead : List Nat → Raw → Nat
  | [], _ => 0
  | w :: ws, r =>
    if bits w 11 5 == 31 then
      match r.addPrefix w with
      | .ok r' => Raw.wordsRead ws r' + 1
      | .error _ => 1
    else 1

/-! ### Fields (R55, R57, R60, R61) -/

/-- op, bits [15:11] of the base word. -/
def Raw.op (r : Raw) : Nat := bits r.base 11 5
/-- sub of T and Q forms on scalar pages. -/
def Raw.sub (r : Raw) : Nat := bits r.base 0 2
/-- sub of the Z form. -/
def Raw.zsub (r : Raw) : Nat := bits r.base 8 3
/-- bits [7:0]: code, sid8, imm8 or off8. -/
def Raw.lo8 (r : Raw) : Nat := bits r.base 0 8
/-- The low three bits of field d. -/
def Raw.d3 (r : Raw) : Nat := bits r.base 8 3
/-- The low three bits of field a. -/
def Raw.a3 (r : Raw) : Nat := bits r.base 5 3
/-- The low three bits of field b. -/
def Raw.b3 (r : Raw) : Nat := bits r.base 2 3
/-- d.hi. -/
def Raw.dhi (r : Raw) : Nat := bits r.reg1 7 2
/-- a.hi. -/
def Raw.ahi (r : Raw) : Nat := bits r.reg1 5 2
/-- b.hi. -/
def Raw.bhi (r : Raw) : Nat := bits r.reg1 3 2
/-- e, bits [2:0] of the first REG prefix. -/
def Raw.e3 (r : Raw) : Nat := bits r.reg1 0 3
/-- la. -/
def Raw.la (r : Raw) : Bool := bit r.base 1
/-- lb. -/
def Raw.lb (r : Raw) : Bool := bit r.base 0
/-- aux[4:0]. -/
def Raw.ax (r : Raw) : Nat := bits r.aux 0 5
/-- mod[5]. -/
def Raw.m5 (r : Raw) : Bool := bit r.mod 5

/-- A five-bit register number from its low three bits and its .hi field. -/
def reg5 (lo hi : Nat) : Fin 32 := ⟨(lo + 8 * hi) % 32, Nat.mod_lt _ (by decide)⟩
/-- An eight-member register number. -/
def reg3 (lo : Nat) : Fin 8 := ⟨lo % 8, Nat.mod_lt _ (by decide)⟩
/-- A number below 16. -/
def fin16 (n : Nat) : Fin 16 := ⟨n % 16, Nat.mod_lt _ (by decide)⟩

/-- Field d as a five-bit number. -/
def Raw.d (r : Raw) : Fin 32 := reg5 r.d3 r.dhi
/-- Field a as a five-bit number. -/
def Raw.a (r : Raw) : Fin 32 := reg5 r.a3 r.ahi
/-- Field b as a five-bit number. -/
def Raw.b (r : Raw) : Fin 32 := reg5 r.b3 r.bhi
/-- Field e as a five-bit number, e.hi from the second REG prefix. -/
def Raw.e (r : Raw) : Fin 32 := reg5 r.e3 (bits r.reg2 7 2)
/-- The governing predicate and zeroing bit (R61). -/
def Raw.gov (r : Raw) : Gov := ⟨reg3 (bits r.aux 6 3), bit r.aux 5⟩
/-- The type in mod[4:0] (R62). -/
def Raw.fmt? (r : Raw) : Option Fmt := Fmt.ofCode (bits r.mod 0 5)
/-- The type, raw standing in for a reserved code (which traps). -/
def Raw.ty (r : Raw) : Fmt := r.fmt?.getD .raw

/-! ### Immediates (R58, R59) -/

/-- The concatenated immediate, base field of width w last. -/
def Raw.immU (r : Raw) (w : Nat) : Nat := r.immv * 2 ^ w + bits r.base 0 w
/-- Signed at full width. -/
def Raw.immS (r : Raw) (w : Nat) : Int := signed (9 * r.nimm + w) (r.immU w)
/-- Unsigned with no IMM prefix, signed with one or more. -/
def Raw.immM (r : Raw) (w : Nat) : Int := if r.nimm == 0 then (r.immU w : Int) else r.immS w
/-- The immediate of an M form, whose base field is off3. -/
def Raw.immO (r : Raw) : Int :=
  let u := r.immv * 8 + r.b3
  if r.nimm == 0 then (u : Int) else signed (9 * r.nimm + 3) u

/-! ### Acceptance of prefixes and sub-operations (R56, R63) -/

/-- Base forms (R60). -/
inductive Form where
  | T | Q | I | K | M | B | J | L | S | Z
  deriving DecidableEq, Repr

/-- The form and the number of sub-operations of an assigned op (R63); `none` is a reserved op. Vector-page T and Q
forms have no sub-operation. -/
def formOf (page op : Nat) : Option (Form × Nat) :=
  match page, op with
  | 0, 0 => some (.Z, 3)
  | 0, 1 => some (.T, 4) | 0, 2 => some (.T, 4) | 0, 3 => some (.T, 4) | 0, 4 => some (.T, 4)
  | 0, 5 => some (.I, 1) | 0, 6 => some (.I, 1) | 0, 7 => some (.I, 1) | 0, 8 => some (.I, 1)
  | 0, 9 => some (.I, 1) | 0, 10 => some (.I, 1) | 0, 11 => some (.I, 1) | 0, 12 => some (.I, 1)
  | 0, 13 => some (.K, 1)
  | 0, 14 => some (.M, 1) | 0, 15 => some (.M, 1) | 0, 16 => some (.M, 1)
  | 0, 17 => some (.B, 1) | 0, 18 => some (.B, 1) | 0, 19 => some (.B, 1) | 0, 20 => some (.B, 1)
  | 0, 21 => some (.J, 1) | 0, 22 => some (.J, 1)
  | 0, 23 => some (.T, 3) | 0, 24 => some (.T, 3)
  | 0, 25 => some (.I, 1)
  | 0, 26 => some (.L, 1)
  | 0, 27 => some (.S, 1) | 0, 28 => some (.S, 1)
  | 1, 0 => some (.T, 4) | 1, 1 => some (.T, 4) | 1, 2 => some (.T, 4) | 1, 3 => some (.T, 4) | 1, 4 => some (.T, 4)
  | 1, 5 => some (.Q, 4)
  | 1, 6 => some (.T, 4) | 1, 7 => some (.T, 3) | 1, 8 => some (.T, 1)
  | 1, 9 => some (.S, 1)
  | 1, 10 => some (.Z, 2)
  | 1, 11 => some (.L, 1)
  | 2, 11 => some (.Q, 4) | 2, 17 => some (.Q, 4) | 2, 28 => some (.Q, 4)
  | 2, n => if n < 31 then some (.T, 4) else none
  | 3, 0 => some (.M, 1) | 3, 1 => some (.M, 1)
  | 3, 2 => some (.T, 4) | 3, 3 => some (.T, 4) | 3, 4 => some (.T, 4) | 3, 5 => some (.T, 4)
  | 3, 6 => some (.M, 1) | 3, 7 => some (.M, 1)
  | 3, 8 => some (.T, 4) | 3, 9 => some (.T, 4) | 3, 10 => some (.T, 4) | 3, 11 => some (.T, 4)
  | 3, 12 => some (.T, 4) | 3, 13 => some (.T, 4)
  | 3, 14 => some (.I, 1)
  | 3, 15 => some (.Z, 1) | 3, 16 => some (.Z, 4)
  | 4, 5 => some (.I, 1)
  | 4, n => if n < 5 then some (.T, 4) else none
  | 5, 0 => some (.Z, 1) | 5, 1 => some (.Z, 1) | 5, 9 => some (.Z, 1)
  | 5, n => if n < 12 then some (.T, 1) else none
  | 6, 0 => some (.M, 1) | 6, 1 => some (.M, 1)
  | 6, 4 => some (.Z, 1) | 6, 5 => some (.Z, 1) | 6, 18 => some (.Z, 1)
  | 6, 11 => some (.Q, 1)
  | 6, 13 => some (.I, 1)
  | 6, n => if n < 18 then some (.T, 1) else none
  | 7, n => if n < 5 then some (.T, 1) else none
  | _, _ => none

/-- Pages 2, 3 and 4 (R61). -/
def vectorPage (page : Nat) : Bool := page == 2 || page == 3 || page == 4

/-- REG, IMM and AUX prefixes that a base form accepts, at most (R56, R59). DESIGN CHOICE (log 8): PCOUNT, PBOUND and
VWIDTH, which take no AUX (R119, R121), are T forms of a vector page and accept an AUX prefix of zeros; any other is
RESFIELD. So with TMTAB, an I form of a vector page, which R165 says to accept a PAGE and one REG prefix. -/
def accepts (page op : Nat) (f : Form) : Nat × Nat × Nat :=
  let v := if vectorPage page then 1 else 0
  let mma := page == 6 && op == 14
  match f with
  | .T => (1, if mma then 1 else 0, if mma then 1 else v)
  | .Q => (2, 0, v)
  | .I =>
    (1, if page == 0 && (op == 9 || op == 10 || op == 11) then 1 else if page == 0 then 3 else 0, v)
  | .K => (1, 3, 0)
  | .M => (1, 3, v)
  | .B => (1, 3, 0)
  | .J => (0, 3, 0)
  | .L => if page == 0 then (1, 0, 0) else (0, 3, 0)
  | .S => (1, 0, 0)
  | .Z => (0, 0, v)

/-- The sub-operation of a form, 0 where it has none. -/
def Raw.subOf (r : Raw) : Form → Nat
  | .T => if vectorPage r.page then 0 else r.sub
  | .Q => if vectorPage r.page then 0 else r.sub
  | .Z => r.zsub
  | _ => 0

/-! ### One instruction's reading -/

/-- What an arm of the decoder yields: fields that must not be set (with the word they stand in), a queue or
register named against its class, a refused type (with its word), and the instruction. -/
structure Reading where
  bad : List (WK × Bool)
  illegal : Option Nat
  fmt : Option WK
  instr : Instr
  deriving DecidableEq, Repr

/-- A reading with no queue or type check. -/
def rd (bad : List (WK × Bool)) (i : Instr) : Reading := ⟨bad, none, none, i⟩

/-- A reading with a type check in the PAGE prefix (R115). -/
def rdT (bad : List (WK × Bool)) (ok : Bool) (i : Instr) : Reading := ⟨bad, none, if ok then none else some .page, i⟩

/-- The first word of a kind in `ks`, in the order of the words. -/
def Raw.firstBad (r : Raw) (ks : List (WK × Bool)) : Option Nat :=
  (r.words.find? (fun w => ks.any (fun k => k.2 && k.1 == w.1))).map (·.2)

/-- The word of a kind. -/
def Raw.wordOf (r : Raw) (k : WK) : Nat := ((r.words.find? (fun w => w.1 == k)).map (·.2)).getD r.base

/-- ILLEGAL, then RESFIELD, then FMT (R66). A field in a word that is absent cannot be set. -/
def Raw.finish (r : Raw) (x : Reading) : Except Trap Instr :=
  match x.illegal with
  | some t => .error (wordTrap .illegal t)
  | none =>
    match r.firstBad x.bad with
    | some w => .error (wordTrap .resfield w)
    | none =>
      match x.fmt with
      | some k => .error (wordTrap .fmt (r.wordOf k))
      | none => .ok x.instr

/-- A value that must be zero in a word. -/
def z (k : WK) (v : Nat) : WK × Bool := (k, v != 0)
/-- A flag that must be clear in a word. -/
def zb (k : WK) (v : Bool) : WK × Bool := (k, v)

/-- .hi fields and e that stand for no field, or for an eight-member class, must be 0 (R57). The arguments say whether
d.hi, a.hi, b.hi and e are used. DESIGN CHOICE (log 8): e on a form that has no e is RESFIELD too, where R57 names the
.hi fields alone. -/
def Raw.hi (r : Raw) (ud ua ub ue : Bool) : List (WK × Bool) :=
  [(.reg1, (!ud && r.dhi != 0) || (!ua && r.ahi != 0) || (!ub && r.bhi != 0) || (!ue && r.e3 != 0)),
   (.reg2, bits r.reg2 0 7 != 0)]

/-- mod and aux carry no meaning. -/
def Raw.plain (r : Raw) : List (WK × Bool) := [z .page r.mod, z .aux r.aux]
/-- Field d is unused. -/
def Raw.noD (r : Raw) : List (WK × Bool) := [z .base r.d3]
/-- Field a is unused. -/
def Raw.noA (r : Raw) : List (WK × Bool) := [z .base r.a3]
/-- Field b is unused. -/
def Raw.noB (r : Raw) : List (WK × Bool) := [z .base r.b3]

/-- Three x registers, no mod. -/
def Raw.t3 (r : Raw) (f : XReg → XReg → XReg → Instr) : Reading :=
  rd (r.plain ++ r.hi true true true false) (f r.d r.a r.b)
/-- Two x registers, b unused, no mod. -/
def Raw.t2 (r : Raw) (f : XReg → XReg → Instr) : Reading :=
  rd (r.plain ++ r.noB ++ r.hi true true false false) (f r.d r.a)
/-- I form with an immediate. -/
def Raw.i2 (r : Raw) (imm : α) (f : XReg → XReg → α → Instr) : Reading :=
  rd (r.plain ++ r.hi true true false false) (f r.d r.a imm)
/-- A shift by an immediate (R97). -/
def Raw.shift (r : Raw) (f : XReg → XReg → Nat → Instr) : Reading :=
  let n := r.immU 5
  rd (r.plain ++ r.hi true true false false ++ [zb .imm (n > 63), zb .base (n > 63)]) (f r.d r.a n)
/-- Access size of an M form. -/
def Raw.size (r : Raw) : Size :=
  match bits r.base 0 2 with
  | 0 => .byte | 1 => .half | 2 => .word | _ => .dword
/-- A local load or store (R102). -/
def Raw.m2 (r : Raw) (f : XReg → XReg → Int → Size → Instr) : Reading :=
  rd (r.plain ++ r.hi true true false false) (f r.d r.a r.immO r.size)
/-- A B form: field a stands in [10:8] and extends by a.hi. -/
def Raw.b1 (r : Raw) (f : XReg → Int → Instr) : Reading :=
  rd (r.plain ++ r.hi false true false false) (f (reg5 r.d3 r.ahi) (r.immS 8))
/-- An S form. -/
def Raw.s1 (r : Raw) (f : XReg → BitVec 8 → Instr) : Reading :=
  rd (r.plain ++ r.hi true false false false) (f r.d (BitVec.ofNat 8 r.lo8))

/-- SRD and SWR: a reserved sid is ILLEGAL with tval the sid (R66). -/
def Raw.sr (r : Raw) (f : XReg → BitVec 8 → Instr) : Reading :=
  { r.s1 f with illegal := if sidReserved r.lo8 then some r.lo8 else none }

/-- Page 0 (R96 to R106, R113). -/
def Raw.page0 (r : Raw) : Reading :=
  match r.op, r.subOf .T with
  | 0, _ =>
    match r.zsub with
    | 0 => rd (r.plain ++ r.hi false false false false ++ [z .base r.lo8]) .nop
    | 1 => rd (r.plain ++ r.hi false false false false ++ [z .base r.lo8]) .halt
    | _ => rd (r.plain ++ r.hi false false false false) (.brk (BitVec.ofNat 8 r.lo8))
  | 1, 0 => r.t3 .add | 1, 1 => r.t3 .sub | 1, 2 => r.t3 .and | 1, _ => r.t3 .or
  | 2, 0 => r.t3 .xor | 2, 1 => r.t3 .sll | 2, 2 => r.t3 .srl | 2, _ => r.t3 .sra
  | 3, 0 => r.t3 .seq | 3, 1 => r.t3 .sne | 3, 2 => r.t3 .slt | 3, _ => r.t3 .sltu
  | 4, 0 => r.t3 .min | 4, 1 => r.t3 .max | 4, 2 => r.t3 .minu | 4, _ => r.t3 .maxu
  | 5, _ => r.i2 (r.immS 5) .addi
  | 6, _ => r.i2 (r.immM 5) .andi
  | 7, _ => r.i2 (r.immM 5) .ori
  | 8, _ => r.i2 (r.immM 5) .xori
  | 9, _ => r.shift .slli
  | 10, _ => r.shift .srli
  | 11, _ => r.shift .srai
  | 12, _ => r.i2 (r.immS 5) .slti
  | 13, _ => rd (r.plain ++ r.hi true false false false) (.li r.d (r.immS 8))
  | 14, _ => r.m2 .ldl
  | 15, _ => r.m2 .ldlu
  | 16, _ => r.m2 .stl
  | 17, _ => r.b1 .beqz
  | 18, _ => r.b1 .bnez
  | 19, _ => r.b1 .bltz
  | 20, _ => r.b1 .bgez
  | 21, _ => rd r.plain (.br (r.immS 11))
  | 22, _ => rd r.plain (.call (r.immS 11))
  | 23, 0 => rd (r.plain ++ r.noD ++ r.noB ++ r.hi false true false false) (.jr r.a)
  | 23, 1 => r.t2 .jalr
  | 23, _ => r.t2 .mv
  | 24, 0 => r.t3 .addp
  | 24, 1 => r.t3 .subp
  | 24, _ => r.t3 .tagp
  | 25, _ => r.i2 (r.immS 5) .addpi
  | 26, _ =>
    rd (r.plain ++ r.hi false true false false ++ [(.base, bits r.base 0 7 == 0)])
      (.loop (bit r.base 10) (reg5 (bits r.base 7 3) r.ahi) (bits r.base 0 7))
  | 27, _ => r.sr .srd
  | _, _ => r.sr .swr

/-- rm of mod[4:2] (R36); codes 4 to 7 trap. -/
def rmOf (n : Nat) : RMode :=
  match n % 4 with
  | 0 => .rne | 1 => .rtz | 2 => .rdn | _ => .rup
/-- Scalar format of mod[1:0] (R33). -/
def fpTyOf (n : Nat) : FpTy :=
  match n % 4 with
  | 0 => .fp32 | 1 => .fp64 | 2 => .bf16 | _ => .fp16
/-- mod of a page-1 floating-point instruction (R108). -/
def Raw.fpm (r : Raw) : FpMode := ⟨rmOf (bits r.mod 2 3), fpTyOf r.mod⟩
/-- The res checks of R108; `flag` says that mod[5] has a meaning. -/
def Raw.fpBad (r : Raw) (flag : Bool) : List (WK × Bool) :=
  [(.page, (!flag && r.m5) || bits r.mod 2 3 > 3), z .aux r.aux]
/-- Floating point, three x registers. -/
def Raw.f3 (r : Raw) (f : FpMode → XReg → XReg → XReg → Instr) : Reading :=
  rd (r.fpBad false ++ r.hi true true true false) (f r.fpm r.d r.a r.b)
/-- Floating point, b unused. -/
def Raw.f2 (r : Raw) (f : FpMode → XReg → XReg → Instr) : Reading :=
  rd (r.fpBad false ++ r.noB ++ r.hi true true false false) (f r.fpm r.d r.a)
/-- Floating point with e (R109). -/
def Raw.f4 (r : Raw) (f : FpMode → XReg → XReg → XReg → XReg → Instr) : Reading :=
  rd (r.fpBad false ++ r.hi true true true true) (f r.fpm r.d r.a r.b r.e)

/-- Page 1 (R99, R105, R106, R109 to R113). -/
def Raw.page1 (r : Raw) : Reading :=
  match r.op, r.sub with
  | 0, 0 => r.t3 .mul | 0, 1 => r.t3 .mulh | 0, 2 => r.t3 .mulhu | 0, _ => r.t3 .mulhsu
  | 1, 0 => r.t3 .div | 1, 1 => r.t3 .divu | 1, 2 => r.t3 .rem | 1, _ => r.t3 .remu
  | 2, 0 => r.t2 .clz | 2, 1 => r.t2 .ctz | 2, 2 => r.t2 .popc | 2, _ => r.t2 .bswap
  | 3, 0 => r.f3 .fadd | 3, 1 => r.f3 .fsub | 3, 2 => r.f3 .fmul | 3, _ => r.f3 .fdiv
  | 4, 0 => r.f3 .fmin | 4, 1 => r.f3 .fmax | 4, 2 => r.f2 .fsqrt | 4, _ => r.f2 .fneg
  | 5, 0 => r.f4 .fma | 5, 1 => r.f4 .fms | 5, 2 => r.f4 .fnma | 5, _ => r.f4 .fnms
  | 6, 0 => r.f3 .feq | 6, 1 => r.f3 .flt | 6, 2 => r.f3 .fle | 6, _ => r.f2 .fclass
  | 7, 0 => rd (r.fpBad true ++ r.noB ++ r.hi true true false false) (.cvtfi r.m5 r.fpm r.d r.a)
  | 7, 1 => rd (r.fpBad true ++ r.noB ++ r.hi true true false false) (.cvtif r.m5 r.fpm r.d r.a)
  | 7, _ =>
    rd (r.fpBad true ++ r.hi true true false false ++ [zb .base (r.b3 > 3)]) (.cvtff r.m5 r.fpm r.d r.a (fpTyOf r.b3))
  | 8, _ => r.t3 .sel
  | 9, _ => r.s1 .feat
  | 10, _ =>
    if r.zsub == 0 then rd (r.plain ++ r.hi false false false false ++ [z .base r.lo8]) .tret
    else rd (r.plain ++ r.hi false false false false) (.trap (BitVec.ofNat 8 r.lo8))
  | _, _ =>
    rd (r.plain ++ [(.base, bits r.base 0 7 == 0)])
      (.loopi (bit r.base 10) (r.immv * 8 + bits r.base 7 3) (bits r.base 0 7))

/-! ### Vector pages -/

/-- The b operand under bs and bq (R117). -/
def Raw.vsrc (r : Raw) (bs bq : Bool) : VSrc := if bs then (if bq then .q0 else .x r.b) else .vec r.b r.lb
/-- The checks of R117. -/
def Raw.vsrcBad (r : Raw) (bs bq : Bool) : List (WK × Bool) :=
  [(.aux, bq && !bs), (.base, (bs && r.lb) || (bs && bq && r.b3 != 0)), (.reg1, bs && bq && r.bhi != 0)]
/-- A scalar operand in field b, from q0 when `q` (R136). -/
def Raw.bsrc (r : Raw) (q : Bool) : XSrc := if q then .q0 else .x r.b
/-- The b field of a q0 operand must be 0 (R117). -/
def Raw.bsrcBad (r : Raw) (q : Bool) : List (WK × Bool) := [(.base, q && r.b3 != 0), (.reg1, q && r.bhi != 0)]

/-- A binary elementwise instruction (R124). DESIGN CHOICE (log 8): u is accepted on uint8 as on the signed types. -/
def Raw.vbin (r : Raw) (k : BinKind) (f : VBin → Instr) : Reading :=
  let bs := bit r.aux 3
  let bq := bit r.aux 2
  let fl := r.ty.isFloat && r.fmt?.isSome
  let it := r.ty.isInt && r.fmt?.isSome
  rdT (r.vsrcBad bs bq ++ r.hi true true true false ++
      [(.page, r.m5 && !(k.u && it)), (.aux, (bit r.aux 4 && !(k.sat && it)) || (!fl && bits r.aux 0 2 != 0))])
    (k.takes r.fmt?)
    (f ⟨r.d, r.a, r.la, r.vsrc bs bq, r.gov, r.ty, r.m5, bit r.aux 4, rmOf (bits r.aux 0 2)⟩)

/-- VSQRT, VABS and VNEG (R124). -/
def Raw.vun (r : Raw) (float ints : Bool) (f : VUn → Instr) : Reading :=
  let fl := r.ty.isFloat && r.fmt?.isSome
  let it := r.ty.isInt && r.fmt?.isSome
  rdT (r.noB ++ r.hi true true false false ++
      [zb .base r.lb, zb .page r.m5,
       (.aux, (bit r.aux 4 && !(ints && it)) || bit r.aux 3 || bit r.aux 2 || (!fl && bits r.aux 0 2 != 0))])
    ((float && fl) || (ints && it))
    (f ⟨r.d, r.a, r.la, r.gov, r.ty, bit r.aux 4, rmOf (bits r.aux 0 2)⟩)

/-- A one-source shape. -/
def Raw.one (r : Raw) : VOne := ⟨r.d, r.a, r.la, r.gov, r.ty⟩
/-- A three-source shape. -/
def Raw.tri (r : Raw) : VTri := ⟨r.d, r.a, r.la, r.b, r.lb, r.e, bit r.aux 4, r.gov, r.ty⟩

/-- cond of VCMP. -/
def condOf (n : Nat) : Cond :=
  match n with
  | 0 => .eq | 1 => .ne | 2 => .lt | 3 => .le | 4 => .gt | 5 => .ge | _ => .un

/-- bl of VQNT and VDQNT. -/
def blOf (n : Nat) : Fin 3 := ⟨n % 3, Nat.mod_lt _ (by decide)⟩

/-- red of VRED. -/
def redOf (n : Nat) : Red :=
  match n with
  | 0 => .add | 1 => .max | 2 => .min | 3 => .maxi | _ => .mini

/-- fn of VSFU. -/
def sfuOf (n : Nat) : Sfu :=
  match n with
  | 0 => .exp2 | 1 => .log2 | 2 => .rcp | _ => .rsqrt

/-- var of VFMA. -/
def varOf (n : Nat) : FmaVar :=
  match n with
  | 0 => .fma | 1 => .fms | 2 => .nfma | _ => .nfms

/-- VQNT and VDQNT share their fields (R131, R132). -/
def Raw.qops (r : Raw) : VQOps :=
  ⟨r.d, r.a, r.la, r.b, r.gov, r.ty, bit r.aux 4, bit r.aux 3, blOf (bits r.aux 0 2)⟩

/-- Whether the type is any assigned one. -/
def Raw.anyTy (r : Raw) : Bool := r.fmt?.isSome

/-- Page 2 (R122 to R136). DESIGN CHOICE (log 8): VCMP and VRED accept u on uint8 as on the signed types. -/
def Raw.page2 (r : Raw) : Reading :=
  match r.op with
  | 0 => r.vbin .arith .vadd
  | 1 => r.vbin .arith .vsub
  | 2 => r.vbin .arith .vmul
  | 3 => r.vbin .order .vmin
  | 4 => r.vbin .order .vmax
  | 5 => r.vbin .logic .vand
  | 6 => r.vbin .logic .vor
  | 7 => r.vbin .logic .vxor
  | 8 => r.vbin .shift .vsll
  | 9 => r.vbin .shift .vsrl
  | 10 => r.vbin .shift .vsra
  | 11 =>
    rdT (r.hi true true true true ++ [zb .page r.m5]) (r.ty.isFloat && r.anyTy)
      (.vfma (varOf (bits r.aux 0 2)) (rmOf (bits r.aux 2 2)) r.tri)
  | 12 => r.vbin .order .vdiv
  | 13 => r.vun true false .vsqrt
  | 14 => r.vun true true .vabs
  | 15 => r.vun true true .vneg
  | 16 =>
    let bq := bit r.aux 4
    let bs := bit r.aux 3
    let c := bits r.aux 0 3
    rdT (r.vsrcBad bs bq ++ r.hi true true true false ++
        [(.page, r.m5 && !(r.ty.isInt && r.anyTy)), (.aux, c == 7 || (r.ty == .res && c > 1))])
      ((r.ty.isFloat || r.ty.isInt || r.ty == .res) && r.anyTy)
      (.vcmp ⟨r.d, r.a, r.la, r.vsrc bs bq, r.gov, r.ty, r.m5, condOf c⟩)
  | 17 => rdT (r.hi true true true true ++ [zb .page r.m5, z .aux (bits r.aux 0 4)]) r.anyTy (.vsel r.tri)
  | 18 =>
    let q := bit r.aux 2
    rdT (r.noB ++ r.hi true true false false ++
        [(.base, r.la || r.lb || (q && r.a3 != 0)), (.reg1, q && r.ahi != 0), zb .page r.m5,
         (.aux, bits r.aux 3 2 != 0 || bits r.aux 0 2 != 0)])
      r.anyTy (.vsplat r.d (if q then .q0 else .x r.a) r.gov r.ty)
  | 19 =>
    rdT (r.noB ++ r.hi true true false false ++ [zb .base r.lb, zb .page r.m5, z .aux r.ax]) r.anyTy (.vmov r.one)
  | 20 =>
    let dst := r.b.val
    let srcOk := r.anyTy && convSource r.ty
    let dstOk := (Fmt.ofCode dst).isSome && convAllowed r.ty ((Fmt.ofCode dst).getD .raw)
    ⟨r.hi true true true false ++ [zb .base r.lb, zb .page r.m5, z .aux (bits r.aux 3 2)], none,
      if !srcOk then some .page else if !dstOk then some .base else none,
      .vcvt r.one ((Fmt.ofCode dst).getD .raw) (bit r.aux 2) (rmOf (bits r.aux 0 2))⟩
  | 21 =>
    rdT (r.hi true true true false ++
        [zb .base r.lb, zb .reg1 (r.b == r.d), zb .base (r.b == r.d), zb .page r.m5, (.aux, bit r.aux 2 || bits r.aux 0 2 == 3)])
      (qntType r.ty && r.anyTy) (.vqnt r.qops)
  | 22 =>
    rdT (r.hi true true true false ++ [zb .page r.m5, (.aux, bit r.aux 2 || bits r.aux 0 2 == 3)])
      (qntType r.ty && r.anyTy) (.vdqnt r.qops r.lb)
  | 23 =>
    let c := bits r.aux 0 3
    let idx := c == 3 || c == 4
    rdT (r.hi true true idx false ++
        [(.base, r.lb || (!idx && r.b3 != 0) || (idx && r.b == r.d)), (.reg1, idx && r.b == r.d),
         (.page, r.m5 && !(r.ty.isInt && r.anyTy && c != 0 && c <= 4)),
         (.aux, c > 4 || bit r.aux 5 || (bits r.aux 3 2 != 0 && !(c == 0 && r.ty.isFloat && r.anyTy)))])
      ((r.ty.isFloat || r.ty.isInt || (r.ty == .res && c == 0)) && r.anyTy)
      (.vred r.one (redOf c) r.m5 (rmOf (bits r.aux 3 2)) r.b)
  | 24 =>
    rdT (r.hi true true true false ++ [zb .page r.m5, z .aux r.ax]) (r.anyTy && r.ty.width != 4)
      (.vperm r.one r.b r.lb)
  | 25 =>
    let q := bit r.aux 2
    rdT (r.hi true true true false ++ r.bsrcBad q ++
        [zb .base r.lb, zb .page r.m5, (.aux, bits r.aux 3 2 != 0 || bits r.aux 0 2 != 0)])
      r.anyTy (.vslide r.one (r.bsrc q))
  | 26 =>
    let q := bit r.aux 2
    { rdT (r.hi false true true false ++ r.bsrcBad q ++
          [zb .base r.lb, zb .page r.m5, (.aux, bits r.aux 3 2 != 0 || bits r.aux 0 2 != 0 || bits r.aux 5 4 != 0)])
        r.anyTy (.vext r.a r.la (r.bsrc q) r.ty) with
      illegal := if r.d3 == 1 then none else some r.base }
  | 27 =>
    rdT (r.hi true true true false ++ [(.base, r.la || r.lb), zb .page r.m5, z .aux r.aux]) r.anyTy
      (.vins r.d r.a r.b r.ty)
  | 28 =>
    let mix := bit r.aux 3
    rdT (r.hi true true true true ++ [zb .page r.m5, (.aux, bits r.aux 0 3 != 0 || (mix && !(mixType r.ty && r.anyTy)))])
      (dotType r.ty && r.anyTy) (.vdot r.tri mix)
  | 29 =>
    let c := bits r.aux 0 3
    rdT (r.noB ++ r.hi true true false false ++
        [zb .base r.lb, zb .page r.m5, (.aux, c > 3 || (c < 2 && bits r.aux 3 2 != 0))])
      (sfuType r.ty && r.anyTy)
      (.vsfu r.one (sfuOf c) (rmOf (bits r.aux 3 2)))
  | _ =>
    rdT (r.hi true true true false ++ [(.base, r.la || r.lb), zb .page r.m5, z .aux r.ax]) (r.ty.isInt && r.anyTy)
      (.viota r.d r.a r.b r.gov r.ty)

/-- A unit-stride vector memory operand (R138). -/
def Raw.vmem (r : Raw) : VMem := ⟨r.d, r.a, r.immO, r.gov, r.ty, bit r.aux 4⟩
/-- A strided operand (R139). -/
def Raw.vstr (r : Raw) : VStr := ⟨r.d, r.a, r.b, r.gov, r.ty, bit r.aux 4⟩
/-- An indexed operand (R140). -/
def Raw.vidx (r : Raw) : VIdx := ⟨r.d, r.a, r.b, r.lb, r.gov, r.ty, bit r.aux 4⟩

/-- Page 3 (R119 to R121, R137 to R144). `store` lets aux[4] mark the stored vector. DESIGN CHOICE (log 8): aux bits
set on PCOUNT, PBOUND and VWIDTH are RESFIELD; PMASK, PFIRST and VPOPC accept every type, raw among them (R119 and R120
name no class). -/
def Raw.page3 (r : Raw) : Reading :=
  let mform (store : Bool) (low : Nat) (f : Instr) : Reading :=
    rdT (r.hi true true false false ++
        [z .base (bits r.base 0 2), zb .page r.m5, (.aux, (!store && bit r.aux 4) || bits r.aux low (4 - low) != 0)])
      r.anyTy f
  let sform (store : Bool) (f : Instr) : Reading :=
    rdT (r.hi true true true false ++
        [(.base, r.la || r.lb), zb .page r.m5, (.aux, (!store && bit r.aux 4) || bits r.aux 0 4 != 0)])
      (r.anyTy && r.ty.width != 4) f
  let xform (store : Bool) (f : Instr) : Reading :=
    rdT (r.hi true true true false ++
        [zb .base r.la, zb .page r.m5, (.aux, (!store && bit r.aux 4) || bits r.aux 0 4 != 0)])
      (r.anyTy && r.ty.width != 4) f
  match r.op with
  | 0 => mform false 0 (.vldl r.vmem)
  | 1 => mform true 0 (.vstl r.vmem)
  | 2 => sform false (.vldls r.vstr)
  | 3 => sform true (.vstls r.vstr)
  | 4 => xform false (.vgath r.vidx)
  | 5 => xform true (.vscat r.vidx)
  | 6 =>
    let x := mform false 1 (.vldg r.vmem (bit r.aux 0))
    { x with bad := x.bad ++ [(.aux, bit r.aux 0 && bits r.aux 6 3 == 0)] }
  | 7 => mform true 0 (.vstg r.vmem)
  | 8 => rd (r.plain ++ r.noB ++ r.hi true false false false ++ [(.base, r.la || r.lb)]) (.pcount r.d (reg3 r.a3))
  | 9 => rd (r.plain ++ r.hi false true true false ++ [(.base, r.la || r.lb)]) (.pbound (reg3 r.d3) r.a r.b)
  | 10 =>
    rdT (r.noB ++ r.hi false true false false ++ [zb .base r.lb, zb .page r.m5, z .aux (bits r.aux 0 6)]) r.anyTy
      (.pmask (reg3 r.d3) r.a r.la r.gov.pred r.ty)
  | 11 =>
    rdT (r.noB ++ r.hi false true false false ++ [zb .base r.lb, zb .page r.m5, z .aux (bits r.aux 0 6)]) r.anyTy
      (.pfirst (reg3 r.d3) r.a r.la r.gov.pred r.ty)
  | 12 =>
    { rdT (r.noB ++ r.hi false true false false ++ [zb .base r.lb, zb .page r.m5, z .aux (bits r.aux 0 6)]) r.anyTy
        (.vpopc r.a r.la r.gov.pred r.ty) with
      illegal := if r.d3 == 1 then none else some r.base }
  | 13 =>
    rdT (r.noA ++ r.noB ++ r.hi true false false false ++ [(.base, r.la || r.lb), zb .page r.m5, z .aux r.aux]) r.anyTy
      (.vwidth r.d r.ty)
  | 14 =>
    let n := bits r.base 0 5
    rd (r.plain ++ r.noD ++ r.hi false true false false ++ [(.base, n == 0 || n > 15)]) (.vloop r.a n)
  | 15 => rd (r.plain ++ [z .base r.lo8]) .vsync
  | _ => rd r.plain (.vfree ⟨r.zsub % 4, Nat.mod_lt _ (by decide)⟩ (BitVec.ofNat 8 r.lo8))

/-- A refused register number: it stands in the first REG prefix and in the base word (log 8). -/
def numBad (v : Bool) : List (WK × Bool) := [zb .reg1 v, zb .base v]

/-- Page 4 (R163 to R165). -/
def Raw.page4 (r : Raw) : Reading :=
  let ax0 := z .aux r.ax
  match r.op with
  | 0 =>
    rd (r.noA ++ r.noB ++ r.hi true false false false ++ numBad (triHigh r.d) ++ [(.base, r.la || r.lb), z .page r.mod, ax0])
      (.tmclr r.d r.gov)
  | 1 =>
    rdT (r.noB ++ r.hi true true false false ++ numBad (triHigh r.d) ++ [zb .base r.lb, zb .page r.m5, ax0])
      (sfuType r.ty && r.anyTy) (.tmacc r.one)
  | 2 =>
    rd (r.hi true true true false ++
        numBad (triHigh r.d || triHigh r.a || triHigh r.b || triClash r.d r.a || triClash r.d r.b || triClash r.a r.b) ++
        [z .page r.mod, ax0])
      (.tmmerge r.d r.a r.la r.b r.lb r.gov)
  | 3 =>
    rd (r.noB ++ r.hi true true false false ++
        numBad (triHigh r.d || triHigh r.a || triClash r.d r.a) ++
        [zb .base r.lb, z .page r.mod, z .aux (bits r.aux 0 6)])
      (.tmfold r.d r.a r.la r.gov.pred)
  | 4 =>
    rd (r.noB ++ r.hi true true false false ++ numBad (triHigh r.a) ++ [zb .base r.lb, z .page r.mod, ax0])
      (.tmexit r.d r.a r.la r.gov)
  | _ =>
    rd (r.plain ++ r.noD ++ r.hi false true false false ++ [zb .base (bits r.base 0 5 > 3)])
      (.tmtab r.a (bit r.base 1) (bit r.base 0))

/-- Page 5 (R186, R223). -/
def Raw.page5 (r : Raw) : Reading :=
  match r.op with
  | 0 => rd (r.plain ++ [z .base (bits r.base 3 5)]) (.barv (reg3 r.base))
  | 1 => rd (r.plain ++ [z .base (bits r.base 3 5)]) (.bwait (reg3 r.base))
  | 2 => r.t2 .bmask
  | 3 =>
    rd ([z .page (bits r.mod 4 2), z .aux r.aux] ++ r.noB ++ r.hi true true false false)
      (.send r.d r.a (bit r.mod 3) (reg3 r.mod))
  | 4 =>
    rd ([z .page (bits r.mod 4 2), z .aux r.aux] ++ r.noA ++ r.noB ++ r.hi true false false false)
      (.recv r.d (fin16 r.mod))
  | 5 =>
    rd ([z .page (bits r.mod 4 2), z .aux r.aux] ++ r.noA ++ r.noB ++ r.hi true false false false)
      (.rpoll r.d (fin16 r.mod))
  | 6 => r.t2 .fetake
  | 7 => r.t3 .feput
  | 8 => r.t3 .fepeek
  | 9 => rd (r.plain ++ [z .base r.lo8]) .sstep
  | 10 => r.t2 .shpark
  | _ => r.t2 .shunpark

/-- A scope code; 7 is reserved (R253). -/
def scopeOf (n : Nat) : Scope :=
  match n with
  | 0 => .core | 1 => .clus | 2 => .die | 3 => .pkg | 4 => .part | 5 => .sys | _ => .gate
/-- aop of R269. -/
def aopOf (n : Nat) : Aop :=
  match n with
  | 0 => .add | 1 => .and | 2 => .or | 3 => .xor | 4 => .min | 5 => .max | 6 => .swap | _ => .cas
/-- type of ATOML (R271). -/
def atomTyOf (n : Nat) : AtomTy :=
  match n with
  | 0 => .int32 | 1 => .int64 | 2 => .fp32 | _ => .bf16
/-- kind of CPY (R285). -/
def copyKindOf (n : Nat) : CopyKind :=
  match n with
  | 0 => .g2l | 1 => .l2g | 2 => .g2g | _ => .l2l
/-- sel of GSTAT (R367). -/
def gselOf (n : Nat) : GSel :=
  match n with
  | 0 => .status | 1 => .posts | 2 => .takes | 3 => .idx | _ => .peers

/-- The fields of STASH (R274). -/
def Raw.stash (r : Raw) : Reading :=
  let ok := [(.page, bits r.mod 3 3 != 0 || bits r.mod 0 3 > 4), z .aux r.aux] ++ r.hi true true true false
  match bits r.mod 0 3 with
  | 0 => rd (ok ++ r.noB ++ r.hi true true false false) (.stashRdwin r.d r.a)
  | 1 => rd ok (.stashWrwin r.d r.a r.b)
  | 2 => rd ok (.stashClean r.d r.a r.b)
  | 3 => rd ok (.stashFlush r.d r.a r.b)
  | _ => rd ok (.stashFetch r.d r.a r.b)

/-- Page 6 (R266 to R277, R282, R307, R312, R321, R322, R392). -/
def Raw.page6 (r : Raw) : Reading :=
  let sc := bits r.mod 0 3
  let ord := bits r.mod 3 2
  let noAux := z .aux r.aux
  match r.op with
  | 0 =>
    rd ([(.page, sc == 7 || ord > 1 || (ord == 0 && sc != 0)), noAux] ++ r.hi true true false false)
      (.ldg r.d r.a r.immO r.size r.m5 (ord == 1) (scopeOf sc))
  | 1 =>
    rd ([(.page, r.m5 || sc == 7 || ord == 1 || ord == 3 || (ord == 0 && sc != 0)), noAux] ++ r.hi true true false false)
      (.stg r.d r.a r.immO r.size (ord == 2) (scopeOf sc))
  | 2 =>
    rd ([(.page, sc == 7), noAux] ++ r.hi true true true false)
      (.atom r.d r.a r.b (aopOf (bits r.mod 3 3)) (scopeOf sc))
  | 3 =>
    let aop := aopOf (bits r.mod 3 3)
    let ty := atomTyOf (bits r.mod 0 2)
    rd ([(.page, bit r.mod 2 || (aop.logic && (ty == .fp32 || ty == .bf16))), noAux] ++ r.hi true true true false)
      (.atoml r.d r.a r.b aop ty)
  | 4 => rd ([(.page, sc == 7 || bits r.mod 3 3 != 0), noAux, z .base r.lo8]) (.fence (scopeOf sc))
  | 5 => rd (r.plain ++ [z .base r.lo8]) .chunk
  | 6 => r.stash
  | 7 =>
    { rd (r.plain ++ r.noB ++ r.hi false true false false) (.qpush r.a) with
      illegal := if r.d3 == 0 then none else some r.base }
  | 8 =>
    { rd (r.plain ++ r.noB ++ r.hi true false false false) (.qpop r.d (reg3 r.a3)) with
      illegal := if r.a3 % 2 == 1 then none else some r.base }
  | 9 => rd (r.plain ++ r.noB ++ r.hi true false false false) (.qstat r.d (reg3 r.a3))
  | 10 =>
    rd ([z .page (bits r.mod 2 4), noAux] ++ r.hi true true true false)
      (.cpy (copyKindOf (bits r.mod 0 2)) r.d r.a r.b)
  | 11 =>
    rd ([z .page (bits r.mod 2 4), noAux] ++ r.hi true true true true)
      (.cpyx (copyKindOf (bits r.mod 0 2)) r.d r.a r.b r.e)
  | 12 => rd (r.plain ++ r.hi false true true false) (.ringset (reg3 r.d3) r.a r.b)
  | 13 =>
    let n := bits r.base 0 4
    rd (r.plain ++ r.noA ++ r.hi false false false false ++ [(.base, n == 0)])
      (.ringadv (reg3 r.d3) (bit r.base 4) n)
  | 14 =>
    let k := if r.nimm == 0 then 1 else r.immv
    rd ([z .page (bits r.mod 4 2), (.imm, k == 0 || k > 256)] ++ r.hi false false false false)
      (.mma (reg3 r.d3) (reg3 r.a3) (reg3 r.b3)
        ⟨bit r.mod 3, bit r.mod 2, bit r.mod 1, bit r.mod 0, reg3 (bits r.aux 6 3), bit r.aux 5,
          ⟨bits r.aux 0 5 % 32, Nat.mod_lt _ (by decide)⟩⟩ k)
  | 15 =>
    rd ([z .page (bits r.mod 4 2), noAux] ++ r.hi false false true false)
      (.mdrain (reg3 r.d3) (reg3 r.a3) r.b ⟨bit r.mod 3, bit r.mod 2, bit r.mod 1, bit r.mod 0⟩)
  | 16 =>
    let q := bit r.mod 0
    rd ([z .page (bits r.mod 1 5), noAux, (.base, q && r.b3 != 0)] ++ r.hi true true (!q) false)
      (.rtset r.d r.a r.b q)
  | 17 => r.t3 .rtsend
  | _ => rd (r.plain ++ [z .base (bits r.base 6 2)]) (.rtmark ⟨r.base % 64, Nat.mod_lt _ (by decide)⟩)

/-- Page 7 (R367). -/
def Raw.page7 (r : Raw) : Reading :=
  match r.op with
  | 0 => r.t3 .gpost
  | 1 => r.t3 .gtake
  | 2 =>
    rd ([(.page, bits r.mod 3 3 != 0 || bits r.mod 0 3 > 4), z .aux r.aux] ++ r.noB ++ r.hi true true false false)
      (.gstat r.d r.a (gselOf (bits r.mod 0 3)))
  | 3 => r.t3 .gerr
  | _ => r.t3 .grearm

/-- The arm of a page. -/
def Raw.reading (r : Raw) : Reading :=
  match r.page with
  | 0 => r.page0 | 1 => r.page1 | 2 => r.page2 | 3 => r.page3
  | 4 => r.page4 | 5 => r.page5 | 6 => r.page6 | _ => r.page7

/-- PREFIX by the base form, then ILLEGAL by op and sub, then the arm (R52, R56, R65, R66). DESIGN CHOICE (log 8): the
tval of a second REG prefix before a form that takes one is the base word, as R66 says of a kind not accepted and of too
many IMM prefixes. -/
def Raw.decode (r : Raw) : Except Trap Instr :=
  match formOf r.page r.op with
  | none => .error (wordTrap .illegal r.base)
  | some (f, subs) =>
    let (nr, ni, na) := accepts r.page r.op f
    if r.nreg > nr || r.nimm > ni || r.naux > na then .error (wordTrap .prefixed r.base)
    else if r.subOf f >= subs then .error (wordTrap .illegal r.base)
    else r.finish r.reading

/-- The words in the order of their addresses, where an instruction at pc may pass 0xFFFE (R10, R66). -/
def Raw.byAddress (r : Raw) (pc : Half) : Raw :=
  let n := (0x10000 - pc.toNat + 1) / 2
  { r with words := r.words.drop n ++ r.words.take n }

/-- The decoder: from the halfwords at an address and after it, the instruction and its length in bytes, or its trap
(R52). -/
def decodeAt (pc : Half) (ws : List Half) : Except Trap (Instr × Nat) :=
  match Raw.scan (ws.map BitVec.toNat) .empty with
  | .error t => .error t
  | .ok r =>
    match (r.byAddress pc).decode with
    | .error t => .error t
    | .ok i => .ok (i, 2 * r.words.length)

/-- The decoder on halfwords that stand at address 0. -/
def decode (ws : List Half) : Except Trap (Instr × Nat) := decodeAt 0 ws

/-! ### The encoder (R54, R55, R58, R60) -/

/-- The parts of an instruction: page, mod, aux, the payloads of the two REG prefixes and of the IMM prefixes, and the
base word. -/
structure Fields where
  page : Nat
  mod : Nat
  aux : Nat
  reg1 : Nat
  reg2 : Nat
  imms : List Nat
  base : Nat
  deriving DecidableEq, Repr

/-- The words in the canonical order PAGE, AUX, REG, REG, IMM, with no prefix that carries only zeros (R55). -/
def Fields.words (f : Fields) : List Half :=
  ((if f.page == 0 && f.mod == 0 then [] else [0xFC00 + f.page * 64 + f.mod])
    ++ (if f.aux == 0 then [] else [0xFE00 + f.aux])
    ++ (if f.reg1 == 0 && f.reg2 == 0 then [] else [0xFA00 + f.reg1])
    ++ (if f.reg2 == 0 then [] else [0xFA00 + f.reg2])
    ++ f.imms.map (0xF800 + ·)
    ++ [f.base]).map (BitVec.ofNat 16)

/-- The payload of the first REG prefix for d, a, b and the low bits of e (R55, R57). -/
def regPay (d a b : Fin 32) (e : Nat) : Nat := d.val / 8 * 128 + a.val / 8 * 32 + b.val / 8 * 8 + e

/-- A register of an eight-member class in a five-bit field. -/
def preg (p : Fin 8) : Fin 32 := ⟨p.val, Nat.lt_trans p.isLt (by decide)⟩
/-- A number in a five-bit field. -/
def natReg (n : Nat) : Fin 32 := ⟨n % 32, Nat.mod_lt _ (by decide)⟩

/-- A T-form base word. -/
def tWord (op : Nat) (d a b : Fin 32) (sub : Nat) : Nat :=
  op * 2048 + d.val % 8 * 256 + a.val % 8 * 32 + b.val % 8 * 4 + sub

/-- The nine-bit groups of an immediate above its base field, the first the most significant. -/
def immGroups (w u : Nat) : Nat → List Nat
  | 0 => []
  | k + 1 => bits u (w + 9 * k) 9 :: immGroups w u k

/-- IMM payloads and the base field of an immediate of k prefixes. -/
def immSplit (w k : Nat) (v : Int) : List Nat × Nat :=
  let u := wrap (9 * k + w) v
  (immGroups w u k, u % 2 ^ w)

/-- A signed immediate, with the fewest prefixes. -/
def immS (w : Nat) (v : Int) : List Nat × Nat :=
  if fitsS w v then immSplit w 0 v
  else if fitsS (9 + w) v then immSplit w 1 v
  else if fitsS (18 + w) v then immSplit w 2 v
  else immSplit w 3 v

/-- An immediate that is unsigned with no prefix and signed with one or more. -/
def immM (w : Nat) (v : Int) : List Nat × Nat :=
  if 0 <= v && v < (2 ^ w : Int) then immSplit w 0 v
  else if fitsS (9 + w) v then immSplit w 1 v
  else if fitsS (18 + w) v then immSplit w 2 v
  else immSplit w 3 v

/-- An unsigned immediate. -/
def immN (w n : Nat) : List Nat × Nat :=
  if n < 2 ^ w then immSplit w 0 n
  else if n < 2 ^ (9 + w) then immSplit w 1 n
  else if n < 2 ^ (18 + w) then immSplit w 2 n
  else immSplit w 3 n

/-- T form. -/
def tFields (page mod aux op : Nat) (d a b : Fin 32) (sub : Nat) : Fields :=
  ⟨page, mod, aux, regPay d a b 0, 0, [], tWord op d a b sub⟩
/-- Q form. -/
def qFields (page mod aux op : Nat) (d a b e : Fin 32) (sub : Nat) : Fields :=
  ⟨page, mod, aux, regPay d a b (e.val % 8), e.val / 8 * 128, [], tWord op d a b sub⟩
/-- I form of page 0. -/
def iFields (op : Nat) (d a : Fin 32) (v : List Nat × Nat) : Fields :=
  ⟨0, 0, 0, regPay d a 0 0, 0, v.1, op * 2048 + d.val % 8 * 256 + a.val % 8 * 32 + v.2⟩
/-- K form. -/
def kFields (op : Nat) (d : Fin 32) (v : List Nat × Nat) : Fields :=
  ⟨0, 0, 0, regPay d 0 0 0, 0, v.1, op * 2048 + d.val % 8 * 256 + v.2⟩
/-- M form. -/
def mFields (page mod aux op : Nat) (d a : Fin 32) (v : List Nat × Nat) (size : Nat) : Fields :=
  ⟨page, mod, aux, regPay d a 0 0, 0, v.1, op * 2048 + d.val % 8 * 256 + a.val % 8 * 32 + v.2 * 4 + size⟩
/-- B form. -/
def bFields (op : Nat) (a : Fin 32) (v : List Nat × Nat) : Fields :=
  ⟨0, 0, 0, regPay 0 a 0 0, 0, v.1, op * 2048 + a.val % 8 * 256 + v.2⟩
/-- J form. -/
def jFields (op : Nat) (v : List Nat × Nat) : Fields := ⟨0, 0, 0, 0, 0, v.1, op * 2048 + v.2⟩
/-- S form. -/
def sFields (page op : Nat) (d : Fin 32) (sid : BitVec 8) : Fields :=
  ⟨page, 0, 0, regPay d 0 0 0, 0, [], op * 2048 + d.val % 8 * 256 + sid.toNat⟩
/-- Z form. -/
def zFields (page mod op sub code : Nat) : Fields := ⟨page, mod, 0, 0, 0, [], op * 2048 + sub * 256 + code⟩

/-- Size code of an M form (R60). -/
def Size.code : Size → Nat
  | .byte => 0 | .half => 1 | .word => 2 | .dword => 3
/-- Rounding-mode code (R36). -/
def RMode.code : RMode → Nat
  | .rne => 0 | .rtz => 1 | .rdn => 2 | .rup => 3
/-- Scalar format code (R33). -/
def FpTy.code : FpTy → Nat
  | .fp32 => 0 | .fp64 => 1 | .bf16 => 2 | .fp16 => 3
/-- mod of a scalar floating-point instruction. -/
def FpMode.code (f : FpMode) : Nat := 4 * f.rm.code + f.ty.code
/-- var code (R128). -/
def FmaVar.code : FmaVar → Nat
  | .fma => 0 | .fms => 1 | .nfma => 2 | .nfms => 3
/-- cond code (R122). -/
def Cond.code : Cond → Nat
  | .eq => 0 | .ne => 1 | .lt => 2 | .le => 3 | .gt => 4 | .ge => 5 | .un => 6
/-- red code (R133). -/
def Red.code : Red → Nat
  | .add => 0 | .max => 1 | .min => 2 | .maxi => 3 | .mini => 4
/-- fn code (R135). -/
def Sfu.code : Sfu → Nat
  | .exp2 => 0 | .log2 => 1 | .rcp => 2 | .rsqrt => 3
/-- Scope code (R253). -/
def Scope.code : Scope → Nat
  | .core => 0 | .clus => 1 | .die => 2 | .pkg => 3 | .part => 4 | .sys => 5 | .gate => 6
/-- aop code (R269). -/
def Aop.code : Aop → Nat
  | .add => 0 | .and => 1 | .or => 2 | .xor => 3 | .min => 4 | .max => 5 | .swap => 6 | .cas => 7
/-- ATOML type code (R271). -/
def AtomTy.code : AtomTy → Nat
  | .int32 => 0 | .int64 => 1 | .fp32 => 2 | .bf16 => 3
/-- kind code of CPY (R285). -/
def CopyKind.code : CopyKind → Nat
  | .g2l => 0 | .l2g => 1 | .g2g => 2 | .l2l => 3
/-- sel code of GSTAT (R367). -/
def GSel.code : GSel → Nat
  | .status => 0 | .posts => 1 | .takes => 2 | .idx => 3 | .peers => 4
/-- mod of MMA (R307). -/
def MmaMode.code (m : MmaMode) : Nat := 8 * b2n m.byp + 4 * b2n m.perm + 2 * b2n m.gang + b2n m.zero
/-- aux of MMA (R307). -/
def MmaMode.auxCode (m : MmaMode) : Nat := 64 * m.line.val + 32 * b2n m.done + m.tag.val
/-- mod of MDRAIN (R312). -/
def DrainMode.code (m : DrainMode) : Nat := 8 * b2n m.byp + 4 * b2n m.nor + 2 * b2n m.sat + b2n m.clr
/-- aux[8:5] of a vector page. -/
def Gov.code (g : Gov) : Nat := 64 * g.pred.val + 32 * b2n g.zero

/-- Whether a scalar operand comes from q0. -/
def XSrc.isQ : XSrc → Bool
  | .q0 => true
  | .x _ => false
/-- The register of a scalar operand, 0 for q0. -/
def XSrc.reg : XSrc → Fin 32
  | .q0 => 0
  | .x r => r
/-- The register in the b field. -/
def VSrc.reg : VSrc → Fin 32
  | .vec r _ => r
  | .x r => r
  | .q0 => 0
/-- lb. -/
def VSrc.lastBit : VSrc → Nat
  | .vec _ l => b2n l
  | _ => 0
/-- bs and bq as 8 * bs + 4 * bq. -/
def VSrc.selBits : VSrc → Nat
  | .vec _ _ => 0
  | .x _ => 8
  | .q0 => 12

/-- bq and bs of VCMP as 16 * bq + 8 * bs. -/
def VSrc.cmpBits : VSrc → Nat
  | .vec _ _ => 0
  | .x _ => 8
  | .q0 => 24

/-- R124. -/
def VBin.fields (o : VBin) (op : Nat) : Fields :=
  tFields 2 (32 * b2n o.u + o.ty.code) (o.gov.code + 16 * b2n o.sat + o.b.selBits + o.rm.code) op o.d o.a o.b.reg
    (2 * b2n o.la + o.b.lastBit)
/-- R124, ops 13 to 15. -/
def VUn.fields (o : VUn) (op : Nat) : Fields :=
  tFields 2 o.ty.code (o.gov.code + 16 * b2n o.sat + o.rm.code) op o.d o.a 0 (2 * b2n o.la)
/-- R122. -/
def VCmpOps.fields (o : VCmpOps) : Fields :=
  tFields 2 (32 * b2n o.u + o.ty.code) (o.gov.code + o.b.cmpBits + o.cond.code) 16 o.d o.a o.b.reg (2 * b2n o.la + o.b.lastBit)
/-- Three vector sources. -/
def VTri.fields (o : VTri) (op mod low : Nat) : Fields :=
  qFields 2 mod (o.gov.code + 16 * b2n o.le + low) op o.d o.a o.b o.e (2 * b2n o.la + b2n o.lb)
/-- One vector source, with a b field. -/
def VOne.fields (o : VOne) (page op modHi low : Nat) (b : Fin 32) (lb : Bool) : Fields :=
  tFields page (modHi + o.ty.code) (o.gov.code + low) op o.d o.a b (2 * b2n o.la + b2n lb)
/-- R131, R132. -/
def VQOps.fields (o : VQOps) (op : Nat) (lb : Bool) : Fields :=
  tFields 2 o.ty.code (o.gov.code + 16 * b2n o.bf + 8 * b2n o.pm + o.bl.val) op o.d o.a o.b (2 * b2n o.la + b2n lb)
/-- R138, R141. -/
def VMem.fields (o : VMem) (op low : Nat) : Fields :=
  mFields 3 o.ty.code (o.gov.code + 16 * b2n o.last + low) op o.v o.a (immM 3 o.slot) 0
/-- R139. -/
def VStr.fields (o : VStr) (op : Nat) : Fields :=
  tFields 3 o.ty.code (o.gov.code + 16 * b2n o.last) op o.v o.a o.b 0
/-- R140. -/
def VIdx.fields (o : VIdx) (op : Nat) : Fields :=
  tFields 3 o.ty.code (o.gov.code + 16 * b2n o.last) op o.v o.a o.b (b2n o.lb)

/-- The parts of an instruction, from the same tables as the decoder. Rows without words have none. -/
def Instr.fields : Instr → Fields
  | .nop => zFields 0 0 0 0 0
  | .halt => zFields 0 0 0 1 0
  | .brk c => zFields 0 0 0 2 c.toNat
  | .add d a b => tFields 0 0 0 1 d a b 0
  | .sub d a b => tFields 0 0 0 1 d a b 1
  | .and d a b => tFields 0 0 0 1 d a b 2
  | .or d a b => tFields 0 0 0 1 d a b 3
  | .xor d a b => tFields 0 0 0 2 d a b 0
  | .sll d a b => tFields 0 0 0 2 d a b 1
  | .srl d a b => tFields 0 0 0 2 d a b 2
  | .sra d a b => tFields 0 0 0 2 d a b 3
  | .seq d a b => tFields 0 0 0 3 d a b 0
  | .sne d a b => tFields 0 0 0 3 d a b 1
  | .slt d a b => tFields 0 0 0 3 d a b 2
  | .sltu d a b => tFields 0 0 0 3 d a b 3
  | .min d a b => tFields 0 0 0 4 d a b 0
  | .max d a b => tFields 0 0 0 4 d a b 1
  | .minu d a b => tFields 0 0 0 4 d a b 2
  | .maxu d a b => tFields 0 0 0 4 d a b 3
  | .addi d a v => iFields 5 d a (immS 5 v)
  | .andi d a v => iFields 6 d a (immM 5 v)
  | .ori d a v => iFields 7 d a (immM 5 v)
  | .xori d a v => iFields 8 d a (immM 5 v)
  | .slli d a n => iFields 9 d a (immN 5 n)
  | .srli d a n => iFields 10 d a (immN 5 n)
  | .srai d a n => iFields 11 d a (immN 5 n)
  | .slti d a v => iFields 12 d a (immS 5 v)
  | .li d v => kFields 13 d (immS 8 v)
  | .ldl d a o sz => mFields 0 0 0 14 d a (immM 3 o) sz.code
  | .ldlu d a o sz => mFields 0 0 0 15 d a (immM 3 o) sz.code
  | .stl d a o sz => mFields 0 0 0 16 d a (immM 3 o) sz.code
  | .beqz a o => bFields 17 a (immS 8 o)
  | .bnez a o => bFields 18 a (immS 8 o)
  | .bltz a o => bFields 19 a (immS 8 o)
  | .bgez a o => bFields 20 a (immS 8 o)
  | .br o => jFields 21 (immS 11 o)
  | .call o => jFields 22 (immS 11 o)
  | .jr a => tFields 0 0 0 23 0 a 0 0
  | .jalr d a => tFields 0 0 0 23 d a 0 1
  | .mv d a => tFields 0 0 0 23 d a 0 2
  | .addp d a b => tFields 0 0 0 24 d a b 0
  | .subp d a b => tFields 0 0 0 24 d a b 1
  | .tagp d a b => tFields 0 0 0 24 d a b 2
  | .addpi d a v => iFields 25 d a (immS 5 v)
  | .loop l c n => ⟨0, 0, 0, regPay 0 c 0 0, 0, [], 26 * 2048 + b2n l * 1024 + c.val % 8 * 128 + n⟩
  | .srd d sid => sFields 0 27 d sid
  | .swr s sid => sFields 0 28 s sid
  | .mul d a b => tFields 1 0 0 0 d a b 0
  | .mulh d a b => tFields 1 0 0 0 d a b 1
  | .mulhu d a b => tFields 1 0 0 0 d a b 2
  | .mulhsu d a b => tFields 1 0 0 0 d a b 3
  | .div d a b => tFields 1 0 0 1 d a b 0
  | .divu d a b => tFields 1 0 0 1 d a b 1
  | .rem d a b => tFields 1 0 0 1 d a b 2
  | .remu d a b => tFields 1 0 0 1 d a b 3
  | .clz d a => tFields 1 0 0 2 d a 0 0
  | .ctz d a => tFields 1 0 0 2 d a 0 1
  | .popc d a => tFields 1 0 0 2 d a 0 2
  | .bswap d a => tFields 1 0 0 2 d a 0 3
  | .fadd f d a b => tFields 1 f.code 0 3 d a b 0
  | .fsub f d a b => tFields 1 f.code 0 3 d a b 1
  | .fmul f d a b => tFields 1 f.code 0 3 d a b 2
  | .fdiv f d a b => tFields 1 f.code 0 3 d a b 3
  | .fmin f d a b => tFields 1 f.code 0 4 d a b 0
  | .fmax f d a b => tFields 1 f.code 0 4 d a b 1
  | .fsqrt f d a => tFields 1 f.code 0 4 d a 0 2
  | .fneg f d a => tFields 1 f.code 0 4 d a 0 3
  | .fma f d a b e => qFields 1 f.code 0 5 d a b e 0
  | .fms f d a b e => qFields 1 f.code 0 5 d a b e 1
  | .fnma f d a b e => qFields 1 f.code 0 5 d a b e 2
  | .fnms f d a b e => qFields 1 f.code 0 5 d a b e 3
  | .feq f d a b => tFields 1 f.code 0 6 d a b 0
  | .flt f d a b => tFields 1 f.code 0 6 d a b 1
  | .fle f d a b => tFields 1 f.code 0 6 d a b 2
  | .fclass f d a => tFields 1 f.code 0 6 d a 0 3
  | .cvtfi u f d a => tFields 1 (32 * b2n u + f.code) 0 7 d a 0 0
  | .cvtif u f d a => tFields 1 (32 * b2n u + f.code) 0 7 d a 0 1
  | .cvtff s f d a dst => tFields 1 (32 * b2n s + f.code) 0 7 d a (natReg dst.code) 2
  | .sel d a b => tFields 1 0 0 8 d a b 0
  | .feat d k => sFields 1 9 d k
  | .tret => zFields 1 0 10 0 0
  | .trap c => zFields 1 0 10 1 c.toNat
  | .loopi l v n => ⟨1, 0, 0, 0, 0, (immN 3 v).1, 11 * 2048 + b2n l * 1024 + (immN 3 v).2 * 128 + n⟩
  | .vadd o => o.fields 0
  | .vsub o => o.fields 1
  | .vmul o => o.fields 2
  | .vmin o => o.fields 3
  | .vmax o => o.fields 4
  | .vand o => o.fields 5
  | .vor o => o.fields 6
  | .vxor o => o.fields 7
  | .vsll o => o.fields 8
  | .vsrl o => o.fields 9
  | .vsra o => o.fields 10
  | .vfma var rm o => o.fields 11 (o.ty.code) (4 * rm.code + var.code)
  | .vdiv o => o.fields 12
  | .vsqrt o => o.fields 13
  | .vabs o => o.fields 14
  | .vneg o => o.fields 15
  | .vcmp o => o.fields
  | .vsel o => o.fields 17 o.ty.code 0
  | .vsplat d a g ty => tFields 2 ty.code (g.code + 4 * b2n a.isQ) 18 d a.reg 0 0
  | .vmov o => o.fields 2 19 0 0 0 false
  | .vcvt o dst sat rm => o.fields 2 20 0 (4 * b2n sat + rm.code) (natReg dst.code) false
  | .vqnt o => o.fields 21 false
  | .vdqnt o lb => o.fields 22 lb
  | .vred o red u rm b => o.fields 2 23 (32 * b2n u) (8 * rm.code + red.code) b false
  | .vperm o b lb => o.fields 2 24 0 0 b lb
  | .vslide o b => o.fields 2 25 0 (4 * b2n b.isQ) b.reg false
  | .vext a la b ty => tFields 2 ty.code (4 * b2n b.isQ) 26 1 a b.reg (2 * b2n la)
  | .vins d a b ty => tFields 2 ty.code 0 27 d a b 0
  | .vdot o mix => o.fields 28 o.ty.code (8 * b2n mix)
  | .vsfu o fn rm => o.fields 2 29 0 (8 * rm.code + fn.code) 0 false
  | .viota d a b g ty => tFields 2 ty.code g.code 30 d a b 0
  | .vldl o => o.fields 0 0
  | .vstl o => o.fields 1 0
  | .vldls o => o.fields 2
  | .vstls o => o.fields 3
  | .vgath o => o.fields 4
  | .vscat o => o.fields 5
  | .vldg o ff => o.fields 6 (b2n ff)
  | .vstg o => o.fields 7 0
  | .pcount d a => tFields 3 0 0 8 d (preg a) 0 0
  | .pbound d a b => tFields 3 0 0 9 (preg d) a b 0
  | .pmask d a la p ty => tFields 3 ty.code (64 * p.val) 10 (preg d) a 0 (2 * b2n la)
  | .pfirst d a la p ty => tFields 3 ty.code (64 * p.val) 11 (preg d) a 0 (2 * b2n la)
  | .vpopc a la p ty => tFields 3 ty.code (64 * p.val) 12 1 a 0 (2 * b2n la)
  | .vwidth d ty => tFields 3 ty.code 0 13 d 0 0 0
  | .vloop a n => ⟨3, 0, 0, regPay 0 a 0 0, 0, [], 14 * 2048 + a.val % 8 * 32 + n⟩
  | .vsync => zFields 3 0 15 0 0
  | .vfree k c => zFields 3 0 16 k.val c.toNat
  | .tmclr d g => tFields 4 0 g.code 0 d 0 0 0
  | .tmacc o => o.fields 4 1 0 0 0 false
  | .tmmerge d a la b lb g => tFields 4 0 g.code 2 d a b (2 * b2n la + b2n lb)
  | .tmfold d a la p => tFields 4 0 (64 * p.val) 3 d a 0 (2 * b2n la)
  | .tmexit d a la g => tFields 4 0 g.code 4 d a 0 (2 * b2n la)
  | .tmtab a pair exit => ⟨4, 0, 0, regPay 0 a 0 0, 0, [], 5 * 2048 + a.val % 8 * 32 + 2 * b2n pair + b2n exit⟩
  | .barv n => zFields 5 0 0 0 n.val
  | .bwait n => zFields 5 0 1 0 n.val
  | .bmask d a => tFields 5 0 0 2 d a 0 0
  | .send d a req len => tFields 5 (8 * b2n req + len.val) 0 3 d a 0 0
  | .recv d ch => tFields 5 ch.val 0 4 d 0 0 0
  | .rpoll d ch => tFields 5 ch.val 0 5 d 0 0 0
  | .fetake d a => tFields 5 0 0 6 d a 0 0
  | .feput d a b => tFields 5 0 0 7 d a b 0
  | .fepeek d a b => tFields 5 0 0 8 d a b 0
  | .sstep => zFields 5 0 9 0 0
  | .shpark d a => tFields 5 0 0 10 d a 0 0
  | .shunpark d a => tFields 5 0 0 11 d a 0 0
  | .ldg d a o sz u acq sc => mFields 6 (32 * b2n u + 8 * b2n acq + sc.code) 0 0 d a (immM 3 o) sz.code
  | .stg s a o sz rel sc => mFields 6 (16 * b2n rel + sc.code) 0 1 s a (immM 3 o) sz.code
  | .atom d a b aop sc => tFields 6 (8 * aop.code + sc.code) 0 2 d a b 0
  | .atoml d a b aop ty => tFields 6 (8 * aop.code + ty.code) 0 3 d a b 0
  | .fence sc => zFields 6 sc.code 4 0 0
  | .chunk => zFields 6 0 5 0 0
  | .stashRdwin d a => tFields 6 0 0 6 d a 0 0
  | .stashWrwin d a b => tFields 6 1 0 6 d a b 0
  | .stashClean d a b => tFields 6 2 0 6 d a b 0
  | .stashFlush d a b => tFields 6 3 0 6 d a b 0
  | .stashFetch d a b => tFields 6 4 0 6 d a b 0
  | .qpush a => tFields 6 0 0 7 0 a 0 0
  | .qpop d q => tFields 6 0 0 8 d (preg q) 0 0
  | .qstat d q => tFields 6 0 0 9 d (preg q) 0 0
  | .cpy k d a b => tFields 6 k.code 0 10 d a b 0
  | .cpyx k d a b e => qFields 6 k.code 0 11 d a b e 0
  | .ringset d a b => tFields 6 0 0 12 (preg d) a b 0
  | .ringadv d h n => ⟨6, 0, 0, 0, 0, [], 13 * 2048 + d.val * 256 + 16 * b2n h + n⟩
  | .mma d a b m k => ⟨6, m.code, m.auxCode, 0, 0, if k == 1 then [] else [k], 14 * 2048 + d.val * 256 + a.val * 32 + b.val * 4⟩
  | .mdrain d a b m => tFields 6 m.code 0 15 (preg d) (preg a) b 0
  | .rtset d a b q => tFields 6 (b2n q) 0 16 d a b 0
  | .rtsend d a b => tFields 6 0 0 17 d a b 0
  | .rtmark e => zFields 6 0 18 0 e.val
  | .gpost d a b => tFields 7 0 0 0 d a b 0
  | .gtake d a b => tFields 7 0 0 1 d a b 0
  | .gstat d a w => tFields 7 w.code 0 2 d a 0 0
  | .gerr d a b => tFields 7 0 0 3 d a b 0
  | .grearm d a b => tFields 7 0 0 4 d a b 0
  | .loopCntWrite _ _ | .amaxWrite _ _ | .shapeWrite _ | .tmodeWrite _ | .bmWrite _ _ | .chcfgWrite _ _
  | .waitcfgWrite _ | .stashCfgWrite _ | .chunkLimWrite _ | .ringRegisterWrite _ _ _ | .permWrite _
  | .accmodeWrite _ | .gangWrite _ | .sequencerEntryExecute _ | .waitResume _ | .sendDelivery _ | .fetakeRetry _
  | .remoteOperation _ | .barrierRelease _ _ | .startMessage _ _ | .instructionStoreWrite _ _ _ | .levelStep _
  | .lend _ | .recallMsg _ | .returnMsg _ | .cycleNotice _ | .governorCycle | .parkedShareTimeout _
  | .linkWidthChange _ | .regulatorFailure _ | .slewBoundary _ | .chunkCommit _ _ | .pageWalk _ _ _
  | .directoryRequest _ _ _ | .translationInvalidate _ _ | .copyCommand _ | .copySegment _ _ | .planEntry _
  | .gangJoin _ | .mmaCommand _ | .kStep _ | .mmaCompletion _ _ | .mdrainCommand _ _ | .routerCommand _
  | .streamPacket _ _ | .entryUpdate _ _ | .rtsendCompletion _ _ | .lostNotice _ _ | .fault | .linkFailure _
  | .scrubError _ | .watchdog _ | .synchronisedStop _ _ | .stopAtT _ | .flushToken _ | .resume _ _
  | .resumeRelease _ | .sliceEnd _ | .tokenPeriod | .bucketRefill | .gateSetup _ _ _ | .gateClose _
  | .gateRelease _ | .migration _ _ | .cutover _ | .vfReset _ | .resize _ _ | .resizeApply _ | .reconfigureAdd _
  | .reconfigureRemove _ | .reconfigureShare _ | .reconfigureUnshare _ | .reconfigureSlice _ | .sqtail _ _
  | .eqhead _ _ | .barRegisterWrite _ _ _ | .launch _ | .launchStart _ | .resetpart _ | .readlog _ | .resync _
  | .monitorRestart | .powerOn _ | .monitorUpdate _ _ | .telemetryInterval _ | .debugHold _ _ | .debugStep _
  | .poison _ | .gateRequest _ | .debugRun | .vfEnable _ _ | .policyImageLoad _ _ | .allotmentWrite _
  | .slateSetting _ => ⟨0, 0, 0, 0, 0, [], 0⟩

/-- The words of a well-formed instruction with words. -/
def encode (i : Instr) : List Half := i.fields.words

/-- Whether an instruction's operands fit in four prefixes (R54). -/
def Instr.fits (i : Instr) : Bool := (encode i).length <= 5

/-- Whether a word is a prefix (R51). -/
def isPrefixWord (w : Nat) : Bool := bits w 11 5 == 31

/-- The halfwords of a table word, in the order the hardware holds them: prefixes first, the base word last (log 8:
the table prints a prefix above its base word). -/
def tableHalves (nbits w : Nat) : List Half :=
  let ws := (List.range ((nbits + 15) / 16)).map (fun k => bits w (16 * k) 16)
  ((ws.filter isPrefixWord) ++ (ws.filter (fun h => !isPrefixWord h))).map (BitVec.ofNat 16)

/-- The instruction the decoder reads from an instruction given as the opcode table numbers its bits; words above
nbits are 0. -/
def decodeTableWord (nbits w : Nat) : Option Instr :=
  match decode ((tableHalves nbits w ++ List.replicate 5 0).take 5) with
  | .ok (i, _) => some i
  | .error _ => none

end Sys2Proof
end

