-- ==== Sys2Proof/Machine/Kpf.lean ====
section
/-!
DEFINITION. Kolsar portable form (04 R84 to R86): the records of a KPF section read and checked, and the native code
of a section whose virtual registers fit the register files. What the translator makes of another is a free value
(Config).
-/

namespace Sys2Proof.Machine

/-! ### LEB128 numbers (R84) -/

/-- The payload groups of a LEB128 number, the least significant first, and the bytes after it; `none` where the bytes
end inside it. -/
def lebGroups : List Byte → Option (List Nat × List Byte)
  | [] => none
  | b :: bs =>
    if bit b.toNat 7 then (lebGroups bs).map (fun r => (bits b.toNat 0 7 :: r.1, r.2)) else some ([bits b.toNat 0 7], bs)

/-- The number of groups of seven bits. -/
def lebNat : List Nat → Nat
  | [] => 0
  | g :: gs => g + 128 * lebNat gs

/-- ULEB128. -/
def uleb (l : List Byte) : Option (Nat × List Byte) := (lebGroups l).map (fun r => (lebNat r.1, r.2))

/-- SLEB128: the last group's bit 6 is the sign. -/
def sleb (l : List Byte) : Option (Int × List Byte) := (lebGroups l).map (fun r => (signed (7 * r.1.length) (lebNat r.1), r.2))

/-! ### Operands (R85) -/

/-- An operand as its tag gives it. -/
inductive KOperand where
  | imm (v : Int)
  | x (n : Nat)
  | v (n : Nat) (last : Bool)
  | p (n : Nat)
  /-- a q register, a z tile, a ring or a barrier line: tags 4 to 7 -/
  | few (n : Nat)
  | sid (n : Nat)
  | len (m : Int) (k : Nat) (c : Int)
  | target (n : Nat)
  deriving DecidableEq, Repr

/-- An operand read: its tag byte and its values. `none` is BADKPF: a reserved tag, the last-use flag beside a tag
other than 2, or bytes that end inside it (log 19). -/
def readOperand : List Byte → Option (KOperand × List Byte)
  | [] => none
  | b :: bs =>
    let tag := bits b.toNat 0 7
    let last := bit b.toNat 7
    if last && tag != 2 then none
    else match tag with
      | 0 => (sleb bs).map (fun r => (.imm r.1, r.2))
      | 1 => (uleb bs).map (fun r => (.x r.1, r.2))
      | 2 => (uleb bs).map (fun r => (.v r.1 last, r.2))
      | 3 => (uleb bs).map (fun r => (.p r.1, r.2))
      | 4 | 5 | 6 | 7 => (uleb bs).map (fun r => (.few r.1, r.2))
      | 8 => (uleb bs).map (fun r => (.sid r.1, r.2))
      | 9 => do
        let (m, bs) ← sleb bs
        let (k, bs) ← uleb bs
        let (c, bs) ← sleb bs
        pure (.len m k c, bs)
      | 10 => (uleb bs).map (fun r => (.target r.1, r.2))
      | _ => none

/-- n operands. -/
def readOperands : Nat → List Byte → Option (List KOperand × List Byte)
  | 0, bs => some ([], bs)
  | n + 1, bs => do
    let (o, bs) ← readOperand bs
    let (os, bs) ← readOperands n bs
    pure (o :: os, bs)

/-- The value of a vector-length expression (R85); `none` where the division is not exact. -/
def lenValue (m : Int) (k : Nat) (c : Int) : Option Int :=
  let d := m * Config.vlb
  if d % (2 ^ k : Nat) = 0 then some (d / (2 ^ k : Nat) + c) else none

/-- The number an operand stands for in a field that is no register: a target stands for 0. -/
def KOperand.value : KOperand → Option Int
  | .imm w => some w
  | .x n | .v n _ | .p n | .few n | .sid n => some n
  | .len m k c => lenValue m k c
  | .target _ => some 0

/-! ### Records (R84) -/

/-- A record: its offset in the section, its header's fields and its operands. -/
structure KRecord where
  at_ : Nat
  res : Nat
  aux : Nat
  mod : Nat
  sub : Nat
  page : Nat
  op : Nat
  ops : List KOperand
  deriving DecidableEq, Repr

/-- The record at the head of some bytes. -/
def readRecord (at_ : Nat) : List Byte → Option (KRecord × List Byte)
  | b0 :: b1 :: b2 :: b3 :: bs =>
    let w := (b3 ++ b2 ++ b1 ++ b0).toNat
    (readOperands (bits w 26 5) bs).map (fun r =>
      (⟨at_, bits w 31 1, bits w 17 9, bits w 11 6, bits w 8 3, bits w 5 3, bits w 0 5, r.1⟩, r.2))
  | _ => none

/-- The records of a section, taken in order until its bytes end: `n` bytes at most are left, at offset `at_`. -/
def readRecords : Nat → Nat → List Byte → Option (List KRecord)
  | _, _, [] => some []
  | 0, _, _ => none
  | n + 1, at_, bs =>
    match readRecord at_ bs with
    | none => none
    | some (r, rest) => (readRecords n (at_ + (bs.length - rest.length)) rest).map (r :: ·)

/-! ### What R57 to R65 forbid for any encoding (R86) -/

/-- A stand-in for a virtual register in a field: any number will do that is 0 for register 0 of x and p, that its class
has, and that meets no other field's. -/
def stand (field : Nat) : KOperand → Option (Fin 32)
  | .x 0 | .p 0 => some 0
  | .x _ | .p _ => some (natReg (field + 1))
  | .v _ _ => some (natReg (if field = 3 then 9 else 3 * field))
  | .few n => if n < 8 then some (natReg n) else none
  | o => match o.value with
    | some v => if 0 <= v && v < 32 then some (natReg v.toNat) else none
    | none => none

/-- Whether an operand is a vector register's last use. -/
def KOperand.last : KOperand → Bool
  | .v _ l => l
  | _ => false

/-- A number of a field of n bits. -/
def KOperand.narrow (n : Nat) (o : KOperand) : Option Nat :=
  match o.value with
  | some w => if 0 <= w && w < (2 ^ n : Nat) then some w.toNat else none
  | none => none

/-- The immediate as the words of a check hold it: itself where R59 limits the instruction's immediate, else a number
that any width holds, since what no native field holds is built with extra instructions (R86). -/
def kImm (page op : Nat) (o : KOperand) : Option Nat :=
  match page, op with
  | 0, 9 | 0, 10 | 0, 11 => (o.narrow 6)
  | 3, 14 | 4, 5 | 6, 13 => (o.narrow 5)
  | 6, 14 => if o.value == some 0 then none else o.narrow 9
  | _, _ => o.value.map (fun _ => 0)

/-- The words of a record taken apart, with `reg` giving the register of an operand in a field; an immediate that the
form's native field need not hold is left out. `none` where an operand has no place in the form or a value its field
never holds.
DESIGN CHOICE (log 19): a header of a Q form or a vector store that has aux[4] set, where R84 excludes last-use bits,
is BADKPF. -/
def KRecord.rawBy (reg' : Nat → KOperand → Option (Fin 32)) (r : KRecord) : Option Raw :=
  match formOf r.page r.op with
  | none => none
  | some (f, subs) =>
    let vp := vectorPage r.page
    let subbed := f == .Z || ((f == .T || f == .Q) && !vp)
    let zero : KOperand := .imm 0
    let o := fun i => r.ops[i]?.getD zero
    let reg := fun field i => reg' field (o i)
    let mk := fun (lim : Nat) (d a b e : Option (Fin 32)) (low : Option Nat) (imm : Nat) (l4 : Bool) =>
      match d, a, b, e, low with
      | some d, some a, some b, some e, some low =>
        if r.ops.length > lim || (!subbed && r.sub != 0) || (subbed && r.sub >= subs) then none
        else
          let aux := r.aux + b2n l4 * 16
          let pay := regPay d a b (e.val % 8)
          let pay2 := e.val / 8 * 128
          let nreg := if pay2 != 0 then 2 else if pay != 0 then 1 else 0
          let base := r.op * 2048 + low
          some { words := [(.page, r.mod), (.aux, aux), (.reg1, pay), (.reg2, pay2), (.imm, imm), (.base, base)]
                 page := r.page, mod := r.mod, aux := aux, reg1 := pay, reg2 := pay2, nreg := nreg, npage := 1
                 naux := b2n (aux != 0), nimm := b2n (imm != 0), immv := imm, base := base }
      | _, _, _, _, _ => none
    let lasts := fun (used : List Nat) => (List.range r.ops.length).any (fun i => (o i).last && !used.contains i)
    let low3 := fun (d a b : Option (Fin 32)) (s : Nat) =>
      match d, a, b with
      | some d, some a, some b => some (d.val % 8 * 256 + a.val % 8 * 32 + b.val % 8 * 4 + s)
      | _, _, _ => none
    let stored := r.page = 3 && (r.op = 1 || r.op = 3 || r.op = 5 || r.op = 7)
    if vp && (stored || f == .Q) && bit r.aux 4 then none
    else match f with
    | .T | .Q =>
      let n := if f == .Q then 4 else 3
      let imm := if r.page = 6 && r.op = 14 then (if r.ops.length > 3 then kImm 6 14 (o 3) else some 1) else some 0
      let lim := if r.page = 6 && r.op = 14 then 4 else n
      let s := if vp then b2n (o 1).last * 2 + b2n (o 2).last else r.sub
      let used := if !vp then [] else if f == .Q then [1, 2, 3] else if stored then [0, 1, 2] else [1, 2]
      let e := if f == .Q then reg 3 3 else some 0
      if lasts used then none
      else match imm with
        | some i => mk lim (reg 0 0) (reg 1 1) (reg 2 2) e (low3 (reg 0 0) (reg 1 1) (reg 2 2) s) i
            (vp && ((f == .Q && (o 3).last) || (stored && (o 0).last)))
        | none => none
    | .I =>
      if lasts [] then none
      else match kImm r.page r.op (o 2) with
        | some i =>
          mk 3 (reg 0 0) (reg 1 1) (some 0) (some 0) ((low3 (reg 0 0) (reg 1 1) (some 0) 0).map (· + i % 32)) (i / 32) false
        | none => none
    | .K =>
      if lasts [] || (o 1).value.isNone then none
      else mk 2 (reg 0 0) (some 0) (some 0) (some 0) ((reg 0 0).map (fun d => d.val % 8 * 256)) 0 false
    | .M =>
      if lasts (if stored then [0] else []) || (o 2).value.isNone then none
      else match (o 3).narrow 2 with
        | some z =>
          mk 4 (reg 0 0) (reg 1 1) (some 0) (some 0) (low3 (reg 0 0) (reg 1 1) (some 0) z) 0 (stored && (o 0).last)
        | none => none
    | .B =>
      if lasts [] || (o 1).value.isNone then none
      else mk 2 (some 0) (reg 1 0) (some 0) (some 0) ((reg 1 0).map (fun a => a.val % 8 * 256)) 0 false
    | .J => if lasts [] || (o 0).value.isNone then none else mk 1 (some 0) (some 0) (some 0) (some 0) (some 0) 0 false
    | .L =>
      if lasts [] || (o 2).value.isNone then none
      else match (o 0).narrow 1 with
        | none => none
        | some v =>
          if r.page = 0 then
            mk 3 (some 0) (reg 1 1) (some 0) (some 0) ((reg 1 1).map (fun a => v * 1024 + a.val % 8 * 128 + 1)) 0 false
          else match (o 1).value with
            | some t => if t < 0 then none else mk 3 (some 0) (some 0) (some 0) (some 0) (some (v * 1024 + 1)) 0 false
            | none => none
    | .S =>
      if lasts [] then none
      else match (o 1).narrow 8, reg 0 0 with
        | some v, some d => mk 2 (some d) (some 0) (some 0) (some 0) (some (d.val % 8 * 256 + v)) 0 false
        | _, _ => none
    | .Z =>
      if lasts [] then none
      else match (o 0).narrow 8 with
        | some v => mk 1 (some 0) (some 0) (some 0) (some 0) (some (r.sub * 256 + v)) 0 false
        | none => none

/-- A record's words with stand-ins for its virtual registers, so that the decoder's own checks judge it. -/
def KRecord.raw (r : KRecord) : Option Raw := r.rawBy stand

/-- Whether an operand is a target outside the section's n records. -/
def KOperand.targetBad (n : Nat) : KOperand → Bool
  | .target i => i >= n
  | _ => false

/-- Whether an operand is an inexact vector-length expression. -/
def KOperand.lenBad : KOperand → Bool
  | .len m k c => (lenValue m k c).isNone
  | _ => false

/-- Whether some encoding holds what a record names, among n records. Every instruction that the decoder takes is of
level 1, so that no variant's level is below it. -/
def KRecord.ok (n : Nat) (r : KRecord) : Bool :=
  r.ops.all (fun o => !o.targetBad n && !o.lenBad)
  && match r.raw with
    | none => false
    | some w => match w.decode with
      | .ok _ => true
      | .error _ => false

/-! ### The native code of a section whose registers fit (R86)

DESIGN CHOICE (log 19): a virtual register whose number an architectural one has keeps it, and each other takes the
lowest register that no record names; each record becomes its own native instruction. -/

/-- The numbers of a section's virtual registers, file by file: those that records name. -/
structure KFiles where
  x : List Nat
  v : List Nat
  p : List Nat
  deriving DecidableEq, Repr

/-- How many operands of a form stand in register fields. -/
def regFields : Form → Nat
  | .T => 3
  | .Q => 4
  | .I | .M | .L => 2
  | .K | .B | .S => 1
  | .J | .Z => 0

/-- The numbers that a record names: by its operands, by a triple (page 4), by VFREE's mask and by its governing
predicate. A number without a class counts for each file. -/
def KRecord.files (r : KRecord) : KFiles :=
  let ops := r.ops.take ((formOf r.page r.op).elim 0 (fun f => regFields f.1))
  let bare := ops.filterMap (fun o => match o with
    | .imm _ | .few _ | .sid _ | .len _ _ _ => (o.value).map Int.toNat
    | _ => none)
  let mask := if r.page = 3 && r.op = 16 then
      match (r.ops.head?).bind (KOperand.narrow 8) with
      | some c => ((List.range 8).filter (bit c)).map (8 * r.sub + ·)
      | none => []
    else []
  ⟨bare ++ ops.filterMap (fun o => match o with
      | .x n => some n
      | _ => none),
    bare ++ mask ++ (ops.filterMap (fun o => match o with
      | .v n _ => some (if r.page = 4 then [n, n + 1, n + 2] else [n])
      | _ => none)).flatten,
    bare ++ (if vectorPage r.page then [bits r.aux 6 3] else []) ++ ops.filterMap (fun o => match o with
      | .p n => some n
      | _ => none)⟩

/-- The numbers that the records of a section name. -/
def kFiles (rs : List KRecord) : KFiles :=
  rs.foldr (fun r k => ⟨r.files.x ++ k.x, r.files.v ++ k.v, r.files.p ++ k.p⟩) ⟨[], [], []⟩

/-- The registers of a file, from `low` on, that no record names. -/
def freeRegs (low size : Nat) (used : List Nat) : List Nat :=
  (List.range size).filter (fun r => low <= r && !used.contains r)

/-- The numbers beyond a file, each once. -/
def beyond (size : Nat) (used : List Nat) : List Nat := (used.filter (size <= ·)).eraseDups

/-- The register of a virtual one; `none` where the file is full. -/
def regOf (low size : Nat) (used : List Nat) (n : Nat) : Option Nat :=
  if n < size then some n else (freeRegs low size used)[(beyond size used).idxOf n]?

/-- The x register of a virtual one: x0 is none, and x1, which CALL writes, stays itself. -/
def KFiles.xOf (k : KFiles) : Nat → Option Nat := regOf 2 32 k.x
/-- The vector register of a virtual one. -/
def KFiles.vOf (k : KFiles) : Nat → Option Nat := regOf 0 32 k.v
/-- The predicate of a virtual one; p0 is none. -/
def KFiles.pOf (k : KFiles) : Nat → Option Nat := regOf 1 8 k.p

/-- An x register that holds no virtual one, for an immediate that is built. -/
def KFiles.spare (k : KFiles) : Option XReg := ((freeRegs 2 32 k.x)[(beyond 32 k.x).length]?).map natReg

/-- The register of an operand in a field. -/
def KFiles.reg (k : KFiles) (_ : Nat) : KOperand → Option (Fin 32)
  | .x n => (k.xOf n).map natReg
  | .v n _ => (k.vOf n).map natReg
  | .p n => (k.pOf n).map natReg
  | o => match o.value with
    | some v => if 0 <= v && v < 32 then some (natReg v.toNat) else none
    | none => none

/-- A record's aux with the register of its governing predicate. -/
def KFiles.aux (k : KFiles) (r : KRecord) : Option Nat :=
  if vectorPage r.page then (k.pOf (bits r.aux 6 3)).map (fun p => r.aux % 64 + 64 * p) else some r.aux

/-- A constant built in a register: its upper half, then 16 bits at a time. -/
def buildConst (d : XReg) (v : Int) : List Instr :=
  let c := wrap 64 v
  [.li d (signed 32 (bits c 32 32)), .slli d d 16, .addi d d (bits c 16 16), .slli d d 16, .addi d d (bits c 0 16)]

/-- The instruction on two registers that does what one with an immediate does. -/
def byRegister (t : XReg) : Instr → Option Instr
  | .addi d a _ => some (.add d a t)
  | .slti d a _ => some (.slt d a t)
  | .andi d a _ => some (.and d a t)
  | .ori d a _ => some (.or d a t)
  | .xori d a _ => some (.xor d a t)
  | .addpi d a _ => some (.addp d a t)
  | _ => none

/-- Fields with an immediate whose base field begins at bit `pos`. -/
def putImm (f : Fields) (pos : Nat) (v : List Nat × Nat) : Fields :=
  { f with imms := v.1, base := f.base + v.2 * 2 ^ pos }

/-- The words of some instructions; `none` where one takes more prefixes than R54 allows. -/
def wordsOf (fs : List Fields) : Option (List Half) :=
  if fs.all (fun f => f.words.length <= 5) then some (fs.map Fields.words).flatten else none

/-- A branch at an address; its one IMM prefix reaches the whole store. -/
def branchWords (f : Fields) (width : Nat) (at_ t : Int) : Option (List Half) :=
  wordsOf [putImm f 0 (immSplit width 1 ((t - at_) / 2))]

/-- A loop instruction at an address, whose body ends at t; none where the length field does not hold the body. -/
def loopWords (f : Fields) (at_ t : Int) : Option (List Half) :=
  let len := (t - at_) / 2 - f.words.length
  if 1 <= len && len <= 127 then wordsOf [{ f with base := f.base - 1 + len.toNat }] else none

/-- An instruction with an immediate, which is built in the spare register where no prefixes hold it. -/
def immWords (spare : Option XReg) (bare : Bool) (i : Instr) (v : Int) : Option (List Half) :=
  if fitsS 32 v then wordsOf [putImm i.fields 0 (if bare then immM 5 v else immS 5 v)]
  else match spare with
    | none => none
    | some t =>
      match byRegister t i with
      | none => none
      | some j => if fitsS 64 v then wordsOf ((buildConst t v ++ [j]).map Instr.fields) else none

/-- LI of a constant. -/
def liWords (f : Fields) (d : XReg) (v : Int) : Option (List Half) :=
  if fitsS 35 v then wordsOf [putImm f 0 (immS 8 v)] else wordsOf ((buildConst d v).map Instr.fields)

/-- An M form with an offset in bytes, which counts units of the access size, or of a vector register (R59, 06 R138). -/
def offWords (f : Fields) (page size : Nat) (v : Int) : Option (List Half) :=
  let u : Int := if vectorPage page then Config.vlb else 2 ^ size
  if v % u = 0 && fitsS 30 (v / u) then wordsOf [putImm f 2 (immM 3 (v / u))] else none

/-- An operand of a record, 0 where it is left out. -/
def KRecord.operand (r : KRecord) (n : Nat) : KOperand := r.ops[n]?.getD (.imm 0)

/-- The address that a target operand names. -/
def KOperand.place (place : Nat → Int) : KOperand → Option Int
  | .target t => some (place t)
  | _ => none

/-- Whether an operand is a vector register beyond the file. -/
def KOperand.vBeyond : KOperand → Bool
  | .v n _ => 32 <= n
  | _ => false

/-- The instruction of a record, with an immediate that its fields need not hold left out. A triple keeps its numbers.
-/
def KRecord.instr (k : KFiles) (r : KRecord) : Option Instr := do
  if r.page = 4 && r.ops.any KOperand.vBeyond then none
  let aux ← k.aux r
  let w ← KRecord.rawBy k.reg { r with aux := aux }
  match w.decode with
  | .ok i => some i
  | .error _ => none

/-- The native words of a record at an address, with the addresses of the records. `none` where the registers or the
instruction's own fields do not hold what the record names and no spare register does. -/
def KRecord.native (k : KFiles) (place : Nat → Int) (at_ : Int) (r : KRecord) : Option (List Half) := do
  let i ← r.instr k
  let f := i.fields
  match r.page, r.op with
  | 0, 5 | 0, 12 | 0, 25 => (r.operand 2).value.bind (immWords k.spare false i)
  | 0, 6 | 0, 7 | 0, 8 => (r.operand 2).value.bind (immWords k.spare true i)
  | 0, 13 => (k.reg 0 (r.operand 0)).bind (fun d => (r.operand 1).value.bind (liWords f d))
  | 0, 14 | 0, 15 | 0, 16 | 3, 0 | 3, 1 | 3, 6 | 3, 7 | 6, 0 | 6, 1 =>
    ((r.operand 3).narrow 2).bind (fun z => (r.operand 2).value.bind (offWords f r.page z))
  | 0, 17 | 0, 18 | 0, 19 | 0, 20 => ((r.operand 1).place place).bind (branchWords f 8 at_)
  | 0, 21 | 0, 22 => ((r.operand 0).place place).bind (branchWords f 11 at_)
  | 0, 26 => ((r.operand 2).place place).bind (loopWords f at_)
  | 1, 11 => (r.operand 1).value.bind (fun v =>
    if v < 0 then none else ((r.operand 2).place place).bind (loopWords (putImm f 7 (immN 3 (min v.toNat 65535))) at_))
  | _, _ => wordsOf [f]

/-- The addresses at which pieces of code begin, from an address on. -/
def startsAt : Nat → List (List Half) → List Nat
  | _, [] => []
  | a, w :: ws => a :: startsAt (a + 2 * w.length) ws

/-- The native code of a section's records and the address of each; `none` where some record has none. Its length does
not depend on the addresses, and a record's words as they stand at address 0 show it. -/
def nativeCode (rs : List KRecord) : Option (List Half × List Nat) := do
  let k := kFiles rs
  let sized ← rs.mapM (KRecord.native k (fun _ => 12) 0)
  let starts := startsAt 0 sized
  let code ← (rs.zip starts).mapM (fun e => KRecord.native k (fun t => starts.getD t 0) e.2 e.1)
  pure (code.flatten, starts)

/-- Halfwords as bytes. -/
def halfBytes (ws : List Half) : List Byte :=
  (ws.map (fun w => [w.extractLsb' 0 8, w.extractLsb' 8 8])).flatten

/-! ### Translation (R86) -/

/-- The local memory of a scratch area that stands in the program range (R12; log 19). -/
def scratchBytes (tbase tsize : Nat) : Nat := min tsize (0x7E000 - tbase)

/-- What the translator yields: the code, and where in it that of the record at an offset of the section begins. -/
inductive Translated where
  | code (bs : List Byte) (starts : List (Nat × Nat))
  | resSet
  | bad
  | noSpace
  deriving DecidableEq, Repr

/-- The translation of a section's bytes: it reads FEAT words 0 to 2, the translator's version and nothing else, but for
the size of the scratch area, which decides TRSPACE alone. Where the registers fit it is the records' own code, which
needs no scratch area; where they do not, it is a free value (log 19), for none of the three inputs says where the
scratch area stands. -/
def translate (sec : List Byte) (feat : List Word) (version : BitVec 16) (tbase tsize : Nat) : Translated :=
  match readRecords sec.length 0 sec with
  | none => .bad
  | some rs =>
    if rs.any (fun r => r.res != 0) then .resSet
    else if !rs.all (KRecord.ok rs.length) then .bad
    else match nativeCode rs with
      | some (ws, starts) => .code (halfBytes ws) ((rs.map (·.at_)).zip starts)
      | none =>
        let code := Config.kpfCode sec feat version
        let n := code.length / 2
        if Config.kpfScratch sec feat version > scratchBytes tbase tsize then .noSpace
        else .code code (if n = 0 then [] else rs.map (fun r => (r.at_, 2 * (Config.kpfAddress sec feat version r.at_ % n))))

/-- The address in the native code of the record at an offset of the section; `none` where no record stands there. -/
def kpfEntry (starts : List (Nat × Nat)) (off : Nat) : Option Nat := (starts.find? (fun e => e.1 == off)).map (·.2)

end Sys2Proof.Machine
end

