-- ==== Sys2Proof/Machine/State.lean ====
section
/-!
DEFINITION. The state of the machine, as plain data: one package of 4096 cores, its memory and its Slate, and the
reasons a step can stop. INVENTORY.md lists every field with the rule that names it and its reset value.
-/

namespace Sys2Proof.Machine

/-- Reasons a turn has no next state. The machine itself has none: every trap and fault of the spec is a next state. -/
inductive Fault where
  /-- Raised by `step`: the agenda lists, as an event, an instruction that only a core's fetch can bring (log 2).
  Safe: no hardware takes such a turn. -/
  | notAnEvent
  deriving DecidableEq, Repr

/-- Reasons the model has no meaning to give. -/
inductive Refusal where
  /-- Raised by an arm of `exec` whose instruction has no meaning yet. Safe: the machine goes no further. -/
  | notModelled (mnemonic : String)
  deriving DecidableEq, Repr

/-- A sparse table: entries at strictly rising keys; an unlisted key reads as the table's default. -/
abbrev Tab (α : Type) := List (Nat × α)

/-! ### What a squash restores (13 R249) -/

/-- The registers of one ring but its status (16 R296). -/
structure Ring where
  base : Word
  size : Word
  head : Word
  tail : Word
  tile : Word
  scale : Word
  deriving DecidableEq, Repr

/-- One transformed-mean table: 257 knots over [lo, hi], all FP32 codes (07 R155). -/
structure TmTable where
  lo : Lane
  hi : Lane
  knots : Vector Lane 257
  deriving DecidableEq, Repr

/-- One stream view of the router as the core's registers hold it: a control word and four port-set words
(23 R386, R393), and the MODEL'S OWN count of the control word's writes, which tells a write of an equal word (R395,
log 14), and of those that disable the entry, with the last such word (R389). -/
structure View where
  ctl : Word
  ports : Vector Word 4
  gen : Nat
  offs : Nat
  offCtl : Word
  deriving DecidableEq, Repr

/-- A pending global byte of the journal: its chunk and the instruction of the chunk that wrote it, its physical
address, its value (13 R247). -/
structure GByte where
  chunk : Nat
  n : Nat
  pa : Nat
  val : Byte
  deriving DecidableEq, Repr

/-- A pushed vector instruction as the sequencer and VLOOP remember it (01 R14, 06 R142): the instruction, its pc and
the operands captured at the push. -/
structure Pushed where
  instr : Instr
  pc : BitVec 16
  xa : Word
  xb : Word
  count : Nat
  shape : Word
  tmode : Word
  deriving DecidableEq, Repr

/-- A scalar store to the scratchpad behind pending vector entries (01 R13, R18): how many of those older entries remain
in the sequencer, its address and its bytes. -/
structure LateStore where
  left : Nat
  addr : Nat
  bytes : List Byte
  deriving DecidableEq, Repr

/-- The core state that a squash of a chunk or a vector trap restores (01 R8, R16, 13 R249). -/
structure Arch where
  pc : BitVec 16
  x : Vector Word 32
  p : Vector (Fin 257) 8
  v : Vector VWord 32
  /-- bit n: v n is live, in program order (R26) -/
  live : BitVec 32
  q0 : List Word
  q1 : List Word
  q3 : List Word
  q5 : List Word
  q7 : List Word
  /-- the scratchpad as the entries executed so far leave it -/
  spad : List Host.Cell
  /-- scalar stores that follow pending entries in program order, oldest first (R13, log 6) -/
  slog : List LateStore
  /-- the MODEL'S OWN debts of q0: elements that entries before this point have popped and that a QPUSH after it brings
  (14 R279, log 6) -/
  owed : List Word
  /-- offsets of the scratchpad words whose full/empty bit is empty (09 R196) -/
  empties : List Nat
  loop0 : Word
  loop1 : Word
  tvec : Word
  tcause : Word
  tpc : Word
  tval : Word
  tsave : Word
  /-- id.x, id.y, id.z, org.x, org.y, org.z, ext.x, ext.y, ext.z, args (sid 0x01 to 0x0A) -/
  ids : Vector Word 10
  shape : Word
  tmode : Word
  amax : Word
  amaxf : Word
  perm : Word
  /-- the latched permutation table of perm (16 R302) -/
  permT : Vector Byte 192
  gang : Word
  accmode : Word
  bm : Vector Word 8
  chcfg : Vector Word 16
  stashCfg : Word
  sw : Vector Word 16
  chunkLim : Word
  waitcfg : Word
  sparked : Nat
  rings : Vector Ring 8
  /-- entry and exit tables of pair 0, then of pair 1 -/
  tables : Vector TmTable 4
  mark : Word
  views : Vector View 64
  /-- pending global writes, in program order -/
  gwrites : List GByte
  /-- the last 15 pushed entries, newest first (06 R142) -/
  recent : List Pushed
  /-- entries pushed since the start or the last trap entry, counted to 15 -/
  pushes : Nat
  /-- a VLOOP that trapped in a repetition, and what a return to it restores of the two fields before (06 R142) -/
  redo : Option (BitVec 16 × List Pushed × Nat)
  deriving DecidableEq, Repr

/-! ### The rest of a core -/

/-- Progress of a VLOOP: the repetition and the body entry to execute next (06 R142). -/
structure Rep where
  body : List Pushed
  times : Nat
  j : Nat
  i : Nat
  deriving DecidableEq, Repr

/-- A vector-sequencer entry: what was pushed, its chunk and that chunk's count at the push, the state that a trap of
the entry restores (01 R16), and a VLOOP's repetitions. -/
structure Entry where
  op : Pushed
  len : Nat
  chunk : Nat
  n : Nat
  snap : Arch
  rep : Option Rep
  deriving DecidableEq, Repr

/-- What a release writes and an acquire of it reads (13 R258 to R261): a global line, a full/empty word, a channel
slot, a phase of a group's barrier line, a superstep of a launch; for the last two, `done` once the phase has been
released. -/
inductive SyncKey where
  | line (l : Nat)
  | word (owner : CoreId) (off : Nat)
  | slot (owner : CoreId) (ch : Fin 16) (i : Nat)
  | group (key : Nat) (done : Bool)
  | domain (launch : Nat) (done : Bool)
  deriving DecidableEq, Repr

/-- A release that covers a write (13 R258): the releasing core and its partition, the scope and, for GATE, the gate,
what the release wrote, and, until the release's chunk has committed, that chunk and the instruction in it. -/
structure Mark where
  core : CoreId
  part : Option Nat
  scope : Scope
  gate : Option Nat
  key : Option SyncKey
  pend : Option (Nat × Nat)
  deriving DecidableEq, Repr

/-- An uncommitted chunk (13 R244 to R249): its start; its instructions completed; the count at which the journal ends
it, if it does (R247); whether it has ended; whether it forms one run with the next chunk (14 R279); the global and
scratchpad lines it has read; its journal entries, as (2 * line of the scratchpad or 2 * global line + 1, the lowest
instruction of the chunk that writes the line); the entries that the instruction which ended it needed; the lines it
has read by an acquire that reaches beyond the die; the lines it has read of which another agent has written a later
value, and those of which a later value is visible in its die (R248, R255); its releases, each with the instruction of
the chunk; and whether the arbiter will find a conflict. -/
structure Chunk where
  id : Nat
  start : Arch
  n : Nat
  cut : Option Nat
  ended : Bool
  run : Bool
  rd : List Nat
  srd : List Nat
  jrnl : List (Nat × Nat)
  cutBy : List Nat
  acq : List Nat
  newer : List Nat
  late : List Nat
  rels : List (Nat × Mark)
  conflict : Bool
  deriving DecidableEq, Repr

/-- A core outside a launch, put in place by one, executing, ended, or stopped (01 R27, 08 R172, R174, 19 R338,
R345). -/
inductive Run where
  | inReset | held | running | halted | frozen | stopped
  deriving DecidableEq, Repr

/-- A wait-for edge (09 R200). -/
inductive Edge where
  | core (target : CoreId)
  | pool (line : Reg8)
  deriving DecidableEq, Repr

/-- A blocked instruction (09 R199): the stage it has reached and a payload already read (19 R347). -/
structure Wait where
  instr : Instr
  len : Nat
  stage : Nat
  payload : Body
  edge : Option Edge
  deriving DecidableEq, Repr

/-- The state of a receive channel (09 R193), the length of each slot, and who sent its message (13 R261). -/
structure Chan where
  head : Nat
  count : Nat
  held : Option Nat
  lens : Vector Nat 16
  srcs : Vector CoreId 16
  deriving DecidableEq, Repr

/-- A deferred-list entry of a core's bank (09 R198). -/
structure Deferred where
  word : Nat
  taker : CoreId
  deriving DecidableEq, Repr

/-- Lending states of a core (10 R213). -/
inductive PMode where
  | run | lend | recalling | halted | dark
  deriving DecidableEq, Repr

/-- Who holds or sends shares: a core, or the root of a barrier pool (10 R201, R217). -/
inductive Holder where
  | core (c : CoreId)
  | pool (key : Nat)
  deriving DecidableEq, Repr

/-- An inbound contribution at a core or a pool (10 R212): who sent it, whose shares it carries, its hop count, how
many of its shares are here, sent on along the edge, or with the governor, how many a recall asks back, and whether
the wait behind it still stands. -/
structure Contrib where
  sender : Holder
  origin : Holder
  hop : Nat
  here : Nat
  sent : Nat
  gov : Nat
  due : Nat
  live : Bool
  deriving DecidableEq, Repr

/-- A raised wake: since when, and the slew boundaries at which it has been considered (16 R325). -/
structure Wake where
  since : Word
  seen : Nat
  deriving DecidableEq, Repr

/-- Shares and level of a core (10 R206 to R213). The holding H is derived from these (R208). -/
structure Power where
  own : Nat
  mode : PMode
  /-- level.cur: 0 to 11, or 15 gated -/
  cur : Nat
  /-- own shares sent along edges and not yet back -/
  sentOwn : Nat
  edge : Option Edge
  inb : List Contrib
  /-- own shares that the governor has taken from those parked by SHPARK, and owes (R219) -/
  gov : Nat
  /-- a raised wake (16 R325) -/
  wake : Option Wake
  deriving DecidableEq, Repr

/-- Messages in flight on Amber (10 R212 to R218): a lend of shares, a recall (`last` when the wait behind the loan has
ended), a return, a cycle notice. -/
inductive Amber where
  | lend (src dst origin : Holder) (hop amt : Nat)
  | recallMsg (src dst origin : Holder) (hop amt : Nat) (last : Bool)
  | ret (src dst origin : Holder) (hop amt : Nat)
  | notice (dst origin : CoreId) (len : Nat)
  deriving DecidableEq, Repr

/-! #### Engines -/

/-- A command of the copy engine (15 R286): its operands, its rows and strides, and what its completion carries. -/
structure CopyCmd where
  kind : CopyKind
  src : Word
  dst : Word
  len : Nat
  rows : Nat
  sstr : Int
  dstr : Int
  tag : Nat
  adv : Bool
  ring : Reg8
  x : Bool
  deriving DecidableEq, Repr

/-- A copy command in progress: bytes copied so far in row order; source bytes that the command itself has overwritten,
as they were (R287), local ones and global ones by physical address; whether a soft error was corrected (R290). -/
structure CopyRun where
  cmd : CopyCmd
  pos : Nat
  keptL : List (Nat × Byte)
  keptG : List (Nat × Byte)
  corrected : Bool
  deriving DecidableEq, Repr

/-- An exchange-plan entry with its destination rank resolved to a core (15 R294). -/
structure PlanEntry where
  dst : CoreId
  doff : Nat
  soff : Nat
  len : Nat
  deriving DecidableEq, Repr

/-- What a slice command does: an MMA (16 R307) or an MDRAIN (R312) with its multiplier and tag. -/
inductive MatOp where
  | mma (b : Reg8) (m : MmaMode) (k : Nat)
  | drain (m : DrainMode) (mult : Lane) (tag : Nat)
  deriving DecidableEq, Repr

/-- A slice command: the tile, ring a, and the operation. -/
structure MatCmd where
  d : Reg8
  a : Reg8
  op : MatOp
  deriving DecidableEq, Repr

/-- Phases of a command that the slice has taken (16 R309, R325): waiting for its gang, able to start once its tiles
are present, granted and waiting to start, running, ended with a status. -/
inductive Phase where
  | joining | ready | granted | running | ended (status : Nat)
  deriving DecidableEq, Repr

/-- A slice command in progress: steps retired, members of its joined gang (none outside a gang) with the leader
first, whether a soft error was corrected. -/
structure SliceRun where
  cmd : MatCmd
  phase : Phase
  k : Nat
  gang : List CoreId
  corrected : Bool
  deriving DecidableEq, Repr

/-- A matrix slice: its command; whether a command ended since the last slew boundary, whether the slice fills (16
R325); when it last ran a step or a drain (23 R398). -/
structure Slice where
  cmd : Option SliceRun
  endedNow : Bool
  filling : Bool
  ran : Option Word
  deriving DecidableEq, Repr

/-- One line of a cluster's slew record (17 R328), with slots in ascending order: the time; D at the start of the
boundary, its band, and the lane groups bound; G, and k where some slice has ended or fills; the slots ready and ended
at the start, granted, started, released and filling at the end, and those whose wake is granted; D at the end. -/
structure SlewLine where
  time : Word
  dp : Nat
  band : Nat
  lanes : Nat
  g : Nat
  k : Option Nat
  ready : List Nat
  ended : List Nat
  grant : List Nat
  start : List Nat
  release : List Nat
  fill : List Nat
  wake : List Nat
  d : Nat
  deriving DecidableEq, Repr

/-- The bypass (16 R311): 32 x 32 elements, element e at bit e times the width; scale containers by block; format and
block code. -/
structure Bypass where
  elems : BitVec 16384
  scales : List Lane
  fmt : Fmt
  blk : Nat
  deriving DecidableEq, Repr

/-- A stream packet (23 R388) but for its entry; a marker has no body. `ovf` says that it holds a lane whose count
would have reached 2^32 (R390). -/
structure Packet where
  marker : Bool
  cid : BitVec 16
  idx : Nat
  body : Body
  ovf : Bool
  deriving DecidableEq, Repr

/-- A stream entry as the router holds it (23 R386 to R389, R395): the words, the set in force, its emissions, the
packet buffers of the ports in arrival order, and the result packets not yet taken by a command, oldest first, each
with whether it holds a COUNT lane (R390). -/
structure StreamEntry where
  words : View
  cur : Fin 4
  sent : Nat
  buf : List (Fin 5 × Packet)
  results : List Bool
  deriving DecidableEq, Repr

/-- An RTSEND command (23 R395); `lost` says that its cid is LOST (R396). -/
structure RtCmd where
  entry : Fin 64
  cid : BitVec 16
  p : Word
  sbase : Nat
  npk : Nat
  nres : Nat
  tag : Nat
  mark : Bool
  lost : Bool
  deriving DecidableEq, Repr

/-- An RTSEND in progress: packets injected, whether its marker has been injected. -/
structure RtRun where
  cmd : RtCmd
  sent : Nat
  marked : Bool
  deriving DecidableEq, Repr

/-- Uncorrectable errors in the SRAMs of a core but its scratchpad (19 R343): halfwords of the instruction store by
address, rows of the accumulator store as 32 z + row, vector registers, and journal entries as a chunk lists them. -/
structure Errs where
  istore : List Nat
  acc : List Nat
  vec : List Nat
  jrnl : List Nat
  deriving DecidableEq, Repr

/-- Debugger state of a core: held at a breakpoint, one instruction to run, breakpoints (11 R226), and since when it
has been held, for its watchdog pauses (19 R344). -/
structure Dbg where
  hold : Bool
  stepOne : Bool
  brks : List (BitVec 16)
  since : Word
  deriving DecidableEq, Repr

/-- One core. -/
structure Core where
  arch : Arch
  istore : List Host.Cell
  run : Run
  wait : Option Wait
  /-- the MODEL'S OWN latch: bytes of the instruction being executed (log 5) -/
  ilen : Nat
  seq : List Entry
  chunks : List Chunk
  /-- the MODEL'S OWN chunk numbering (log 12) -/
  nextChunk : Nat
  /-- the chunk that begins next ends at this count, before an instruction that needs these entries (13 R247) -/
  cutNext : Option (Nat × List Nat)
  /-- the next instruction waits until the run before it has committed (14 R279) -/
  await : Bool
  /-- squashes in a row of the executions that started at each pc (13 R251) -/
  squashes : Tab Nat
  /-- where the chunk that runs with priority starts (13 R251) -/
  prioPc : Option (BitVec 16)
  pend : BitVec 8
  chans : Vector Chan 16
  deferred : List Deferred
  z : Vector Tile 8
  /-- the tiles before uncommitted writes of accmode, by chunk and instruction, oldest first (13 R249, 16 R304) -/
  zOld : List (Nat × Nat × Vector Tile 8)
  power : Power
  arb : Int
  q2 : List CopyCmd
  copy : Option CopyRun
  plan : List PlanEntry
  /-- plan entries of the current superstep already performed -/
  planAt : Nat
  q4 : List MatCmd
  slice : Slice
  bypass : Option Bypass
  q6 : List RtCmd
  rcmd : Option RtRun
  entries : Vector StreamEntry 64
  /-- collectives that a LOST notice has named (23 R396) -/
  lostCids : List (BitVec 16)
  /-- the router's save buffer: entry, port, packet (19 R349) -/
  saveBuf : List (Fin 64 × Fin 5 × Packet)
  /-- whether the router has received the flush tokens (19 R349) -/
  flushed : Bool
  dbg : Dbg
  /-- poisoned dwords of the scratchpad (21 R374) -/
  poison : List Nat
  /-- uncorrectable errors in the other SRAMs (19 R343) -/
  errs : Errs
  progress : Word
  /-- the MODEL'S OWN note of the lines that a waiting request has been granted tokens for, as (0 scalar pipeline, 1
  vector sequencer, 2 copy engine; physical line) (20 R358) -/
  paid : List (Nat × Nat)
  /-- the line at which a STASH fetch that waits for a token goes on (14 R274) -/
  fetchAt : Option Nat
  /-- identifier of the partition and of the launch the core belongs to (20 R352, 08 R170) -/
  part : Option Nat
  launch : Option Nat
  deriving DecidableEq, Repr

/-- Fault classes (19 R339), in the order of their codes 0 to 7; class 0 marks a refusal that raised no fault (R342). -/
inductive FaultClass where
  | refusal | translate | violation | memErr | link | doubleTrap | watchdog | power
  deriving DecidableEq, Repr

/-- How a fault record's address is read (19 R340), in the order of the codes 0 to 7. -/
inductive Place where
  | none | global | core | accStore | istore | vecReg | idCore | pc
  deriving DecidableEq, Repr

/-- A fault detected and not yet handled by Slate (19 R338). -/
structure Detected where
  cls : FaultClass
  place : Place
  addr : Word
  cause : Nat
  core : CoreId
  part : Option Nat
  launch : Option Nat
  deriving DecidableEq, Repr

/-- A line whose superseded contents some die may still read (13 R256): the core whose engine wrote the newer value, if
one did; the dies at which the newer value is visible; the cores that have written or observed it (R258); the releases
that cover it; and the old contents. -/
structure Stale where
  line : Nat
  engine : Option CoreId
  dies : List Nat
  seers : List CoreId
  marks : List Mark
  old : Body
  deriving DecidableEq, Repr

/-- States of a line in a stash (12 R240); a line not listed is I. -/
inductive LineState where
  | s | e | m
  deriving DecidableEq, Repr

/-- A line that a core's stash holds, as the directory of its home tracks it: the core, the global and the physical
line number, its state (12 R239, R240), and whether the copy is uncorrectable (19 R343). -/
structure StashLine where
  core : CoreId
  va : Nat
  line : Nat
  st : LineState
  bad : Bool
  deriving DecidableEq, Repr

/-- A physical line in the near cache of its home die, and its way (12 R233). -/
structure NearLine where
  line : Nat
  way : Fin 16
  deriving DecidableEq, Repr

/-- Stop states of a partition (19 R345 to R350, 20 R357): running; a stop requested for time T; its cores stopped but
for gate instructions that wait for their reply (20 R371); its work settled and its routers being swept; put away, with
the state of its cores saved; released at T2. -/
inductive StopState where
  | none | requested (t : Word) | settling | sweeping | stopped | resuming (t2 : Word)
  deriving DecidableEq, Repr

/-- A node of a partition for which a SHARE or SLICE entry has given a slice length in microseconds (20 R355, R357). -/
structure Shared where
  node : Node
  slice : Nat
  deriving DecidableEq, Repr

/-- A partition as Slate and its scheduler hold it: its function and nodes (20 R352), page-table root (12 R234), share
allotment (10 R205: none until it is written), load area (04 R88), what its peer status derives from (20 R364), its
stop, when its slice began (20 R357), its saved cores (19 R348), pending RESIZE events, oldest first (20 R354), where a
migration moves its nodes (23 R399), and whether the debugger is attached to it (21 R374). `begun` is the MODEL'S OWN
number of the turn at which its last slice began, if one has: it orders the slices (20 R357, log 17). -/
structure Part where
  vf : Fin 16
  nodes : List Node
  shared : List Shared
  root : Nat
  allot : Option Nat
  loadBase : Nat
  loadSize : Nat
  faulted : Bool
  /-- the launch that its first fault's record names (19 R341) -/
  faultOf : Nat
  wasReset : Bool
  migrating : Bool
  stop : StopState
  since : Word
  begun : Option Nat
  saved : List (CoreId × Core)
  resize : List (List (Nat × BitVec 512))
  dest : List (Node × Node)
  attached : Bool
  deriving DecidableEq, Repr

/-- A barrier pool (10 R217): contributions with what their senders ask back, the shares at the root, and what each
member holds of them with what the root has recalled. -/
structure Pool where
  inb : List Contrib
  held : Nat
  given : List (CoreId × Nat × Nat)
  deriving DecidableEq, Repr

/-- Widths of a Cobalt link (23 R398). -/
inductive Width where
  | standby | narrow | full
  deriving DecidableEq, Repr

/-- A Cobalt link: its width and a change in progress. -/
structure Link where
  width : Width
  change : Option Width
  deriving DecidableEq, Repr

/-! ### Gates (20 R361) -/

/-- Gate states, in the order of their codes. -/
inductive GateState where
  | unset | run | error | migrating | closed
  deriving DecidableEq, Repr

/-- An access-list entry and its bucket. -/
structure GateSlot where
  entry : GateEntry
  bucket : Nat
  deriving DecidableEq, Repr

/-- A queued payload: its post number, its poster's entry and incarnation. -/
structure Post where
  payload : Body
  n : Word
  ent : Nat
  inc : BitVec 16
  deriving DecidableEq, Repr

/-- A gate. `slots` lists the access list by entry number. -/
structure Gate where
  state : GateState
  slots : List GateSlot
  queue : List Post
  posts : Word
  takes : Word
  window : Option WindowSpec
  idx : Lane
  recBy : Nat
  prior : GateState
  deriving DecidableEq, Repr

/-! ### The host interface (24) -/

/-- A fault record (19 R340). -/
abbrev Record := BitVec 256

/-- Where a launch stands (24 R405): accepted and waiting, running, faulted and not yet reset. -/
inductive LaunchState where
  | waiting | running | faulted
  deriving DecidableEq, Repr

/-- An accepted launch (24 R404): its submission, its record's fields, the object read for it, its share request, its
partition's share allotment when it was accepted (10 R205), and the places of its data sections in the load area, as
(offset, bytes) (04 R88). -/
structure Launch where
  vf : Fin 16
  hseq : Word
  part : Nat
  node : Node
  kernel : Nat
  interval : Nat
  g : Nat × Nat × Nat
  s : Nat × Nat × Nat
  t : Nat × Nat × Nat
  args : Word
  bms : List Word
  object : List Byte
  share : Nat
  allot : Nat
  state : LaunchState
  data : List (Nat × Nat)
  deriving DecidableEq, Repr

/-- A submission that the device has accepted and not yet carried out (24 R401). -/
structure Submission where
  hseq : Word
  kind : Nat
  arg : Word
  deriving DecidableEq, Repr

/-- A token account of a function for one resource (20 R358, R359): allotment (none: not written yet), tokens left,
tokens drawn from the idle pool in this period, unpaid loans as (lender, tokens), oldest first, and the debts of earlier
periods as (tokens due each period, tokens left to pay), oldest first. -/
structure Tokens where
  allot : Option Nat
  left : Nat
  drawn : Nat
  loans : List (Fin 16 × Nat)
  plan : List (Nat × Nat)
  deriving DecidableEq, Repr

/-- A virtual function (24 R400 to R403, R409): enabled or not, its policy version and incarnation, its BAR registers,
the submission and event indexes, whether a GAP has stopped the reading, retained and held events, accepted
submissions, its fault log, way mask and token accounts. -/
structure Vf where
  enabled : Bool
  policy : Nat
  inc : BitVec 16
  sqbase : Word
  eqbase : Word
  qsize : Word
  sqtail : Word
  eqhead : Word
  hseq : Word
  dseq : Word
  sqread : Nat
  eqwrite : Nat
  gap : Bool
  retained : List (Word × Body)
  held : List Body
  subs : List Submission
  log : List Record
  wayMask : BitVec 16
  tokens : Vector Tokens 5
  deriving DecidableEq, Repr

/-- The operations of a reconfiguration command (20 R355). -/
inductive ReOp where
  | add | remove | share | unshare | slice
  deriving DecidableEq, Repr

/-- The entries of a reconfiguration command read so far, in order (20 R355). -/
abbrev Reconf := List (ReOp × ReconfEntry)

/-- Boot and management state (24 R406 to R411): whether boot has succeeded and the failing step of one that did not;
the table in force; column faults (die, column); Umber and policy versions; telemetry records by interval. -/
structure Boot where
  done : Bool
  failed : Option Nat
  table : Option BootTable
  columnFaults : List (Nat × Nat)
  umber : Nat
  policies : List Nat
  telemetry : List (Word × List (Nat × Nat × Nat × Nat))
  deriving DecidableEq, Repr

/-- A cached translation (12 R236): cluster, partition, page base, and what it maps to. -/
structure Cached where
  cluster : ClusterId
  part : Nat
  page : Nat
  size : Nat
  base : Nat
  w : Bool
  nc : Bool
  deriving DecidableEq, Repr

/-- A packet that has left the package through a Cobalt link, or that a switch has returned through one (23 R384,
R396). -/
structure Outside where
  link : Fin 18
  core : CoreId
  port : Fin 5
  entry : Fin 64
  packet : Packet
  deriving DecidableEq, Repr

/-- Turns that the outside world and the interleaving of the agents have fixed (log 2). -/
inductive Turn where
  /-- core c runs its next instruction -/
  | core (c : CoreId)
  /-- an event happens -/
  | event (i : Instr)
  deriving DecidableEq, Repr

/-- The machine. -/
structure State where
  time : Word
  cores : Tab Core
  mem : List Host.Cell
  /-- lines held in the stashes, newest first (12 R240) -/
  stash : List StashLine
  /-- lines of the near caches, newest first (12 R233) -/
  near : List NearLine
  /-- superseded lines that some die may still read, oldest first (13 R256) -/
  stale : List Stale
  /-- lane groups of each cluster: the core a group is bound to and the cycles left (08 R185) -/
  groups : Tab (Vector (Option (CoreId × Nat)) 4)
  /-- faults detected and not yet handled by Slate (19 R338, R341) -/
  pendingFaults : List Detected
  /-- Amber messages in flight, oldest first -/
  amber : List Amber
  /-- shares the governor holds (10 R201) -/
  governor : Nat
  /-- the governor's reserve (10 R205) -/
  reserve : Nat
  /-- barrier pools by group key (10 R217) -/
  pools : Tab Pool
  links : Vector Link 18
  /-- shares that narrower links have freed for the vector-unit domains, by cluster; at 512 those that no domain has
  been given (23 R398) -/
  vecTrade : Tab Nat
  /-- the ramp table: up[0..9], down[0..9] (16 R324) -/
  rampUp : Vector (Fin 73) 10
  rampDown : Vector (Fin 73) 10
  /-- slew records by cluster, oldest line first (17 R328) -/
  slewLog : Tab (List SlewLine)
  /-- the last boundary of each cluster: a quarter of its time value (16 R323) -/
  slewAt : Tab Nat
  parts : Tab Part
  launches : Tab Launch
  nextLaunch : BitVec 32
  vfs : Vector Vf 16
  /-- host memory by function (24 R400) -/
  host : Vector (List Host.Cell) 16
  /-- gates by package * 1024 + index (20 R360) -/
  gates : Tab Gate
  /-- the last whole microsecond at which the buckets were refilled (20 R361), the last period at whose start the token
  accounts were (20 R358), and the last interval of 1 ms that is recorded (24 R411) -/
  bucketsAt : Nat
  tokensAt : Nat
  telemetryAt : Nat
  /-- Slate's own log (19 R343) -/
  slateLog : List Record
  reconf : Option Reconf
  /-- the last reconfiguration reply: none, or (index, reason) of the first failing entry (20 R355) -/
  reply : Option (Nat × Nat)
  boot : Boot
  tlb : List Cached
  /-- packets that have left for the external switch, and packets that it has returned (23 R396) -/
  gone : List Outside
  back : List Outside
  /-- unused tokens of the last period by resource and function (20 R359) -/
  idle : Vector (List (Fin 16 × Nat)) 5
  /-- package number and the packages present in the load-store domain (23 R383) -/
  pkg : Fin 128
  domain : List (Fin 128)
  /-- populated capacity in bytes of each CXL port that has an expander (12 R232) -/
  cxl : Tab Nat
  /-- poisoned dwords of global memory (21 R374) -/
  memPoison : List Nat
  /-- firewall registers of Slate cores (24 R407) -/
  firewall : Tab Word
  /-- version of the translator, FEAT word 3 (04 R91) -/
  translator : BitVec 16
  /-- the core whose turn it is (log 2) -/
  turn : CoreId
  agenda : List Turn
  /-- numbers the free values (log 3) -/
  fresh : Nat
  deriving DecidableEq, Repr

/-! ### Reset (01 R27) -/

/-- A ring register set after reset (16 R296). -/
def Ring.reset : Ring := ⟨0, 0, 0, 0, 0, 0xFFFFFF⟩

/-- A table after reset: knot k is k / 256 over [0, 1] (07 R155). -/
def TmTable.reset : TmTable :=
  ⟨0, 0x3F800000, Vector.ofFn fun k => BitVec.ofNat 32 (Fmt.fp32.round .rne (.fin false k.val (-8)))⟩

/-- A receive channel after reset (08 R173, 09 R192). -/
def Chan.reset : Chan := ⟨0, 0, none, Vector.replicate 16 0, Vector.replicate 16 0⟩

/-- The registers of a core after reset (R27); the scratchpad keeps its contents. Where no rule gives a value, log 1
names it. -/
def Arch.reset (spad : List Host.Cell) : Arch where
  pc := 0
  x := Vector.replicate 32 0
  p := Vector.replicate 8 0
  v := Vector.replicate 32 0
  live := 0
  q0 := []
  q1 := []
  q3 := []
  q5 := []
  q7 := []
  spad := spad
  slog := []
  owed := []
  empties := []
  loop0 := 0
  loop1 := 0
  tvec := 0
  tcause := 0
  tpc := 0
  tval := 0
  tsave := 0
  ids := Vector.replicate 10 0
  shape := 0
  tmode := 0
  amax := 0
  amaxf := 0
  perm := 0
  permT := Vector.ofFn fun i => BitVec.ofNat 8 i.val
  gang := 0
  accmode := 0
  bm := Vector.replicate 8 0
  chcfg := Vector.replicate 16 0
  stashCfg := 0
  sw := Vector.replicate 16 0
  chunkLim := 1024
  waitcfg := 0
  sparked := 0
  rings := Vector.replicate 8 Ring.reset
  tables := Vector.replicate 4 TmTable.reset
  mark := 0
  views := Vector.replicate 64 ⟨0, Vector.replicate 4 0, 0, 0, 0⟩
  gwrites := []
  recent := []
  pushes := 0
  redo := none

/-- Shares and level after reset: none, gated (10 R204, R206). -/
def Power.reset : Power := ⟨0, .run, 15, 0, none, [], 0, none⟩

/-- A core after reset, with the contents its stores keep (R27). -/
def Core.reset (istore spad : List Host.Cell) : Core where
  arch := Arch.reset spad
  istore := istore
  run := .inReset
  wait := none
  ilen := 2
  seq := []
  chunks := []
  nextChunk := 0
  cutNext := none
  await := false
  squashes := []
  prioPc := none
  pend := 0
  chans := Vector.replicate 16 Chan.reset
  deferred := []
  z := Vector.replicate 8 0
  zOld := []
  power := Power.reset
  arb := 0
  q2 := []
  copy := none
  plan := []
  planAt := 0
  q4 := []
  slice := ⟨none, false, false, none⟩
  bypass := none
  q6 := []
  rcmd := none
  entries := Vector.replicate 64 ⟨⟨0, Vector.replicate 4 0, 0, 0, 0⟩, 0, 0, [], []⟩
  lostCids := []
  saveBuf := []
  flushed := false
  dbg := ⟨false, false, [], 0⟩
  poison := []
  errs := ⟨[], [], [], []⟩
  progress := 0
  paid := []
  fetchAt := none
  part := none
  launch := none

/-- A core at power-on (R10). -/
def Core.initial : Core := Core.reset [] []

/-- A virtual function that has not been enabled: registers 0, log 1. -/
def Vf.reset : Vf where
  enabled := false
  policy := 0
  inc := 0
  sqbase := 0
  eqbase := 0
  qsize := 0
  sqtail := 0
  eqhead := 0
  hseq := 0
  dseq := 0
  sqread := 0
  eqwrite := 0
  gap := false
  retained := []
  held := []
  subs := []
  log := []
  wayMask := 0
  tokens := Vector.replicate 5 ⟨none, 0, 0, [], []⟩

/-- The machine right after reset. -/
def State.reset : State where
  time := 0
  cores := []
  mem := []
  stash := []
  near := []
  stale := []
  groups := []
  pendingFaults := []
  amber := []
  governor := 65536
  reserve := 0
  pools := []
  links := Vector.replicate 18 ⟨.full, none⟩
  vecTrade := []
  rampUp := #v[16, 16, 16, 16, 16, 24, 24, 24, 24, 24]
  rampDown := Vector.replicate 10 16
  slewLog := []
  slewAt := []
  parts := []
  launches := []
  nextLaunch := 1
  vfs := Vector.replicate 16 Vf.reset
  host := Vector.replicate 16 []
  gates := []
  bucketsAt := 0
  tokensAt := 0
  telemetryAt := 0
  slateLog := []
  reconf := none
  reply := none
  boot := ⟨true, none, none, [], 1, [1], []⟩
  tlb := []
  gone := []
  back := []
  idle := Vector.replicate 5 []
  pkg := 0
  domain := [0]
  cxl := []
  memPoison := []
  firewall := []
  translator := 1
  turn := 0
  agenda := []
  fresh := 0

end Sys2Proof.Machine
end

