-- ==== Sys2Proof/Machine/Names.lean ====
section
/-!
DEFINITION. What the vector instructions name (01 R26, 06 R116, R117): sources, destinations, captured registers, the
queue q0; and the lanes of a vector register (01 R8).
-/

namespace Sys2Proof

/-- What a vector instruction names: its vector sources in field order with their last-use bits, the vectors it
writes, the x registers captured as a and b, and its governing predicate. -/
structure Names where
  srcs : List (VReg × Bool)
  dsts : List VReg
  xa : Option XReg
  xb : Option XReg
  pred : PReg
  deriving DecidableEq, Repr

/-- The three registers of a triple (07 R150). -/
def triple (r : VReg) : List VReg := [r, r + 1, r + 2]

/-- A triple source. -/
def tripleSrc (r : VReg) (last : Bool) : List (VReg × Bool) := (triple r).map (fun v => (v, last))

/-- A vector b operand among the sources. -/
def VSrc.srcs : VSrc → List (VReg × Bool)
  | .vec r l => [(r, l)]
  | _ => []

/-- An x operand captured at the push. -/
def VSrc.xreg : VSrc → Option XReg
  | .x r => some r
  | _ => none

/-- An x operand captured at the push. -/
def XSrc.xreg : XSrc → Option XReg
  | .x r => some r
  | .q0 => none

/-- Names of a binary elementwise instruction. -/
def VBin.names (o : VBin) : Names := ⟨(o.a, o.la) :: o.b.srcs, [o.d], none, o.b.xreg, o.gov.pred⟩
/-- Names of a unary one. -/
def VUn.names (o : VUn) : Names := ⟨[(o.a, o.la)], [o.d], none, none, o.gov.pred⟩
/-- Names of VCMP. -/
def VCmpOps.names (o : VCmpOps) : Names := ⟨(o.a, o.la) :: o.b.srcs, [o.d], none, o.b.xreg, o.gov.pred⟩
/-- Names of a three-source instruction. -/
def VTri.names (o : VTri) : Names := ⟨[(o.a, o.la), (o.b, o.lb), (o.e, o.le)], [o.d], none, none, o.gov.pred⟩
/-- Names of a one-source instruction. -/
def VOne.names (o : VOne) : Names := ⟨[(o.a, o.la)], [o.d], none, none, o.gov.pred⟩
/-- Names of a unit-stride load. -/
def VMem.loadNames (o : VMem) : Names := ⟨[], [o.v], some o.a, none, o.gov.pred⟩
/-- Names of a unit-stride store. -/
def VMem.storeNames (o : VMem) : Names := ⟨[(o.v, o.last)], [], some o.a, none, o.gov.pred⟩

/-- What each vector instruction names; a VLOOP names what its body does (R142), and none of a body here. -/
def namesOf : Instr → Names
  | .vadd o | .vsub o | .vmul o | .vmin o | .vmax o | .vand o | .vor o | .vxor o | .vsll o | .vsrl o | .vsra o
  | .vdiv o => o.names
  | .vsqrt o | .vabs o | .vneg o => o.names
  | .vfma _ _ o | .vsel o | .vdot o _ => o.names
  | .vcmp o => o.names
  | .vmov o | .vcvt o _ _ _ | .vsfu o _ _ => o.names
  | .vsplat d a g _ => ⟨[], [d], a.xreg, none, g.pred⟩
  | .vqnt o => ⟨[(o.a, o.la)], [o.d, o.b], none, none, o.gov.pred⟩
  | .vdqnt o lb => ⟨[(o.a, o.la), (o.b, lb)], [o.d], none, none, o.gov.pred⟩
  | .vred o red _ _ b =>
    ⟨[(o.a, o.la)], if red == .maxi || red == .mini then [o.d, b] else [o.d], none, none, o.gov.pred⟩
  | .vperm o b lb => ⟨[(o.a, o.la), (b, lb)], [o.d], none, none, o.gov.pred⟩
  | .vslide o b => ⟨[(o.a, o.la)], [o.d], none, b.xreg, o.gov.pred⟩
  | .vext a la b _ => ⟨[(a, la)], [], none, b.xreg, 0⟩
  | .vins d a b _ => ⟨[], [d], some a, some b, 0⟩
  | .viota d a b g _ => ⟨[], [d], some a, some b, g.pred⟩
  | .vldl o | .vldg o _ => o.loadNames
  | .vstl o | .vstg o => o.storeNames
  | .vldls o => ⟨[], [o.v], some o.a, some o.b, o.gov.pred⟩
  | .vstls o => ⟨[(o.v, o.last)], [], some o.a, some o.b, o.gov.pred⟩
  | .vgath o => ⟨[(o.b, o.lb)], [o.v], some o.a, none, o.gov.pred⟩
  | .vscat o => ⟨[(o.v, o.last), (o.b, o.lb)], [], some o.a, none, o.gov.pred⟩
  | .vpopc a la p _ => ⟨[(a, la)], [], none, none, p⟩
  | .tmclr d g => ⟨[], triple d, none, none, g.pred⟩
  | .tmacc o => ⟨tripleSrc o.d false ++ [(o.a, o.la)], triple o.d, none, none, o.gov.pred⟩
  | .tmmerge d a la b lb g => ⟨tripleSrc a la ++ tripleSrc b lb, triple d, none, none, g.pred⟩
  | .tmfold d a la p => ⟨tripleSrc a la, triple d, none, none, p⟩
  | .tmexit d a la g => ⟨tripleSrc a la, [d], none, none, g.pred⟩
  | .tmtab a _ _ => ⟨[], [], some a, none, 0⟩
  | .vloop a _ => ⟨[], [], some a, none, 0⟩
  | _ => ⟨[], [], none, none, 0⟩

/-- The vectors that VFREE frees: v(8 * sub + i) for every set bit i of its code (R144). -/
def freeList (sub : Fin 4) (code : BitVec 8) : List VReg :=
  ((List.range 8).filter (fun i => code.getLsbD i)).map (fun i => ⟨(8 * sub.val + i) % 32, Nat.mod_lt _ (by decide)⟩)

/-- The vectors that an instruction frees: its last uses, or what VFREE names (R26). -/
def freesOf (i : Instr) : List VReg :=
  match i with
  | .vfree sub code => freeList sub code
  | i => ((namesOf i).srcs.filter (·.2)).map (·.1)

/-- Lane i of width w (R114). -/
def lane (v : VWord) (w i : Nat) : Nat := bits v.toNat (w * i) w

end Sys2Proof

namespace Sys2Proof.Machine

/-- Whether a b operand is popped from q0. -/
def VSrc.isQ0 : VSrc → Bool
  | .q0 => true
  | _ => false

/-- Whether a scalar operand is popped from q0. -/
def XSrc.isQ0 : XSrc → Bool
  | .q0 => true
  | _ => false

/-- Whether an operation pops q0 (R116, R117). -/
def popsQ0 : Instr → Bool
  | .vadd o | .vsub o | .vmul o | .vmin o | .vmax o | .vand o | .vor o | .vxor o | .vsll o | .vsrl o | .vsra o
  | .vdiv o => VSrc.isQ0 o.b
  | .vcmp o => VSrc.isQ0 o.b
  | .vsplat _ a _ _ => XSrc.isQ0 a
  | .vslide _ b => XSrc.isQ0 b
  | .vext _ _ b _ => XSrc.isQ0 b
  | _ => false

/-- Whether an operation pushes q1. -/
def pushesQ1 : Instr → Bool
  | .vext _ _ _ _ | .vpopc _ _ _ _ => true
  | _ => false

end Sys2Proof.Machine
end

