-- ==== Sys2Proof/Machine/Ops.lean ====
section
/-!
DEFINITION. The named operations over tables, memory, registers and cores; the next pc and loop ends (01 R21); chunk
accounting (13 R244 to R249); taking a trap and returning from one (01 R22 to R25); raising a fault (19 R338, R339).
-/

namespace Sys2Proof.Machine

/-- What one instruction or event leads to. -/
abbrev Out := Host.Outcome State Fault Refusal

/-! ### Sparse tables -/

/-- The entry at a key, or the default. -/
def tabGet {α : Type} (d : α) : Tab α → Nat → α
  | [], _ => d
  | (k, v) :: t, n => if n = k then v else tabGet d t n

/-- The table with one entry replaced or added, keys rising. -/
def tabPut {α : Type} : Tab α → Nat → α → Tab α
  | [], n, a => [(n, a)]
  | (k, v) :: t, n, a =>
    if n < k then (n, a) :: (k, v) :: t
    else if n = k then (n, a) :: t
    else (k, v) :: tabPut t n a

/-- The table without a key. -/
def tabDel {α : Type} (t : Tab α) (n : Nat) : Tab α := t.filter (fun e => e.1 != n)

/-- The entry at a key, if listed. -/
def tabFind {α : Type} (t : Tab α) (n : Nat) : Option α := (t.find? (fun e => e.1 == n)).map (·.2)

/-- The newest n elements of a list in arrival order. -/
def newest {α : Type} (n : Nat) (l : List α) : List α := l.drop (l.length - n)

/-! ### Memory: bytes at rising addresses, none equal to 0, which an unlisted address reads as (log 1) -/

/-- The canonical form of a memory. -/
def memWf : List Host.Cell → Bool
  | [] => true
  | [e] => e.2 != 0
  | e :: f :: t => e.2 != 0 && e.1 < f.1 && memWf (f :: t)

/-- The byte at an address. -/
def memGet (m : List Host.Cell) (a : Nat) : Byte := tabGet 0 m a

/-- Memory with the byte at an address set; a zero byte is not listed. -/
def memSet (m : List Host.Cell) (a : Nat) (b : Byte) : List Host.Cell := if b = 0 then tabDel m a else tabPut m a b

/-- n bytes from an address, little-endian. -/
def memRead (m : List Host.Cell) (a : Nat) : Nat → Nat
  | 0 => 0
  | n + 1 => (memGet m a).toNat + 256 * memRead m (a + 1) n

/-- n bytes of a number stored from an address, little-endian. -/
def memWrite (m : List Host.Cell) (a : Nat) : Nat → Nat → List Host.Cell
  | 0, _ => m
  | n + 1, v => memWrite (memSet m a (BitVec.ofNat 8 v)) (a + 1) n (v / 256)

/-- n bytes from an address, in order. -/
def memBytes (m : List Host.Cell) (a n : Nat) : List Byte := (List.range n).map (fun i => memGet m (a + i))

/-- Bytes stored from an address, in order. -/
def memPutBytes (m : List Host.Cell) (a : Nat) : List Byte → List Host.Cell
  | [] => m
  | b :: bs => memPutBytes (memSet m a b) (a + 1) bs

/-! ### Registers of a core -/

/-- x n; x0 reads 0 (R8). -/
def Arch.getX (a : Arch) (r : XReg) : Word := if r = 0 then 0 else a.x[r]

/-- x n written; a write to x0 is discarded (R8). -/
def Arch.setX (a : Arch) (r : XReg) (v : Word) : Arch := if r = 0 then a else { a with x := a.x.set r v }

/-- The count of a predicate; p0 reads VL / 8 (R9). -/
def Arch.getP (a : Arch) (r : PReg) : Nat := if r = 0 then Config.vlb else a.p[r].val

/-- A predicate written, at most VL / 8; a write to p0 is discarded (R9). -/
def Arch.setP (a : Arch) (r : PReg) (n : Nat) : Arch :=
  if r = 0 then a else { a with p := a.p.set r ⟨min n 256, by omega⟩ }

/-- Whether a vector register is live (R26). -/
def Arch.isLive (a : Arch) (r : VReg) : Bool := a.live.getLsbD r.val

/-- A vector register marked live or free. -/
def Arch.setLive (a : Arch) (r : VReg) (b : Bool) : Arch :=
  { a with live := if b then a.live ||| (1#32 <<< r.val) else a.live &&& ~~~(1#32 <<< r.val) }

/-- A vector register's contents written. -/
def Arch.setV (a : Arch) (r : VReg) (v : VWord) : Arch := { a with v := a.v.set r v }

/-- tsave.h (R23). -/
def Arch.inHandler (a : Arch) : Bool := a.tsave.getLsbD 0

/-- The stash size S in bytes: stash.cfg[2:0] in units of 64 KiB (12 R237). -/
def Arch.stashSize (a : Arch) : Nat := a.stashCfg.toNat % 8 * 0x10000

/-! ### Hardware loops (R20, R21) -/

/-- start of loop.n.cnt. -/
def loopStart (w : Word) : BitVec 16 := w.extractLsb' 48 16
/-- end of loop.n.cnt. -/
def loopEnd (w : Word) : BitVec 16 := w.extractLsb' 32 16
/-- reload of loop.n.cnt. -/
def loopReload (w : Word) : BitVec 16 := w.extractLsb' 16 16
/-- rem of loop.n.cnt. -/
def loopRem (w : Word) : BitVec 16 := w.extractLsb' 0 16
/-- loop.n.cnt with another rem. -/
def loopSetRem (w : Word) (r : BitVec 16) : Word := (w.extractLsb' 16 48) ++ r
/-- loop.n.cnt from its fields. -/
def loopWord (st en rel rem : BitVec 16) : Word := st ++ en ++ rel ++ rem

/-- The state after an instruction that did not branch: the next pc and the loop counts (R21). `len` is the
instruction's length in bytes. -/
def Arch.advance (a : Arch) (len : Nat) : Arch :=
  let npc := a.pc + BitVec.ofNat 16 len
  if a.inHandler then { a with pc := npc }
  else if loopRem a.loop0 != 0 && npc == loopEnd a.loop0 then
    let r0 := loopRem a.loop0 - 1
    if r0 != 0 then { a with loop0 := loopSetRem a.loop0 r0, pc := loopStart a.loop0 }
    else if loopRem a.loop1 != 0 && npc == loopEnd a.loop1 then
      let r1 := loopRem a.loop1 - 1
      { a with
        loop0 := loopSetRem a.loop0 (loopReload a.loop0)
        loop1 := loopSetRem a.loop1 r1
        pc := if r1 != 0 then loopStart a.loop1 else npc }
    else { a with loop0 := loopSetRem a.loop0 r0, pc := npc }
  else if loopRem a.loop1 != 0 && npc == loopEnd a.loop1 then
    let r1 := loopRem a.loop1 - 1
    { a with loop1 := loopSetRem a.loop1 r1, pc := if r1 != 0 then loopStart a.loop1 else npc }
  else { a with pc := npc }

/-! ### Chunks (13 R244 to R246) -/

/-- The last chunk of a core, if it is still open. -/
def Core.openChunk (k : Core) : Option Chunk :=
  match k.chunks.getLast? with
  | some c => if c.ended then none else some c
  | none => none

/-- Instructions of the current chunk completed so far: chunk.cnt. -/
def Core.chunkCnt (k : Core) : Nat :=
  match k.openChunk with
  | some c => c.n
  | none => 0

/-- The last chunk changed. -/
def Core.onLastChunk (k : Core) (f : Chunk → Chunk) : Core :=
  match k.chunks.reverse with
  | [] => k
  | c :: cs => { k with chunks := (f c :: cs).reverse }

/-- The operation an entry executes next: itself, or one operation of a VLOOP's current repetition, with its number. -/
def Entry.current (e : Entry) : Pushed × Nat :=
  match e.rep with
  | none => (e.op, 0)
  | some r => if r.j > r.times then (e.op, 0) else (r.body.getD r.i e.op, r.j)

/-- Elements of q0 that the operations of a list pop. -/
def popCount (ps : List Pushed) : Nat := (ps.filter (fun p => popsQ0 p.instr)).length

/-- Elements of q0 that an entry has still to pop. -/
def Entry.pops (e : Entry) : Nat :=
  match e.rep with
  | none => popCount [e.op]
  | some r => if r.j > r.times then 0 else popCount (r.body.drop r.i) + (r.times - r.j) * popCount r.body

/-- The chunk of the first of some entries that needs an element beyond the n that q0 holds: a later QPUSH must bring
it (14 R279). -/
def shortOf : Nat → List Entry → Option Nat
  | _, [] => none
  | n, e :: es => if n < e.pops then some e.chunk else shortOf (n - e.pops) es

/-- The chunk from which on the core's chunks wait for an element of q0 that is still to be pushed. -/
def Core.shortChunk (k : Core) : Option Nat := shortOf k.arch.q0.length k.seq

/-- Whether the last chunk's run goes on with the next chunk: an element that an entry of the run has popped is still to
be pushed, after the run was undone up to here (14 R279). -/
def Core.owes (k : Core) : Bool := !k.arch.owed.isEmpty

/-- The chunks with those joined to the next one whose entries wait for an element that it or a later one must push, or
have popped one already (14 R279). -/
def Core.joinedChunks (k : Core) : List Chunk :=
  let cs := match k.shortChunk with
    | none => k.chunks
    | some id => k.chunks.map (fun c => if id <= c.id then { c with run := true } else c)
  if k.owes then
    match cs.reverse with
    | [] => []
    | c :: r => ({ c with run := true } :: r).reverse
  else cs

/-- A chunk begun with the next instruction, unless one is open (R245); it forms one run with the chunks that wait for
what it may push (14 R279). -/
def Core.beginChunk (k : Core) : Core :=
  match k.openChunk with
  | some _ => k
  | none =>
    { k with
      chunks := k.joinedChunks ++ [⟨k.nextChunk, k.arch, 0, k.cutNext.map (·.1), false, false, [], [], [],
        (k.cutNext.map (·.2)).getD [], [], [], [], [], false⟩]
      nextChunk := k.nextChunk + 1
      cutNext := none
      await := false }

/-- Priority kept only with an uncommitted chunk that has it (R251). -/
def Core.keepPrio (k : Core) : Core :=
  { k with prioPc := k.prioPc.filter (fun pc => k.chunks.any (fun c => c.start.pc == pc)) }

/-- The open chunk ended; one that holds no instruction is dropped, and the priority that it had with it. -/
def Core.endChunk (k : Core) : Core :=
  Core.keepPrio (match k.openChunk with
    | none => k
    | some c => if c.n = 0 then { k with chunks := k.chunks.dropLast } else k.onLastChunk (fun c => { c with ended := true }))

/-- A run that still owes an element of q0 where it can go on no further is a conflict: it is squashed whole (14 R279).
-/
def Core.breakRun (k : Core) : Core :=
  if k.owes then k.onLastChunk (fun c => { c with conflict := true }) else k

/-! ### Signatures and the journal (13 R247, R248) -/

/-- The numbers of a list added to a set. -/
def addAll (xs set : List Nat) : List Nat := xs.foldl (fun t x => if t.contains x then t else t ++ [x]) set

/-- The 64-byte lines of n bytes from an address. -/
def linesOf (a n : Nat) : List Nat :=
  if n = 0 then [] else (List.range ((a + n - 1) / 64 - a / 64 + 1)).map (fun i => a / 64 + i)

/-- A chunk changed by its number. -/
def Core.onChunk (k : Core) (id : Nat) (f : Chunk → Chunk) : Core :=
  { k with chunks := k.chunks.map (fun c => if c.id = id then f c else c) }

/-- The chunks grouped into runs: `run` joins a chunk to the next (14 R279). -/
def runs : List Chunk → List (List Chunk)
  | [] => []
  | c :: cs =>
    match runs cs with
    | [] => [[c]]
    | r :: rs => if c.run then (c :: r) :: rs else [c] :: r :: rs

/-- The run that holds a chunk. -/
def runOf (id : Nat) (cs : List Chunk) : List Chunk := ((runs cs).find? (fun r => r.any (fun c => c.id = id))).getD []

/-- Global lines that a chunk has written. -/
def Chunk.wr (c : Chunk) : List Nat := (c.jrnl.filter (fun e => e.1 % 2 = 1)).map (·.1 / 2)

/-- Scratchpad lines that a chunk has written. -/
def Chunk.swr (c : Chunk) : List Nat := (c.jrnl.filter (fun e => e.1 % 2 = 0)).map (·.1 / 2)

/-- The journal entries of lines: scratchpad lines and global lines. -/
def journalKeys (sp gl : List Nat) : List Nat := sp.map (2 * ·) ++ gl.map (2 * · + 1)

/-- An entry of instruction n added to a journal: a line's lowest instruction counts. -/
def noteKey (n : Nat) (j : List (Nat × Nat)) (key : Nat) : List (Nat × Nat) :=
  if j.any (·.1 == key) then j.map (fun e => if e.1 == key then (key, min e.2 n) else e) else j ++ [(key, n)]

/-- Lines a chunk has read. -/
def Core.noteRead (k : Core) (id : Nat) (sp gl : List Nat) : Core :=
  k.onChunk id (fun c => { c with srd := addAll sp c.srd, rd := addAll gl c.rd })

/-- Lines that instruction n of a chunk has written: journal entries (R247), and a conflict where another agent has
written one since the chunk read it (R248, R257). -/
def Core.noteWrite (k : Core) (id n : Nat) (sp gl : List Nat) : Core :=
  k.onChunk id (fun c => { c with
    jrnl := (journalKeys sp gl).foldl (noteKey n) c.jrnl
    conflict := c.conflict || gl.any (fun l => c.newer.contains l) })

/-- The journal entries whose first writer is instruction m of a chunk. -/
def Core.keysOf (k : Core) (chunk m : Nat) : List Nat :=
  ((k.chunks.filter (fun ch => ch.id == chunk)).map (fun ch => (ch.jrnl.filter (fun j => j.2 = m)).map (·.1))).flatten

/-- Journal entries of the chunks of a run. -/
def runUse (r : List Chunk) : Nat := (r.map (·.jrnl.length)).foldl (· + ·) 0

/-- The instruction of a run, as chunk and number in it, that needs the entry after the first `room`. -/
def overAt : Nat → List Chunk → Option (Nat × Nat)
  | _, [] => none
  | room, c :: cs =>
    if c.jrnl.length <= room then overAt (room - c.jrnl.length) cs
    else ((List.range (c.n + 1)).find? (fun m => room < (c.jrnl.filter (fun e => e.2 <= m)).length)).map
      (fun m => (c.id, m))

/-- The instruction that needs a 257th journal entry in the run of a chunk: in program order, whenever the instructions
execute (R246, R247, 14 R279). -/
def Core.journalOver (k : Core) (id : Nat) : Option (Nat × Nat) := overAt 256 (runOf id k.chunks)

/-- Whether an instruction that needs a 257th entry waits at the start of its new chunk: the chunk before it is of a
run that is not yet committed (14 R279). -/
def Core.inRun (k : Core) (id : Nat) : Bool := 1 < (runOf id k.chunks).length || k.shortChunk.isSome || k.owes

/-- The open chunk ended by the journal, before an instruction that needs the entries `keys`. -/
def Core.cutHere (k : Core) (keys : List Nat) : Core :=
  match k.openChunk with
  | none => k
  | some c =>
    let w := k.inRun c.id
    { (if c.n = 0 then { k with chunks := k.chunks.dropLast }
      else k.onLastChunk (fun d => { d with ended := true, cut := some d.n, cutBy := keys })) with await := w }

/-- Whether a chunk that the journal ended was ended too early: an older entry that executed late writes a line that
the next instruction writes too (R247). -/
def Core.cutEarly (k : Core) (c : Chunk) : Bool :=
  c.cut == some c.n && !c.cutBy.isEmpty
  && runUse (runOf c.id k.chunks) + (c.cutBy.filter (fun e => !c.jrnl.any (·.1 == e))).length <= 256

/-- Whether a core runs with priority: the chunk that has it is uncommitted (R251). -/
def Core.prio (k : Core) : Bool :=
  match k.prioPc with
  | none => false
  | some pc => k.chunks.any (fun c => c.start.pc == pc)

/-! ### Instructions completed (R244, R246) -/

/-- The debugger's single step is over (11 R226). -/
def Core.stepped (k : Core) : Core := { k with dbg := { k.dbg with stepOne := false } }

/-- One more instruction completed: it counts toward the open chunk, which ends at chunk.lim (R244, R246), or where the
journal ends it (R247): then the next instruction waits for a run (14 R279). -/
def Core.countInstr (k : Core) : Core :=
  match k.openChunk with
  | none => k.stepped
  | some c =>
    let j := k.stepped.onLastChunk (fun d => { d with
      n := c.n + 1
      ended := c.n + 1 >= k.arch.chunkLim.toNat || c.cut == some (c.n + 1) })
    if c.cut == some (c.n + 1) then { j with await := k.inRun c.id } else j

/-- An instruction completed with its effects in `a` and sequential flow. -/
def Core.retire (k : Core) (a : Arch) : Core := Core.countInstr { k with arch := a.advance k.ilen }

/-- An instruction completed with its effects in `a` and a taken transfer (R21). -/
def Core.retireTo (k : Core) (a : Arch) (pc : BitVec 16) : Core := Core.countInstr { k with arch := { a with pc := pc } }

/-- The number of the open chunk; nextChunk where none is open. -/
def Core.curChunk (k : Core) : Nat :=
  match k.openChunk with
  | some c => c.id
  | none => k.nextChunk

/-! ### Cores of the machine -/

/-- The core of a number. -/
def coreOf (n : Nat) : CoreId := ⟨n % 4096, Nat.mod_lt _ (by decide)⟩

/-- A core. -/
def State.core (s : State) (c : CoreId) : Core := tabGet Core.initial s.cores c.val

/-- A core replaced. -/
def State.setCore (s : State) (c : CoreId) (k : Core) : State := { s with cores := tabPut s.cores c.val k }

/-- A core changed. -/
def State.onCore (s : State) (c : CoreId) (f : Core → Core) : State := s.setCore c (f (s.core c))

/-- The core whose instruction is executed. -/
def State.me (s : State) : Core := s.core s.turn

/-- That core replaced. -/
def State.setMe (s : State) (k : Core) : State := s.setCore s.turn k

/-- Register x n of the executing core. -/
def State.x (s : State) (r : XReg) : Word := s.me.arch.getX r

/-- The address of the instruction being executed. -/
def State.pc (s : State) : BitVec 16 := s.me.arch.pc

/-- The address after it. -/
def State.npc (s : State) : BitVec 16 := s.pc + BitVec.ofNat 16 s.me.ilen

/-- The state once the instruction has completed with its effects in `a` and sequential flow; a completion resets the
watchdog (19 R344). -/
def State.completed (s : State) (a : Arch) : State := s.setMe { s.me.retire a with progress := s.time }

/-- The state once the instruction has completed with its effects in `a` and a taken transfer. -/
def State.jumped (s : State) (a : Arch) (pc : BitVec 16) : State :=
  s.setMe { s.me.retireTo a pc with progress := s.time }

/-- The instruction completes with its effects in `a`. -/
def State.done (s : State) (a : Arch) : Out := .next (s.completed a)

/-- The instruction completes with a taken transfer. -/
def State.jump (s : State) (a : Arch) (pc : BitVec 16) : Out := .next (s.jumped a pc)

/-- The instruction completes and writes x d. -/
def State.doneX (s : State) (d : XReg) (v : Word) : Out := s.done (s.me.arch.setX d v)

/-- The pipeline stalls: nothing happens this time (R14, R93). -/
def State.stall (s : State) : Out := .next s

/-! ### Everything a remote change must reach -/

/-- A change that other agents or engines make to the restorable state of a core: it reaches the state and every
copy that a squash or a vector trap could restore (13 R250). -/
def Core.everywhere (k : Core) (f : Arch → Arch) : Core :=
  { k with
    arch := f k.arch
    seq := k.seq.map (fun e => { e with snap := f e.snap })
    chunks := k.chunks.map (fun c => { c with start := f c.start }) }

/-- The effects of the sequencer's oldest entry, which stands before every younger entry and before every chunk after
its own in program order. The entry's own copy stays: a trap of a later repetition restores it. -/
def Core.applyHead (k : Core) (chunk : Nat) (f : Arch → Arch) : Core :=
  { k with
    arch := f k.arch
    seq := match k.seq with
      | [] => []
      | e :: es => e :: es.map (fun e => { e with snap := f e.snap })
    chunks := k.chunks.map (fun c => if chunk < c.id then { c with start := f c.start } else c) }

/-- The scalar stores that follow an entry which has just completed come one entry closer, and those with no older entry
left take effect (01 R13). -/
def Arch.passEntry (a : Arch) : Arch :=
  { a with
    spad := (a.slog.filter (·.left <= 1)).foldl (fun m w => memPutBytes m w.addr w.bytes) a.spad
    slog := (a.slog.filter (1 < ·.left)).map (fun w => { w with left := w.left - 1 }) }

/-! ### Faults (19 R338 to R341) -/

/-- Freezes a core and hands Slate a fault record. -/
def State.raise (s : State) (c : CoreId) (cls : FaultClass) (place : Place) (addr : Word) (cause : Nat) : State :=
  let k := s.core c
  { s.setCore c { k with run := .frozen } with
    pendingFaults := s.pendingFaults ++ [⟨cls, place, addr, cause, c, k.part, k.launch⟩] }

/-- The executing core's access faults: every entry pushed before it completes first, for one of them may trap (R16),
and it has no effect. -/
def State.faultMe (s : State) (cls : FaultClass) (place : Place) (addr : Word) : Out :=
  if s.me.seq.isEmpty then .next (s.raise s.turn cls place addr 0) else s.stall

/-! ### Fault records (19 R340 to R342) -/

/-- A virtual function changed. -/
def State.onVf (s : State) (v : Fin 16) (f : Vf → Vf) : State := { s with vfs := s.vfs.set v (f s.vfs[v]) }

/-- The code of a fault class. -/
def FaultClass.code : FaultClass → Nat
  | .refusal => 0 | .translate => 1 | .violation => 2 | .memErr => 3
  | .link => 4 | .doubleTrap => 5 | .watchdog => 6 | .power => 7

/-- The code of `where`. -/
def Place.code : Place → Nat
  | .none => 0 | .global => 1 | .core => 2 | .accStore => 3 | .istore => 4 | .vecReg => 5 | .idCore => 6 | .pc => 7

/-- The fault record of a detection. -/
def faultRecord (d : Detected) (seq : Word) (launch : Nat) (pkg : Nat) (sec : Bool) : Record :=
  BitVec.ofNat 256 (seq.toNat * 2 ^ 192 + d.addr.toNat * 2 ^ 128 + launch % 2 ^ 32 * 2 ^ 96 + d.place.code * 2 ^ 88
    + d.cause % 256 * 2 ^ 80 + pkg * 2 ^ 44 + d.core.val * 2 ^ 32 + b2n sec * 16 + d.cls.code)

/-- A record added to a function's fault log of 256 records. -/
def State.logRecord (s : State) (vf : Fin 16) (r : Record) : State :=
  s.onVf vf (fun v => { v with log := newest 256 (v.log ++ [r]) })

/-- A detection logged without an event: against its partition's function, or in Slate's own log (R342, R343). -/
def State.logOnly (s : State) (d : Detected) : State :=
  let r := faultRecord d 0 (d.launch.getD 0) s.pkg.val false
  match d.part.bind (tabFind s.parts) with
  | none => { s with slateLog := s.slateLog ++ [r] }
  | some p => s.logRecord p.vf r

/-- An access that was refused and raised no fault, as the fault log of its core's partition records it (R342). -/
def State.logRefusal (s : State) (c : CoreId) (place : Place) (addr : Word) : State :=
  s.logOnly ⟨.refusal, place, addr, 0, c, (s.core c).part, (s.core c).launch⟩

/-! ### Taking a trap, and returning from one (R22 to R25) -/

/-- A core's state after trap entry: `ret` is tpc, `a` the state the trap interrupts. -/
def Arch.enterTrap (a : Arch) (ret : BitVec 16) (t : Trap) : Arch :=
  { a with
    tpc := ret.setWidth 64
    tcause := BitVec.ofNat 64 t.cause.code
    tval := t.tval
    tsave := 1
    pc := a.tvec.setWidth 16
    owed := []
    pushes := 0
    redo := none }

/-- What a trap leaves behind beside its entry: GATEERR is a store refused with an error response, which is recorded (19
R342, 20 R365). -/
def State.noteRefused (s : State) (c : CoreId) (t : Trap) : State :=
  if t.cause == .gateerr then s.logRefusal c .global t.tval else s

/-- Trap entry of a core, or the DOUBLETRAP fault (R24, R339): `at_` is the address of the trapping instruction. -/
def State.enterTrap (s : State) (c : CoreId) (at_ ret : BitVec 16) (t : Trap) : State :=
  let s := s.noteRefused c t
  let k := s.core c
  if k.arch.inHandler || k.arch.tvec == 0 then s.raise c .doubleTrap .pc (at_.setWidth 64) t.cause.code
  else s.setCore c { k.breakRun.endChunk.stepped with arch := k.arch.enterTrap ret t }

/-- The executing instruction traps: every entry pushed before it completes first (R16), and it has no effect. -/
def State.takeTrap (s : State) (t : Trap) : Out :=
  if s.me.seq.isEmpty then .next (s.enterTrap s.turn s.pc s.pc t) else s.stall

/-- The executing instruction traps with a cause and a value. -/
def State.trap (s : State) (c : Cause) (v : Word) : Out := s.takeTrap ⟨c, v⟩

/-- BREAK and SWTRAP: the instruction counts as completed, and tpc is the address after it (R22). DESIGN CHOICE (log
21): as the last instruction of a loop body too, tpc is the plain next address and no loop count changes; R22 and R21
leave open whether the loop's step is taken first. -/
def State.trapAfter (s : State) (c : Cause) (v : Word) : Out :=
  if s.me.seq.isEmpty then
    .next ((s.setMe { s.me.countInstr with progress := s.time }).enterTrap s.turn s.pc s.npc ⟨c, v⟩)
  else s.stall

/-- The word whose fetch names an instruction in ILLEGAL traps raised by its meaning (R66): its base word. -/
def State.baseWord (s : State) : Word :=
  BitVec.ofNat 64
    ((memGet s.me.istore ((s.npc - 2).toNat)).toNat + 256 * (memGet s.me.istore ((s.npc - 1).toNat)).toNat)

/-- ILLEGAL with the base word. -/
def State.illegal (s : State) : Out := s.trap .illegal s.baseWord

/-- Return from a trap (R25). A return to a VLOOP that trapped in a repetition finds its entries as they were pushed
before it, so that it runs all its repetitions again (06 R142). -/
def Arch.leaveTrap (a : Arch) : Arch :=
  let b := { a with pc := a.tpc.setWidth 16, tsave := 0, redo := none }
  match a.redo with
  | none => b
  | some (pc, recent, pushes) => if pc = b.pc then { b with recent := recent, pushes := pushes } else b

end Sys2Proof.Machine
end

