-- ==== Sys2Proof/Machine/Operands.lean ====
section
/-!
DEFINITION. The operand forms: local addresses and their checks (01 R11, R12, 05 R102, 12 R229), the operations
pending in the vector sequencer (01 R13), scalar stores, core addresses (09 R197), fat-pointer addresses (12 R230, 14 R268).
-/

namespace Sys2Proof

/-- Bytes of an access size. -/
def Size.bytes : Size → Nat
  | .byte => 1 | .half => 2 | .word => 4 | .dword => 8

end Sys2Proof

namespace Sys2Proof.Machine

/-! ### Local addresses -/

/-- First byte of the spill window (R12). -/
def spillBase : Nat := 0x7E000

/-- The local address of an M form: a[55:0] plus the scaled offset (R102). -/
def localEa (a : Word) (off : Int) (n : Nat) : Int := (ptrAddr a : Int) + off * n

/-- The bounds of a local access of n bytes: 0 to 0x7_FFFF, outside the spill window, not below the stash. The tval
is the lowest offending offset. -/
def boundTrap (stash : Nat) (ea : Int) (n : Nat) : Option Trap :=
  if ea < 0 || ea + n - 1 > 0x7FFFF then some ⟨.localbound, wordOfInt ea⟩
  else if ea < stash then some ⟨.localbound, wordOfInt ea⟩
  else if ea + n - 1 >= spillBase then some ⟨.localbound, wordOfInt (max ea spillBase)⟩
  else none

/-- The checks of a scalar local access: ALIGN before LOCALBOUND (R102). -/
def localTrap (stash : Nat) (ea : Int) (n : Nat) : Option Trap :=
  if ea % n != 0 then some ⟨.align, wordOfInt ea⟩ else boundTrap stash ea n

/-! ### Addresses of the vector memory instructions (06 R137 to R142) -/

/-- Bytes of an element; 0 for 4-bit types. -/
def elemBytes (f : Fmt) : Nat := f.width / 8

/-- The byte distance of element i from element 0 in a consecutive row (R29, R138). -/
def elemOff (f : Fmt) (i : Nat) : Nat := i * f.width / 8

/-- The base of a memory entry in a repetition (R142). -/
def unitBase (p : Pushed) (slot : Int) (j : Nat) : Int := localEa p.xa slot 256 + (256 * j : Nat)

/-- The address of a strided element (R139, R142). -/
def strideAddr (p : Pushed) (f : Fmt) (j i : Nat) : Int :=
  localEa p.xa 0 1 + p.xb.toInt * ((j * f.lanes + i : Nat) : Int)

/-- The address of an indexed element (R140, R142). -/
def indexAddr (a : Arch) (p : Pushed) (o : VIdx) (j i : Nat) : Int :=
  unitBase p 0 j + (lane a.v[o.b] o.ty.width i * elemBytes o.ty : Nat)

/-! ### Pending vector operations (R13, R142) -/

/-- The operations that an entry has still to execute, each with its repetition. -/
def Entry.pendingOps (e : Entry) : List (Pushed × Nat) :=
  match e.rep with
  | none => [(e.op, 0)]
  | some r =>
    if r.j > r.times then []
    else (r.body.drop r.i).map (·, r.j)
      ++ ((List.range (r.times - r.j)).map (fun t => r.body.map (·, r.j + 1 + t))).flatten

/-! ### Core addresses (09 R197) -/

/-- core [30:19] of a core address. -/
def addrCore (a : Word) : CoreId := ⟨bits a.toNat 19 12, Nat.mod_lt _ (by decide)⟩
/-- offset [18:0] of a core address. -/
def addrOffset (a : Word) : Nat := bits a.toNat 0 19

/-- The checks of a core address for a word of n bytes, made before anything leaves the core (R197, 14 R271). -/
def coreAddrTrap (a : Word) (n : Nat) : Option Trap :=
  if addrOffset a % n != 0 then some ⟨.align, a⟩
  else if addrOffset a + n - 1 > 0x7DFFF then some ⟨.localbound, a⟩
  else none

/-- The core address of a byte of a core's scratchpad. -/
def coreAddr (c : CoreId) (offset : Nat) : Word := BitVec.ofNat 64 (c.val * 0x80000 + offset)

/-! ### Local accesses -/

/-- The first dword of [ea, ea + n) that reads as an uncorrectable error (21 R374). -/
def Core.poisoned (k : Core) (ea n : Nat) : Option Nat :=
  k.poison.find? (fun d => ea < d * 8 + 8 && d * 8 < ea + n)

/-- Poison left after a write of [ea, ea + n): a write of the whole dword restores it (R374). -/
def clearPoison (ps : List Nat) (ea n : Nat) : List Nat := ps.filter (fun d => !(ea <= d * 8 && d * 8 + 8 <= ea + n))

/-- Poison left after bytes have been written together: dwords whole among them lose it (R374). -/
def clearMemPoison (ps : List Nat) (as : List Nat) : List Nat :=
  ps.filter (fun d => !(List.range 8).all (fun i => as.contains (d * 8 + i)))

/-- n bytes of a number, lowest first. -/
def numBytes (n v : Nat) : List Byte := (List.range n).map (fun i => BitVec.ofNat 8 (v / 256 ^ i))

/-- An instruction that needs a 257th journal entry: its chunk ends before it (13 R247), or it waits for the run
(14 R279). `keys` are the entries it needs. -/
def State.truncate (s : State) (keys : List Nat) : Out := .next (s.setMe (s.me.cutHere keys))

/-- A scalar store of n bytes: done at once, or behind the entries that are pending in the sequencer (R13). -/
def Core.storeLocal (k : Core) (ea n v : Nat) : Core :=
  if k.seq.isEmpty then
    { k with arch := { k.arch with spad := memWrite k.arch.spad ea n v }, poison := clearPoison k.poison ea n }
  else { k with arch := { k.arch with slog := k.arch.slog ++ [⟨k.seq.length, ea, numBytes n v⟩] } }

/-- A local write by the executing core at a checked address; `f` continues with the written state. A pending entry
never holds it up (R18). -/
def State.localWrite (s : State) (ea n v : Nat) (f : State → Out) : Out :=
  let k := s.me.noteWrite s.me.curChunk s.me.chunkCnt (linesOf ea n) []
  if (k.journalOver s.me.curChunk).isSome then s.truncate (journalKeys (linesOf ea n) [])
  else f (s.setMe (k.storeLocal ea n v))

end Sys2Proof.Machine
end

