-- ==== Sys2Proof/Machine/Flags.lean ====
section
/-!
DEFINITION. The flag computations: amax and amaxf (02 R46, R47), which every converting instruction updates from its
source elements, and the ranges of conversions to 64-bit integers (05 R111).
-/

namespace Sys2Proof.Machine

/-- amax and amaxf after a converting instruction's contribution. -/
def Arch.noteAmax (a : Arch) (d : AmaxDelta) : Arch :=
  { a with amax := amaxUpdate a.amax d, amaxf := amaxfUpdate a.amaxf d }

/-- The range of CVTFI's result: unsigned or signed 64-bit (R111). -/
def wordRange (u : Bool) : Int × Int := if u then (0, 2 ^ 64 - 1) else (-2 ^ 63, 2 ^ 63 - 1)

/-- CVTFI: the integer and its contribution to amax and amaxf (R111). -/
def cvtToInt (f : Fmt) (u : Bool) (rm : RMode) (a : Nat) : Word × AmaxDelta :=
  let v := f.value a
  let c := convToRange rm (wordRange u).1 (wordRange u).2 v
  (wordOfInt c.1, AmaxDelta.ofElem v c.2)

/-- CVTIF: the code and its contribution (R111). -/
def cvtFromInt (f : Fmt) (u : Bool) (rm : RMode) (a : Word) : Word × AmaxDelta :=
  let v := Num.ofInt (if u then (a.toNat : Int) else a.toInt)
  let c := f.convFloat rm false v
  (BitVec.ofNat 64 c.val, AmaxDelta.ofElem v c.sat)

/-- CVTFF: the code and its contribution (R111, R37). -/
def cvtFloat (f dst : Fmt) (sat : Bool) (rm : RMode) (a : Nat) : Word × AmaxDelta :=
  let v := f.value a
  let c := dst.convFloat rm sat v
  (BitVec.ofNat 64 c.val, AmaxDelta.ofElem v c.sat)

end Sys2Proof.Machine
end

