-- ==== Sys2Proof/Machine/Global.lean ====
section
/-!
DEFINITION. Global memory: physical addresses and the page-table walk (12 R230 to R236), the checks of a global access
(14 R268), the pending lines of a core's own chunks (13 R247) and the writes of other agents (R248).
-/

namespace Sys2Proof.Machine

/-! ### The grid (08 R167, R168, R175) -/

/-- Rows of a buddy node of an order. -/
def nodeRows (k : Nat) : Nat := 2 * 2 ^ ((k + 1) / 2)
/-- Columns of a buddy node of an order. -/
def nodeCols (k : Nat) : Nat := 4 * 2 ^ (k / 2)

/-- x of id.core (R167). -/
def CoreId.col (c : CoreId) : Nat := c.val % 64
/-- y of id.core. -/
def CoreId.row (c : CoreId) : Nat := c.val / 64
/-- The die of a core (R167). -/
def dieOf (c : CoreId) : Nat := CoreId.row c / 32 * 2 + CoreId.col c / 32
/-- The cluster of a core (R168). -/
def clusterOf (c : CoreId) : Nat := CoreId.row c / 2 * 16 + CoreId.col c / 4
/-- A core's slot in its cluster (R168). -/
def slotOf (c : CoreId) : Nat := CoreId.row c % 2 * 4 + CoreId.col c % 4

/-! ### Physical memory (R231, R232) -/

/-- Whether a physical address names a populated location of a package of the domain. -/
def State.populated (s : State) (pa : Nat) : Bool :=
  let loc := bits pa 0 42
  s.domain.any (fun p => p.val == bits pa 45 7)
  && bits pa 42 2 == 0
  && (if bit pa 44 then
        bits loc 38 4 < 12 && bits loc 0 38 < tabGet 0 s.cxl (bits pa 45 7 * 16 + bits loc 38 4)
      else bits loc 39 3 == 0 && bits loc 0 37 < 0x1800000000)

/-- The die of a package that is a line's home. -/
def homeDie (pa : Nat) : Nat := if bit pa 44 then bits pa 38 4 / 3 else bits pa 37 2

/-! ### The walk (R234, R235) -/

/-- Index bits of a level: position and width. -/
def levelIndex (va lvl : Nat) : Nat :=
  match lvl with
  | 4 => bits va 48 7
  | 3 => bits va 39 9
  | 2 => bits va 30 9
  | 1 => bits va 21 9
  | _ => bits va 16 5

/-- The page size at a level. -/
def levelSize (lvl : Nat) : Nat := if lvl = 2 then 2 ^ 30 else if lvl = 1 then 2 ^ 21 else 2 ^ 16

/-- What a walk ends in: a page base, its size and its nc bit, or a fault class. -/
structure Leaf where
  base : Nat
  size : Nat
  w : Bool
  nc : Bool
  deriving DecidableEq, Repr

/-- Whether n bytes of memory hold a poisoned dword (21 R374, 19 R343). -/
def State.memBad (s : State) (pa n : Nat) : Bool := s.memPoison.any (fun d => pa < d * 8 + 8 && d * 8 < pa + n)

/-- The walk from level `lvl - 1` down, at a table; an uncorrectable entry is a MEMERR (19 R343). -/
def State.walk (s : State) (va t : Nat) : Nat → Except FaultClass Leaf
  | 0 => .error .translate
  | lvl + 1 =>
    let at_ := t + 8 * levelIndex va lvl
    let e := memRead s.mem at_ 8
    if s.memBad at_ 8 then .error .memErr
    else if !bit e 0 || bits e 52 12 != 0 || bits e 4 8 != 0 then .error .translate
    else if !bit e 1 then (if lvl = 0 then .error .translate else s.walk va (bits e 12 40 * 4096) lvl)
    else if lvl > 2 then .error .translate
    else
      let base := bits e 12 40 * 4096
      let size := levelSize lvl
      if base % size != 0 || !s.populated base then .error .translate
      else .ok ⟨base, size, bit e 2, bit e 3⟩

/-! ### What Slate maps itself (16 R324, 20 R360, R362) -/

/-- First address of the device-information page (16 R324). -/
def devPageVa : Nat := 0x7FFFFFFFFF0000

/-- Where the model keeps that page: above every physical address (log 9). -/
def devPagePa : Nat := 2 ^ 52

/-- Byte i of the device-information page. -/
def State.devByte (s : State) (i : Nat) : Byte :=
  if h : i < 10 then BitVec.ofNat 8 s.rampUp[i].val
  else if h2 : 16 <= i ∧ i < 26 then BitVec.ofNat 8 s.rampDown[i - 16].val
  else 0

/-- First address of the gate region (20 R360). -/
def gateRegion : Nat := 0x7FFFFE00000000

/-- Whether an address lies in the gate region. -/
def inGateRegion (va : Nat) : Bool := gateRegion <= va && va < gateRegion + 128 * 0x10000

/-- Bytes of a window of a size code (20 R370). -/
def winBytes (code : Nat) : Nat := if code = 0 then 0 else 2 ^ (15 + code)

/-- A gate's window as one partition sees it. -/
structure Win where
  gate : Nat
  va : Nat
  size : Nat
  base : Nat
  w : Bool
  state : GateState
  deriving DecidableEq, Repr

/-- The access-list entry of a partition, with its number. -/
def Gate.slotFor (g : Gate) (part : Nat) : Option (Nat × GateSlot) :=
  ((List.range g.slots.length).zip g.slots).find? (fun e => e.2.entry.v && e.2.entry.part == part)

/-- A gate's window mapped into a partition: only where its entry has rd, while the gate is neither UNSET nor CLOSED. -/
def Gate.winFor (g : Gate) (key part : Nat) : Option Win :=
  match g.window, g.slotFor part with
  | some w, some (_, sl) =>
    if !sl.entry.rd || g.state == .unset || g.state == .closed then none
    else (tabFind w.maps part).map (fun va => ⟨key, va, winBytes w.size.val, w.base, sl.entry.wr, g.state⟩)
  | _, _ => none

/-- The windows mapped into a partition. -/
def State.windows (s : State) (part : Option Nat) : List Win :=
  match part with
  | none => []
  | some p => s.gates.filterMap (fun e => e.2.winFor e.1 p)

/-- The window that holds an address. -/
def State.winAt (s : State) (part : Option Nat) (va : Nat) : Option Win :=
  (s.windows part).find? (fun w => w.va <= va && va < w.va + w.size)

/-- Whether one window holds all of n bytes (14 R268). -/
def State.inWindow (s : State) (part : Option Nat) (va n : Nat) : Bool :=
  (s.windows part).any (fun w => w.va <= va && va + n <= w.va + w.size)

/-- GATEERR for stores, given as (global address, bytes), of which a gate in ERROR refuses one: tval is the first
refused byte (20 R365). -/
def State.gateStoreTrap (s : State) (part : Option Nat) (as : List (Nat × Nat)) : Option Trap :=
  (as.find? (fun a => match s.winAt part a.1 with
    | some w => w.state == .error
    | none => false)).map (fun a => ⟨.gateerr, BitVec.ofNat 64 a.1⟩)

/-- Whether an access stalls until a gate's cutover (20 R365). -/
def State.gateStall (s : State) (part : Option Nat) (as : List (Nat × Nat)) : Bool :=
  as.any (fun a => match s.winAt part a.1 with
    | some w => w.state == .migrating
    | none => false)

/-- Whether a line lies in a window. -/
def inWindowSpec (w : Option WindowSpec) (line : Nat) : Bool :=
  match w with
  | none => false
  | some w => w.base / 64 <= line && line < (w.base + winBytes w.size.val) / 64

/-- Whether a line lies in a gate's window. -/
def State.inGateWindow (s : State) (gate line : Nat) : Bool := inWindowSpec ((tabFind s.gates gate).bind (·.window)) line

/-- Whether a line lies in the window of some gate. -/
def State.inAnyWindow (s : State) (line : Nat) : Bool := s.gates.any (fun e => inWindowSpec e.2.window line)

/-- Index bits of a level of the page table. -/
def levelWidth (lvl : Nat) : Nat := if lvl = 4 then 7 else if lvl = 0 then 5 else 9

/-- The lowest address of one index step of a level. -/
def levelShift (lvl : Nat) : Nat := if lvl = 4 then 48 else if lvl = 3 then 39 else if lvl = 2 then 30 else if lvl = 1 then 21 else 16

/-- The first partition-virtual address that a table maps to a physical one. -/
def State.findVa (s : State) (pa t va : Nat) : Nat → Option Nat
  | 0 => none
  | lvl + 1 =>
    (List.range (2 ^ levelWidth lvl)).findSome? (fun i =>
      let e := memRead s.mem (t + 8 * i) 8
      let base := bits e 12 40 * 4096
      let v := va + i * 2 ^ levelShift lvl
      if !bit e 0 || bits e 52 12 != 0 || bits e 4 8 != 0 then none
      else if !bit e 1 then (if lvl = 0 then none else s.findVa pa base v lvl)
      else if lvl <= 2 && base % levelSize lvl == 0 && base <= pa && pa < base + levelSize lvl then some (v + (pa - base))
      else none)

/-- The global address at which a partition maps a physical one, in its table or by a gate's window. -/
def State.mapsTo (s : State) (id : Nat) (p : Part) (pa : Nat) : Option Nat :=
  match (s.windows (some id)).find? (fun w => w.base <= pa && pa < w.base + w.size) with
  | some w => some (w.va + (pa - w.base))
  | none => s.findVa pa p.root 0 5

/-- A cached translation of a cluster (R236). -/
def State.cachedFor (s : State) (c : CoreId) (part va : Nat) : Option Cached :=
  s.tlb.find? (fun e => e.cluster.val == clusterOf c && e.part == part && e.page <= va && va < e.page + e.size)

/-- What maps an address of a partition: the device page, a gate's window, or the page table (R235, 16 R324, 20 R360,
R362). -/
def State.leafFor (s : State) (id : Nat) (p : Part) (va : Nat) : Except FaultClass Leaf :=
  if va >= 2 ^ 55 || inGateRegion va then .error .translate
  else if va >= devPageVa then .ok ⟨devPagePa, 2 ^ 16, false, false⟩
  else match s.winAt (some id) va with
    | some w => .ok ⟨w.base, w.size, w.w, false⟩
    | none => s.walk va p.root 5

/-- The leaf that an access of a core uses. A cached entry may serve in place of the page table's until its invalidation
completes (R236, log 16). -/
def State.leafOf (s : State) (c : CoreId) (id : Nat) (p : Part) (va : Nat) : Except FaultClass Leaf :=
  let cached := if va >= devPageVa || inGateRegion va || (s.winAt (some id) va).isSome then none
    else (s.cachedFor c id va).filter (fun _ => Config.usesCached s.fresh)
  match cached with
  | some e => .ok ⟨e.base, e.size, e.w, e.nc⟩
  | none => s.leafFor id p va

/-- The leaf of a partition's access, if it has one. -/
def State.leafAt (s : State) (c : CoreId) (part : Option Nat) (va : Nat) : Except FaultClass Leaf :=
  match part with
  | none => .error .translate
  | some id =>
    match tabFind s.parts id with
    | none => .error .translate
    | some p => s.leafOf c id p va

/-- The translation of a global address for a core's partition: a physical address, or the class of the fault (R235). -/
def State.translate (s : State) (c : CoreId) (part : Option Nat) (va : Nat) (w : Bool) : Except FaultClass Nat :=
  match s.leafAt c part va with
  | .error f => .error f
  | .ok l => if w && !l.w then .error .violation else .ok (l.base + va % l.size)

/-- Whether an access's page is never allocated in a near cache (R233, R235). -/
def State.noNear (s : State) (c : CoreId) (part : Option Nat) (va : Nat) : Bool :=
  match s.leafAt c part va with
  | .error _ => true
  | .ok l => l.nc

/-- Whether the debugger is attached to a core's partition (17 R328, 21 R374). -/
def State.attachedTo (s : State) (c : CoreId) : Bool :=
  match (s.core c).part.bind (tabFind s.parts) with
  | some p => p.attached
  | none => false

/-! ### Lines in stashes that are uncorrectable (19 R343) -/

/-- Whether the line of a physical address is uncorrectable where its home serves it, as a whole (12 R239): in the copy
of a core that supplies it, or at home (12 R240). -/
def State.homeBad (s : State) (pa : Nat) : Bool :=
  match s.stash.find? (fun l => l.line == pa / 64 && l.st != .s) with
  | some l => l.bad
  | none => s.memBad (pa / 64 * 64) 64

/-- Whether a read by a core of the line of a physical address meets an uncorrectable word: in its journal entry, in its
stash, or in the line as a fill reads it (12 R239, 13 R247). -/
def State.readBad (s : State) (c : CoreId) (pa : Nat) : Bool :=
  let k := s.core c
  let line := pa / 64
  if k.chunks.any (fun ch => ch.wr.contains line) then k.errs.jrnl.contains (2 * line + 1)
  else match s.stash.find? (fun l => l.core == c && l.line == line) with
    | some l => l.bad
    | none => s.homeBad pa

/-- Whether a core's store meets an uncorrectable word: in the line that it must fill first, which neither its journal
nor its stash holds (12 R239, R240). -/
def State.fillBad (s : State) (c : CoreId) (pa : Nat) : Bool :=
  let line := pa / 64
  !(s.core c).chunks.any (fun ch => ch.wr.contains line)
  && !s.stash.any (fun l => l.core == c && l.line == line)
  && s.homeBad pa

/-- The faults of an uncorrectable line found at a physical address, on behalf of a core: a MEMERR of every partition
that maps it, at its global address; where none does, an entry of class 0 for Slate's own log (19 R343). -/
def State.lineFaults (s : State) (c : CoreId) (pa : Nat) : List Detected :=
  match s.parts.filterMap (fun e => (s.mapsTo e.1 e.2 pa).map (fun va => (e.1, va))) with
  | [] => [⟨.refusal, .none, BitVec.ofNat 64 pa, 0, c, none, none⟩]
  | hs => hs.map (fun h => ⟨.memErr, .global, BitVec.ofNat 64 h.2, 0, c, some h.1,
      (s.launches.find? (fun l => l.2.part == h.1 && l.2.state == .running)).map (·.1)⟩)

/-- Modified lines written home: the home holds correct words then; an uncorrectable line is a fault of the partitions
that map it, and its contents are lost (19 R343, log 23). -/
def State.writeBacks (s : State) (ls : List StashLine) : State :=
  let ms := ls.filter (fun l => l.st == .m)
  let dwords := fun (b : Bool) => ((ms.filter (fun l => l.bad == b)).map (fun l => (List.range 8).map (8 * l.line + ·))).flatten
  { s with
    memPoison := addAll (dwords true) (s.memPoison.filter (fun d => !(dwords false).contains d))
    pendingFaults := s.pendingFaults ++ ((ms.filter (·.bad)).map (fun l => s.lineFaults l.core (64 * l.line))).flatten }

/-- The stash lines that pass a test stay; the others are invalidated, modified ones after a write-back (12 R240). -/
def State.keepLines (s : State) (f : StashLine → Bool) : State :=
  { s.writeBacks (s.stash.filter (fun l => !f l)) with stash := s.stash.filter f }

/-! ### A core's view of memory -/

/-- The superseded contents of a line that a core may still read, oldest first: no later value is visible in its die,
by a write or a read of one of the die's cores, as the line's home, or through an acquire (R255, R256). A line of a
gate's window has none: every access acts at its home (20 R362). -/
def State.staleFor (s : State) (c : CoreId) (pa : Nat) : List Stale :=
  if s.inAnyWindow (pa / 64) then [] else s.stale.filter (fun e => e.line == pa / 64 && !e.dies.contains (dieOf c))

/-- The superseded contents that a load returns, by the line's free value of the step: none for the newest, and for a
core that runs with priority (R251). -/
def State.stalePick (s : State) (c : CoreId) (pa : Nat) : Option Stale :=
  if (s.core c).prio then none
  else (s.staleFor c pa)[Config.staleChoice s.fresh (pa / 64) % ((s.staleFor c pa).length + 1)]?

/-- A byte of physical memory, or of the device-information page. -/
def State.physByte (s : State) (pa : Nat) : Byte :=
  if pa >= devPagePa then s.devByte (pa - devPagePa) else memGet s.mem pa

/-- Whether a pending byte was written at or before an instruction of the core, given as chunk and number in it. -/
def GByte.upTo (g : GByte) (at_ : Nat × Nat) : Bool := g.chunk < at_.1 || (g.chunk == at_.1 && g.n <= at_.2)

/-- A pending byte put in its place in program order. -/
def putPending (g : GByte) : List GByte → List GByte
  | [] => [g]
  | h :: t => if h.upTo (g.chunk, g.n) then h :: putPending g t else g :: h :: t

/-- Pending bytes added in their places, in order. -/
def addPending (gs new : List GByte) : List GByte := new.foldl (fun t g => putPending g t) gs

/-- The core's own latest pending write of a byte up to an instruction (R247). -/
def Arch.ownByte (a : Arch) (at_ : Nat × Nat) (pa : Nat) : Option Byte :=
  (a.gwrites.reverse.find? (fun g => g.pa == pa && g.upTo at_)).map (·.val)

/-- The byte that instruction `at_` of a core reads: its own latest pending write, or memory (R247); a superseded value
where R256 allows it and the free value says so (log 12). -/
def State.gByte (s : State) (c : CoreId) (a : Arch) (at_ : Nat × Nat) (pa : Nat) : Byte :=
  match a.ownByte at_ pa with
  | some b => b
  | none =>
    match s.stalePick c pa with
    | none => s.physByte pa
    | some e => e.old.extractLsb' (pa % 64 * 8) 8

/-- n bytes, little-endian. -/
def State.gRead (s : State) (c : CoreId) (a : Arch) (at_ : Nat × Nat) (pa : Nat) : Nat → Nat
  | 0 => 0
  | n + 1 => (s.gByte c a at_ pa).toNat + 256 * s.gRead c a at_ (pa + 1) n

/-- The byte an atomic reads: the newest one (12 R239). -/
def State.gByteNow (s : State) (a : Arch) (at_ : Nat × Nat) (pa : Nat) : Byte := (a.ownByte at_ pa).getD (s.physByte pa)

/-- n bytes that an atomic reads. -/
def State.gReadNow (s : State) (a : Arch) (at_ : Nat × Nat) (pa : Nat) : Nat → Nat
  | 0 => 0
  | n + 1 => (s.gByteNow a at_ pa).toNat + 256 * s.gReadNow a at_ (pa + 1) n

/-- n bytes of a number as pending writes of instruction m of a chunk. -/
def pendingBytes (chunk m pa : Nat) : Nat → Nat → List GByte
  | 0, _ => []
  | n + 1, v => ⟨chunk, m, pa, BitVec.ofNat 8 v⟩ :: pendingBytes chunk m (pa + 1) n (v / 256)

end Sys2Proof.Machine
end

