-- ==== Sys2Proof/Machine/Order.lean ====
section
/-!
DEFINITION. Which writes are visible where (13 R255 to R261): scopes and their instances, a newer value that becomes
visible in a die, releases that cover writes, and acquires.
-/

namespace Sys2Proof

/-- Whether a scope reaches beyond a die: there alone orders are left to make (R255). -/
def Scope.wide : Scope → Bool
  | .core | .clus | .die => false
  | _ => true

end Sys2Proof

namespace Sys2Proof.Machine

/-! ### Scopes (R253, R254, R261) -/

/-- Whether a gate lists a partition. -/
def State.gateLists (s : State) (gate : Option Nat) (part : Option Nat) : Bool :=
  match gate.bind (tabFind s.gates), part with
  | some g, some p => (g.slotFor p).isSome
  | _, _ => false

/-- Whether core d, of partition q, lies in the instance of a scope that holds core c, of partition p. SYS acts as PART;
GATE names a gate (R253, R254). -/
def State.inScope (s : State) (c : CoreId) (p : Option Nat) (sc : Scope) (gate : Option Nat) (d : CoreId)
    (q : Option Nat) : Bool :=
  match sc with
  | .core => c == d
  | .clus => clusterOf c == clusterOf d
  | .die => dieOf c == dieOf d
  | .pkg => true
  | .part | .sys => p == q
  | .gate => s.gateLists gate q

/-- The covering scope of two cores of a package (R261). -/
def covering (c d : CoreId) : Scope :=
  if c = d then .core else if clusterOf c = clusterOf d then .clus else if dieOf c = dieOf d then .die else .pkg

/-- The scope of a barrier setting (R261). -/
def settingScope (st : Nat) : Scope :=
  if st = 10 then .core else if st = 11 then .part else if st = 0 then .clus else if st <= 7 then .die else .pkg

/-- The scope of a node order (R261). -/
def orderScope (order : Nat) : Scope := if order = 0 then .clus else if order <= 7 then .die else .pkg

/-- The gate whose window, as a core's partition sees it, holds an address. -/
def State.windowGate (s : State) (c : CoreId) (va : Nat) : Option Nat := (s.winAt (s.core c).part va).map (·.gate)

/-! ### A newer value becomes visible in a die (R255, R256) -/

/-- Superseded lines changed where a test holds of them or of a later value of the same line, and the lines concerned.
-/
def showFrom (f : Stale → Bool) (g : Stale → Stale) : List Stale → List Stale × List Nat
  | [] => ([], [])
  | e :: es =>
    let r := showFrom f g es
    if f e || r.2.contains e.line then (g e :: r.1, e.line :: r.2) else (e :: r.1, r.2)

/-- Whether some die may still read a superseded line. -/
def Stale.readable (e : Stale) : Bool := !(List.range 4).all (fun d => e.dies.contains d)

/-- Lines of which a chunk has read an older value than the one now visible in its die (R255). -/
def Core.noteLate (k : Core) (lines : List Nat) : Core :=
  { k with chunks := k.chunks.map (fun ch => { ch with late := addAll (lines.filter (fun l => ch.rd.contains l)) ch.late }) }

/-- Whether a listed core lies on a die. -/
def onDie (d n : Nat) : Bool := n / 2048 * 2 + n % 64 / 32 == d

/-- The listed cores of a die learn of lines that have become visible there. -/
def State.lateAt (s : State) (d : Nat) (lines : List Nat) : State :=
  if lines.isEmpty then s
  else { s with cores := s.cores.map (fun e => if onDie d e.1 then (e.1, e.2.noteLate lines) else e) }

/-- Marks added to a superseded line. -/
def Stale.addMarks (e : Stale) (ms : List Mark) : Stale := { e with marks := e.marks ++ ms.filter (fun m => !e.marks.contains m) }

/-- Core c observes a newer value, which releases `ms` of it then cover (R258). -/
def Stale.observed (e : Stale) (c : CoreId) (ms : List Mark) : Stale :=
  { e.addMarks ms with seers := if e.seers.contains c then e.seers else c :: e.seers }

/-- Newer values that satisfy a test become visible in the die of core c; `obs` says that the core observes them, and
which of its releases follow. -/
def State.showTo (s : State) (c : CoreId) (obs : Option (List Mark)) (f : Stale → Bool) : State :=
  let d := dieOf c
  let lines := ((s.stale.filter (fun e => f e && !e.dies.contains d)).map (·.line))
  let r := showFrom f (fun e =>
    let e := { e with dies := if e.dies.contains d then e.dies else d :: e.dies }
    match obs with
    | none => e
    | some ms => e.observed c ms) s.stale
  { s with stale := r.1.filter Stale.readable }.lateAt d lines

/-! ### Releases (R258) -/

/-- A release of a core. -/
def State.mark (s : State) (c : CoreId) (sc : Scope) (gate : Option Nat) (key : Option SyncKey) : Mark :=
  ⟨c, (s.core c).part, sc, gate, key, none⟩

/-- What was written with a release earlier is overwritten: an acquire no longer finds that release there. -/
def State.dropKey (s : State) (key : SyncKey) : State :=
  { s with stale := s.stale.map (fun e => { e with marks := e.marks.filterMap (fun m =>
      if m.key == some key && m.pend.isNone then (if m.scope.wide then some { m with key := none } else none) else some m) }) }

/-- A release covers the writes that its core has made or observed, and those of `also`. -/
def State.cover (s : State) (m : Mark) (also : Stale → Bool) : State :=
  if m.scope.wide || m.key.isSome then
    { s with stale := s.stale.map (fun e =>
        if e.seers.contains m.core || also e then e.addMarks [m] else e) }
  else s

/-- Whether a key's place is overwritten by the next release there; arrivals of one phase add up. -/
def SyncKey.single : SyncKey → Bool
  | .group _ _ | .domain _ _ => false
  | _ => true

/-- A release by a boundary instruction, which writes what `key` names. -/
def State.released (s : State) (c : CoreId) (sc : Scope) (key : Option SyncKey) : State :=
  let s := match key with
    | none => s
    | some k => if k.single then s.dropKey k else s
  s.cover (s.mark c sc none key) (fun _ => false)

/-- The arrivals of a phase, once it has been released. -/
def State.passKey (s : State) (k k' : SyncKey) : State :=
  { s with stale := s.stale.map (fun e => { e with marks := e.marks.map (fun m =>
      if m.key == some k then { m with key := some k' } else m) }) }

/-- Pending releases of a core from instruction n of a chunk on are undone (R249). -/
def State.dropPend (s : State) (c : CoreId) (chunk n : Nat) : State :=
  { s with stale := s.stale.map (fun e => { e with marks := e.marks.filter (fun m =>
      !(m.core == c && (match m.pend with
        | none => false
        | some (ch, i) => chunk < ch || (ch == chunk && n <= i)))) }) }

/-- The releases of a core's uncommitted chunks that follow instruction n of a chunk. -/
def Core.laterRels (k : Core) (chunk n : Nat) : List Mark :=
  (k.chunks.map (fun ch => ((ch.rels.filter (fun r => chunk < ch.id || (chunk == ch.id && n < r.1))).map
    (fun r => { r.2 with pend := some (ch.id, r.1) })))).flatten

/-- What an access of a line by instruction n of a core's chunk shows it: the newest value, or the superseded one that
its load returns, and nothing older any more (R241, R256). A release that follows it in program order and has executed
already covers what it observes (R258). -/
def State.seen (s : State) (c : CoreId) (chunk n pa : Nat) (w : Bool) : State :=
  let here := s.stale.filter (fun e => e.line == pa / 64)
  let past := match s.stalePick c pa with
    | none => here
    | some e => if w then here else here.takeWhile (fun d => d != e)
  s.showTo c (some ((s.core c).laterRels chunk n)) (fun e => past.contains e)

/-! ### Acquires (R259) -/

/-- Whether a release and an acquire of core c each lie in the other's scope instance; a GATE release, only for an
acquire of the same gate (R259, R265). -/
def State.pairs (s : State) (m : Mark) (c : CoreId) (sc : Scope) (gate : Option Nat) : Bool :=
  m.pend.isNone
  && s.inScope m.core m.part m.scope m.gate c (s.core c).part
  && s.inScope c (s.core c).part sc gate m.core m.part
  && (m.scope != .gate || m.gate == gate)

/-- Whether a release beyond the die that pairs with an acquire covers a superseded line's newer value. -/
def State.paired (s : State) (c : CoreId) (sc : Scope) (gate : Option Nat) (e : Stale) : Bool :=
  e.marks.any (fun m => m.scope.wide && s.pairs m c sc gate)

/-- An acquire beyond the die: what releases in its scope cover is visible in the core's die. -/
def State.acquireShow (s : State) (c : CoreId) (sc : Scope) (gate : Option Nat) : State :=
  if sc.wide then s.showTo c none (s.paired c sc gate) else s

/-- An acquire of what a release wrote: the core has observed what the release covers. -/
def State.acquireKey (s : State) (c : CoreId) (sc : Scope) (gate : Option Nat) (key : SyncKey) : State :=
  { s with stale := s.stale.map (fun e =>
      if e.marks.any (fun m => m.key == some key && s.pairs m c sc gate) && !e.seers.contains c then
        { e with seers := c :: e.seers }
      else e) }

/-- An acquire by a synchronisation instruction (R261). -/
def State.acquired (s : State) (c : CoreId) (sc : Scope) (key : SyncKey) : State :=
  (s.acquireShow c sc none).acquireKey c sc none key

/-! ### Gates (20 R372) and fences (R260) -/

/-- A gate operation: a release and an acquire at its gate's scope, and every window access committed before it
precedes it. It reads what every earlier operation of the gate has released, so its core has observed what they cover.
-/
def State.gateOrder (s : State) (c : CoreId) (gate : Nat) : State :=
  let t := s.cover (s.mark c .gate (some gate) none) (fun e => s.inGateWindow gate e.line)
  t.showTo c (some []) (t.paired c .gate (some gate))

/-- A fence of a scope: a release and an acquire; at GATE, of every gate whose window is mapped (log 12). -/
def State.fenced (s : State) (c : CoreId) (sc : Scope) : State :=
  if sc == .gate then
    (s.windows (s.core c).part).foldl (fun (t : State) w =>
      (t.cover (t.mark c .gate (some w.gate) none) (fun _ => false)).acquireShow c .gate (some w.gate)) s
  else (s.released c sc none).acquireShow c sc none

end Sys2Proof.Machine
end

