-- ==== Sys2Proof/Machine/Tokens.lean ====
section
/-!
DEFINITION. Token accounts (20 R358, R359), the near caches (12 R233), and what an access to a line at its home costs.
-/

namespace Sys2Proof.Machine

/-! ### Token accounts (R358, R359) -/

/-- The resources of R358 by their index. -/
def nearTokens : Fin 5 := 0
/-- DRAM bandwidth. -/
def dramTokens : Fin 5 := 1
/-- Cobalt links. -/
def cobaltTokens : Fin 5 := 2
/-- CXL. -/
def cxlTokens : Fin 5 := 3
/-- Gate operations. -/
def gateTokens : Fin 5 := 4

/-- One token taken from the idle pool of the first lender that has one. -/
def drawIdle : List (Fin 16 × Nat) → Option (Fin 16 × List (Fin 16 × Nat))
  | [] => none
  | (v, n) :: r =>
    if n = 0 then drawIdle r
    else some (v, (v, n - 1) :: r)

/-- One more token lent, behind the older loans. -/
def addLoan (v : Fin 16) (l : List (Fin 16 × Nat)) : List (Fin 16 × Nat) :=
  match l.getLast? with
  | some (u, n) => if u == v then l.dropLast ++ [(u, n + 1)] else l ++ [(v, 1)]
  | none => [(v, 1)]

/-- A function spends one token of a resource: its own, else one of the idle pool up to its own allotment; none where it
must wait. -/
def State.spendToken (s : State) (vf : Fin 16) (res : Fin 5) : Option State :=
  let v := s.vfs[vf]
  let t := v.tokens[res]
  let put := fun (t : Tokens) => { s with vfs := s.vfs.set vf { v with tokens := v.tokens.set res t } }
  match t.allot with
  | none => some s
  | some a =>
    if t.left != 0 then some (put { t with left := t.left - 1 })
    else if t.drawn >= a then none
    else (drawIdle s.idle[res]).map (fun d =>
      { put { t with drawn := t.drawn + 1, loans := addLoan d.1 t.loans } with idle := s.idle.set res d.2 })

/-- The debts of earlier periods pay their parts within `room`, oldest first: what is left of them, and how much is
paid. -/
def payPlan : Nat → List (Nat × Nat) → List (Nat × Nat) × Nat
  | _, [] => ([], 0)
  | room, (due, rest) :: ds =>
    let m := min room (min due rest)
    let r := payPlan (room - m) ds
    (if rest = m then r.1 else (due, rest - m) :: r.1, m + r.2)

/-- Tokens paid to the lenders of the oldest unpaid loans: the loans left, and who gets what. -/
def payLoans : Nat → List (Fin 16 × Nat) → List (Fin 16 × Nat) × List (Fin 16 × Nat)
  | _, [] => ([], [])
  | n, (v, k) :: ls =>
    if n = 0 then ((v, k) :: ls, [])
    else if k <= n then
      let r := payLoans (n - k) ls
      (r.1, (v, k) :: r.2)
    else ((v, k - n) :: ls, [(v, n)])

/-- A function's account of a resource at the start of a period, and whom it pays: what it drew in the period before has
become a debt of which an eighth, rounded up, is due in each of the next 8 periods (R359). -/
def Tokens.refill (t : Tokens) : Tokens × List (Fin 16 × Nat) :=
  match t.allot with
  | none => (t, [])
  | some a =>
    let plan := t.plan ++ (if t.drawn = 0 then [] else [((t.drawn + 7) / 8, t.drawn)])
    let p := payPlan a plan
    let l := payLoans p.2 t.loans
    (⟨some a, a - p.2, 0, l.1, p.1⟩, l.2)

/-- A resource at the start of a period: unused tokens form the idle pool, allotments refill, debts are repaid. -/
def State.refillTokens (s : State) (res : Fin 5) : State :=
  let idle := (List.finRange 16).filterMap (fun v =>
    match (s.vfs[v].tokens[res]).allot with
    | none => none
    | some _ => if (s.vfs[v].tokens[res]).left = 0 then none else some (v, (s.vfs[v].tokens[res]).left))
  let rs := (List.finRange 16).map (fun v => (v, (s.vfs[v].tokens[res]).refill))
  let pays := (rs.map (fun r => r.2.2)).flatten
  let vfs := Vector.ofFn fun (v : Fin 16) =>
    let vf := s.vfs[v]
    let t := (vf.tokens[res]).refill.1
    let got := ((pays.filter (fun p => p.1 == v)).map (·.2)).foldl (· + ·) 0
    { vf with tokens := vf.tokens.set res { t with left := t.left + got } }
  { s with vfs := vfs, idle := s.idle.set res idle }

/-! ### Near caches (12 R233) -/

/-- Lines of a set of a near cache: 256 MiB in 16 ways are 2^18 sets of a die; a line's set is its number modulo 2^18
(log 16). -/
def State.nearSet (s : State) (line : Nat) : List NearLine :=
  s.near.filter (fun l => l.line % 2 ^ 18 == line % 2 ^ 18 && homeDie (l.line * 64) == homeDie (line * 64))

/-- Whether a near cache holds a line. -/
def State.inNear (s : State) (line : Nat) : Bool := s.near.any (fun l => l.line == line)

/-- The way in which a line is allocated: a free one that the mask allows, else that of the line longest held in such a
way (log 16). -/
def nearWay (mask : BitVec 16) (set : List NearLine) : Option (Fin 16) :=
  match (List.finRange 16).find? (fun w => mask.getLsbD w.val && !set.any (fun l => l.way == w)) with
  | some w => some w
  | none => ((set.reverse).find? (fun l => mask.getLsbD l.way.val)).map (·.way)

/-- A line's home near cache after an access on behalf of a function: a hit in any way; a miss allocates only into the
mask's ways, and never a line with nc = 1. -/
def State.touchNear (s : State) (vf : Fin 16) (nc : Bool) (line : Nat) : State :=
  if s.inNear line || nc then s
  else match nearWay (s.vfs[vf]).wayMask (s.nearSet line) with
    | none => s
    | some w =>
      { s with near := ⟨line, w⟩ :: s.near.filter (fun l => !((s.nearSet line).contains l && l.way == w)) }

/-! ### Transfers at home (R358, log 16) -/

/-- The function of a partition. -/
def State.vfOf (s : State) (part : Option Nat) : Option (Fin 16) := (part.bind (tabFind s.parts)).map (·.vf)

/-- The resource that a transfer of a line at its home uses: a link to another package, the near cache that holds the
line, and else its memory. -/
def State.resourceOf (s : State) (line : Nat) : Fin 5 :=
  if bits (line * 64) 45 7 != s.pkg.val then cobaltTokens
  else if s.inNear line then nearTokens
  else if bit (line * 64) 44 then cxlTokens
  else dramTokens

/-- A line transferred on behalf of a partition: none where its function must wait for a token. -/
def State.transfer (s : State) (part : Option Nat) (nc : Bool) (line : Nat) : Option State :=
  match s.vfOf part with
  | none => some s
  | some vf =>
    (s.spendToken vf (s.resourceOf line)).map (fun t =>
      if bits (line * 64) 45 7 != s.pkg.val then t else t.touchNear vf nc line)

/-- Whether a core's access to a line goes to its home: neither its stash nor its journal holds it (12 R239, 13 R247).
-/
def State.goesHome (s : State) (c : CoreId) (line : Nat) : Bool :=
  !s.stash.any (fun l => l.core == c && l.line == line) && !(s.core c).chunks.any (fun ch => ch.wr.contains line)

/-- Lines given as (global address, physical address) paid for in order: those a request has paid for already are free;
`who` is 0 for the scalar pipeline, 1 for the vector sequencer, 2 for the copy engine. -/
def State.payLines (s : State) (c : CoreId) (who : Nat) : List (Nat × Nat) → State × Bool
  | [] => (s.onCore c (fun k => { k with paid := k.paid.filter (fun p => p.1 != who) }), true)
  | (va, pa) :: r =>
    let line := pa / 64
    if (s.core c).paid.contains (who, line) || (who != 2 && !s.goesHome c line) then s.payLines c who r
    else match s.transfer (s.core c).part (s.noNear c (s.core c).part va) line with
      | none => (s, false)
      | some t => (t.onCore c (fun k => { k with paid := k.paid ++ [(who, line)] })).payLines c who r

end Sys2Proof.Machine
end

