-- ==== Sys2Proof/Machine/Stash.lean ====
section
/-!
DEFINITION. The stash windows, the lines the stashes hold and their directory (12 R237 to R241), and what a core's
global access leaves behind: signatures, line states, values seen (13 R248, R256).
-/

namespace Sys2Proof.Machine

/-- lg of a window register (R238). -/
def winLg (w : Word) : Nat := bits w.toNat 58 6
/-- Base of a window register. -/
def winBase (w : Word) : Nat := bits w.toNat 0 55

/-- Whether a window covers a global address. -/
def winCovers (w : Word) (va : Nat) : Bool := winBase w <= va && va < winBase w + 2 ^ winLg w

/-- Whether a line is cacheable: some enabled window covers it, and S is not 0 (R237, R238). -/
def Arch.cacheable (a : Arch) (va : Nat) : Bool :=
  a.stashCfg.toNat % 8 != 0 &&
  (List.finRange 16).any (fun n => bit a.stashCfg.toNat (16 + n.val) && winCovers a.sw[n] va)

/-- Lines a stash of size S holds at most. -/
def Arch.stashLines (a : Arch) : Nat := a.stashSize / 64

/-- The stash lines of a core. -/
def State.linesHeld (s : State) (c : CoreId) : List StashLine := s.stash.filter (fun l => l.core == c)

/-- What another core's access does to the copies of a line (R240): a write invalidates them, a read leaves them S; a
modified one goes home. -/
def State.othersAfter (s : State) (c : CoreId) (line : Nat) (w : Bool) : State :=
  if w then s.keepLines (fun l => l.core == c || l.line != line)
  else
    let mine := fun (l : StashLine) => l.core == c || l.line != line
    { s.writeBacks (s.stash.filter (fun l => !mine l)) with
      stash := s.stash.map (fun l => if mine l then l else { l with st := .s }) }

/-- The state a core's access leaves its own line in (R240). -/
def lineAfter (old : Option LineState) (others w : Bool) : LineState :=
  if w then .m
  else match old with
    | some st => st
    | none => if others then .s else .e

/-- A core's access to one line, through its stash or a transit slot (R239, R240). When the stash is full, the line
held longest is evicted; which one is not architectural (log 15). -/
def State.stashAccess (s : State) (c : CoreId) (va pa : Nat) (w : Bool) : State :=
  let line := pa / 64
  let a := (s.core c).arch
  let s := s.othersAfter c line w
  let mine := s.stash.find? (fun l => l.core == c && l.line == line)
  let rest := s.stash.filter (fun l => !(l.core == c && l.line == line))
  if a.cacheable (va / 64 * 64) && (s.winAt (s.core c).part va).isNone then
    let others := rest.any (fun l => l.line == line)
    let l : StashLine := ⟨c, va / 64, line, lineAfter (mine.map (·.st)) others w, (mine.map (·.bad)).getD false⟩
    let held := rest.filter (fun l => l.core == c)
    let t := if held.length >= a.stashLines then
        match held.getLast? with
        | some o => s.keepLines (fun l => l != o)
        | none => s
      else s
    { t with stash := l :: t.stash.filter (fun l => !(l.core == c && l.line == line)) }
  else s.keepLines (fun l => !(l.core == c && l.line == line))

/-- What a global access of instruction m of a core's chunk, of n bytes at a physical address, leaves in the chunk and
in what the core's die may read. A load that returns a superseded value has read an older one than another agent's (13
R248, R257). -/
def State.noteSeen (s : State) (c : CoreId) (chunk m pa n : Nat) (w : Bool) : State :=
  let lines := linesOf pa n
  let old := !w && (s.stalePick c pa).isSome
  (s.seen c chunk m pa w).onCore c (fun k =>
    if w then k.noteWrite chunk m [] lines
    else (k.noteRead chunk [] lines).onChunk chunk (fun ch =>
      if old then { ch with newer := addAll lines ch.newer } else ch))

/-- One global access of instruction m of a core's chunk: n bytes at a global and a physical address. -/
def State.noteAccess (s : State) (c : CoreId) (chunk m va pa n : Nat) (w : Bool) : State :=
  (s.stashAccess c va pa w).noteSeen c chunk m pa n w

/-- Global accesses in order. -/
def State.noteAccesses (s : State) (c : CoreId) (chunk m : Nat) : List (Nat × Nat × Nat × Bool) → State
  | [] => s
  | (va, pa, n, w) :: r => (s.noteAccess c chunk m va pa n w).noteAccesses c chunk m r

end Sys2Proof.Machine
end

