-- ==== Sys2Proof/Machine/Float.lean ====
section
/-!
DEFINITION. Floating-point arithmetic on codes of one format (02 R35, R48, 05 R109 to R111, 06 R125, R128): every
result is one rounding of an exact value, every NaN result is the default NaN. Scalar and vector instructions share it.
-/

namespace Sys2Proof

/-- a + b. -/
def Fmt.add (f : Fmt) (rm : RMode) (a b : Nat) : Nat := f.round rm (sumExact rm [f.value a, f.value b])
/-- a - b. -/
def Fmt.sub (f : Fmt) (rm : RMode) (a b : Nat) : Nat := f.round rm (sumExact rm [f.value a, (f.value b).neg])
/-- a * b. -/
def Fmt.mul (f : Fmt) (rm : RMode) (a b : Nat) : Nat := f.round rm ((f.value a).mul (f.value b))

/-- The quotient of two dyadic magnitudes as a ratio. -/
def divRatio (m : Nat) (e : Int) (n : Nat) (g : Int) : Ratio :=
  let d := e - g
  if d < 0 then ⟨m, n <<< (-d).toNat⟩ else ⟨m <<< d.toNat, n⟩

/-- a / b (R109). -/
def Fmt.div (f : Fmt) (rm : RMode) (a b : Nat) : Nat :=
  let l := f.layout
  match f.value a, f.value b with
  | .nan, _ => l.nan
  | _, .nan => l.nan
  | .inf _, .inf _ => l.nan
  | .inf s, .fin t _ _ => l.round rm (.inf (s != t))
  | .fin s _ _, .inf t => l.round rm (.fin (s != t) 0 0)
  | .fin s m e, .fin t n g =>
    if n == 0 then (if m == 0 then l.nan else l.round rm (.inf (s != t)))
    else l.roundRatio rm (s != t) (divRatio m e n g)

/-- Square root (R109). -/
def Fmt.sqrt (f : Fmt) (rm : RMode) (a : Nat) : Nat :=
  let l := f.layout
  match f.value a with
  | .nan => l.nan
  | .inf s => if s then l.nan else l.round rm (.inf false)
  | .fin s m e =>
    if m == 0 then l.signedCode s 0
    else if s then l.nan
    else l.roundRatio rm false (Ratio.dyadic m e).sqrt

/-- The smaller, -0 below +0 (R109). -/
def Fmt.fmin (f : Fmt) (a b : Nat) : Nat :=
  let x := f.value a
  let y := f.value b
  if x.isNan || y.isNan then f.layout.nan else if y.ltz x then b else a

/-- The larger, -0 below +0 (R109). -/
def Fmt.fmax (f : Fmt) (a b : Nat) : Nat :=
  let x := f.value a
  let y := f.value b
  if x.isNan || y.isNan then f.layout.nan else if x.ltz y then b else a

/-- The sign bit inverted; a NaN gives the default NaN (R109). -/
def Fmt.fneg (f : Fmt) (a : Nat) : Nat :=
  if (f.value a).isNan then f.layout.nan else a ^^^ 2 ^ (f.width - 1)

/-- The sign bit cleared; a NaN gives the default NaN (R125). -/
def Fmt.fabs (f : Fmt) (a : Nat) : Nat :=
  if (f.value a).isNan then f.layout.nan else a % 2 ^ (f.width - 1)

/-- The exact value of the four fused forms (R109): a * b + e, a * b - e, -(a * b) - e, -(a * b) + e. -/
def fusedExact (var : FmaVar) (rm : RMode) (a b e : Num) : Num :=
  let p := a.mul b
  match var with
  | .fma => sumExact rm [p, e]
  | .fms => sumExact rm [p, e.neg]
  | .nfma => sumExact rm [p.neg, e.neg]
  | .nfms => sumExact rm [p.neg, e]

/-- The fused forms, rounded once. -/
def Fmt.fused (f : Fmt) (var : FmaVar) (rm : RMode) (a b e : Nat) : Nat :=
  f.round rm (fusedExact var rm (f.value a) (f.value b) (f.value e))

/-- The one-hot class mask of FCLASS (R110). -/
def Fmt.classMask (f : Fmt) (a : Nat) : Nat :=
  match f.value a with
  | .nan => 2 ^ 8
  | .inf n => if n then 1 else 2 ^ 7
  | .fin n m _ =>
    if m == 0 then (if n then 2 ^ 3 else 2 ^ 4)
    else
      let sub := m < 2 ^ f.layout.frac
      if n then (if sub then 2 ^ 2 else 2) else (if sub then 2 ^ 5 else 2 ^ 6)

end Sys2Proof
end

