-- ==== Sys2Proof/Machine/Lanes.lean ====
section
/-!
DEFINITION. Lane arithmetic of the vector instructions, with no state (06 R114, R122 to R136, 02 R29, R39, R42, R50,
16 R303): every function takes element codes and yields element codes.
-/

namespace Sys2Proof

/-! ### Lanes of a register (R114) -/

/-- A register from its first n lanes of width w; the lanes above are 0. -/
def lanesNat (w : Nat) (f : Nat → Nat) : Nat → Nat
  | 0 => 0
  | n + 1 => lanesNat w f n + f n % 2 ^ w * 2 ^ (w * n)

/-- A register from its first n lanes of width w. -/
def ofLanes (w n : Nat) (f : Nat → Nat) : VWord := BitVec.ofNat 2048 (lanesNat w f n)

/-- The result of an instruction of n lanes whose first `act` are active: the others are zeroed or kept (R114). -/
def merge (w n act : Nat) (zero : Bool) (old : VWord) (f : Nat → Nat) : VWord :=
  ofLanes w n (fun i => if i < act then f i else if zero then 0 else lane old w i)

/-- Whether any of lanes 0 to act - 1 satisfies p, and the lowest that does. -/
def firstLane (act : Nat) (p : Nat → Bool) : Option Nat := (List.range act).find? p

/-! ### Elementwise operations (R125 to R127) -/

/-- A result and whether it was clamped. -/
structure Sat where
  val : Nat
  sat : Bool
  deriving DecidableEq, Repr

/-- An exact integer result, wrapped or clamped to the type's range (R126). -/
def satInt (f : Fmt) (u sat : Bool) (v : Int) : Sat :=
  if sat then
    let r := f.intRange u
    let c := clampInt r.1 r.2 v
    ⟨wrap f.width c.1, c.2⟩
  else ⟨wrap f.width v, false⟩

/-- The exclusive choices of R125's arithmetic. -/
inductive Ari where
  | add | sub | mul
  deriving DecidableEq, Repr

/-- On integers. -/
def Ari.int : Ari → Int → Int → Int
  | .add, a, b => a + b
  | .sub, a, b => a - b
  | .mul, a, b => a * b

/-- On floats. -/
def Ari.float (f : Fmt) (rm : RMode) : Ari → Nat → Nat → Nat
  | .add => f.add rm
  | .sub => f.sub rm
  | .mul => f.mul rm

/-- VADD, VSUB and VMUL of two elements. DESIGN CHOICE (log 8): with u and sat the operands are read as unsigned; R124
says that u takes unsigned saturation bounds and leaves open how the operands are read. -/
def ariElem (op : Ari) (f : Fmt) (u sat : Bool) (rm : RMode) (a b : Nat) : Sat :=
  if f.isFloat then ⟨op.float f rm a b, false⟩
  else if f == .res then ⟨resMap2 op.int a b, false⟩
  else satInt f u sat (op.int (f.intValue u a) (f.intValue u b))

/-- VMIN (`max` clear) and VMAX of two elements. -/
def minMaxElem (max : Bool) (f : Fmt) (u : Bool) (a b : Nat) : Nat :=
  if f.isFloat then (if max then f.fmax a b else f.fmin a b)
  else if f.intValue u a < f.intValue u b then (if max then b else a) else (if max then a else b)

/-- VDIV of two elements (R126). -/
def divElem (f : Fmt) (u : Bool) (rm : RMode) (a b : Nat) : Nat :=
  if f.isFloat then f.div rm a b
  else if f.intValue u b = 0 then 2 ^ f.width - 1
  else wrap f.width ((f.intValue u a).tdiv (f.intValue u b))

/-- VABS of an element. -/
def absElem (f : Fmt) (sat : Bool) (a : Nat) : Sat :=
  if f.isFloat then ⟨f.fabs a, false⟩ else satInt f false sat ((f.intValue false a).natAbs : Int)

/-- VNEG of an element. -/
def negElem (f : Fmt) (sat : Bool) (a : Nat) : Sat :=
  if f.isFloat then ⟨f.fneg a, false⟩ else satInt f false sat (-(f.intValue false a))

/-- VSLL of an element; the count is modulo the width. -/
def sllElem (w a b : Nat) : Nat := a <<< (b % w) % 2 ^ w
/-- VSRL of an element. -/
def srlElem (w a b : Nat) : Nat := a >>> (b % w)
/-- VSRA of an element. -/
def sraElem (w a b : Nat) : Nat := wrap w (signed w a / (2 ^ (b % w) : Nat))

/-- VCMP's condition on two elements (R122). -/
def cmpElem (f : Fmt) (u : Bool) (c : Cond) (a b : Nat) : Bool :=
  if f.isFloat then
    let x := f.value a
    let y := f.value b
    match c with
    | .eq => x.eqv y
    | .ne => !x.eqv y
    | .lt => x.lt y
    | .le => x.le y
    | .gt => y.lt x
    | .ge => y.le x
    | .un => x.isNan || y.isNan
  else if f == .res then
    match c with
    | .eq => resParts a == resParts b
    | _ => resParts a != resParts b
  else
    let x := f.intValue u a
    let y := f.intValue u b
    match c with
    | .eq => x == y
    | .ne => x != y
    | .lt => x < y
    | .le => x <= y
    | .gt => y < x
    | .ge => y <= x
    | .un => false

/-- The lowest active lane of a res operand that R42 rejects. -/
def resLaneBad (act : Nat) (fs : List (Nat → Nat)) : Option Nat :=
  firstLane act (fun i => fs.any (fun f => resBad (f i)))

/-! ### Permutation (16 R303) -/

/-- pi_m for m at most 192: the entries of a table below m, in table order. -/
def permTable (t : List Nat) (m : Nat) : List Nat := t.filter (· < m)

/-- pi_m (R303); `t` is none where perm.en is 0. -/
def permIdx (t : Option (List Nat)) (m i : Nat) : Nat :=
  match t with
  | none => i
  | some t =>
    let q := i / 192
    let k := min 192 (m - 192 * q)
    192 * q + (permTable t k).getD (i % 192) (i % 192)

/-! ### Block quantisation (R131, R132) -/

/-- Emax of a quantised type. -/
def emax : Fmt → Nat
  | .int8 => 127 | .int4 => 7 | .e4m3 => 448 | .e5m2 => 57344 | _ => 6

/-- An exact quotient of two dyadic values rounded to nearest even: into a float format, or to an integer. -/
def quantElem (f : Fmt) (x s : Num) : Nat :=
  match x, s with
  | .fin n m e, .fin _ k g =>
    let r := divRatio m e k g
    if f.isFloating then f.layout.roundRatio .rne n r
    else
      let q := roundGrid .rne n r 0
      wrap f.width (if n then -(q : Int) else (q : Int))
  | _, _ => 0

/-- The S24 scale of a block's active elements (R131). -/
def quantScale (f : Fmt) (xs : List Num) : Nat :=
  if xs.any (fun x => !x.isFin) then 0xFF8000
  else
    let a := xs.foldl (fun m x => if m.lt x.abs then x.abs else m) (Num.fin false 0 0)
    match a with
    | .fin _ m e => if m == 0 then 0x7F0000 else Fmt.s24.layout.roundRatio .rup false (divRatio m e (emax f) 0)
    | _ => 0x7F0000

/-- A quantised element under a scale: +0 under the NaN scale. -/
def quantOf (f : Fmt) (s : Nat) (x : Num) : Nat := if s == 0xFF8000 then 0 else quantElem f x (Fmt.s24.layout.value s)

/-- A dequantised element (R132). -/
def dequantElem (f dst : Fmt) (q s : Nat) : Nat := dst.round .rne (scaled (Fmt.s24.layout.value s) (f.value q))

/-- Whether the dequantised element is the largest finite value for a product beyond it (R37). -/
def dequantSat (f dst : Fmt) (q s : Nat) : Bool :=
  (dst.convFloat .rne false (scaled (Fmt.s24.layout.value s) (f.value q))).sat

/-! ### Reductions (R50, R133) -/

/-- Whether element x of lane i beats the best so far, in the order of a reduction; NaNs apart. -/
def redBeats (max : Bool) (f : Fmt) (u : Bool) (x best : Nat) : Bool :=
  if f.isFloat then
    (if max then (f.value best).ltz (f.value x) else (f.value x).ltz (f.value best))
  else if max then f.intValue u best < f.intValue u x else f.intValue u x < f.intValue u best

/-- The value of an empty max or min. -/
def redEmpty (max : Bool) (f : Fmt) (u : Bool) : Nat :=
  if f.isFloat then f.layout.round .rne (.inf max)
  else wrap f.width (if max then (f.intRange u).1 else (f.intRange u).2)

/-- max, min, maxi and mini over active lanes: the value and the index. -/
def redExtreme (max : Bool) (f : Fmt) (u : Bool) (act : Nat) (a : Nat → Nat) : Nat × Nat :=
  match if f.isFloat then firstLane act (fun i => (f.value (a i)).isNan) else none with
  | some i => (f.layout.nan, i)
  | none =>
    match (List.range act).foldl
      (fun (b : Option (Nat × Nat)) i =>
        match b with
        | none => some (a i, i)
        | some (v, j) => if redBeats max f u (a i) v then some (a i, i) else some (v, j)) none with
    | some r => r
    | none => (redEmpty max f u, 0xFFFFFFFF)

/-- add over active lanes. -/
def redAdd (f : Fmt) (rm : RMode) (act : Nat) (a : Nat → Nat) : Nat :=
  let xs := (List.range act).map a
  if f.isFloat then f.round rm (if act = 0 then .fin false 0 0 else sumExact rm (xs.map f.value))
  else if f == .res then xs.foldl (resMap2 (· + ·)) 0
  else wrap f.width ((xs.map (f.intValue false)).foldl (· + ·) 0)

/-! ### Dot products (R134) -/

/-- The format b is read in. -/
def partner (mix : Bool) (f : Fmt) : Fmt :=
  if mix then
    match f with
    | .uint8 => .int8 | .int8 => .uint8 | .e4m3 => .e5m2 | .e5m2 => .e4m3 | f => f
  else f

/-- One destination lane of VDOT. -/
def dotElem (f : Fmt) (mix : Bool) (a b : VWord) (e : Nat) (i : Nat) : Nat :=
  let w := f.width
  let g := 32 / w
  let h := partner mix f
  let js := List.range g
  if f.isFloating then
    Fmt.fp32.round .rne
      (sumExact .rne (Fmt.fp32.value e ::
        js.map (fun j => (f.value (lane a w (g * i + j))).mul (h.value (lane b w (g * i + j))))))
  else
    wrap 32 (js.foldl
      (fun acc j => acc + f.intValue false (lane a w (g * i + j)) * h.intValue false (lane b w (g * i + j)))
      (signed 32 e))

end Sys2Proof
end

