-- ==== Sys2Proof/Machine/TmMath.lean ====
section
/-!
DEFINITION. Transformed means (07 R146 to R164): the log2 and exp2 sequences with their built-in tables, terms, merges
and exit, on FP32 codes. VSFU shares the sequences (06 R135).
-/

namespace Sys2Proof

/-- Knots of the built-in log2 table, k = 0 to 31. -/
def tlTable0 : List Nat :=
  [0x00000000, 0x3BB84E23, 0x3C37F286, 0x3C89B189, 0x3CB73CB4, 0x3CE49B1E, 0x3D08E68F, 0x3D1F6985,
   0x3D35D69C, 0x3D4C2DFE, 0x3D626FD6, 0x3D789C4C, 0x3D8759C5, 0x3D925ADC, 0x3D9D517F, 0x3DA83DC2,
   0x3DB31FB8, 0x3DBDF775, 0x3DC8C50B, 0x3DD3888F, 0x3DDE4212, 0x3DE8F1A7, 0x3DF39761, 0x3DFE3350,
   0x3E0462C4, 0x3E09A70E, 0x3E0EE68D, 0x3E14214A, 0x3E19574F, 0x3E1E88A3, 0x3E23B550, 0x3E28DD5D]

/-- Knots of the built-in log2 table, k = 32 to 63. -/
def tlTable1 : List Nat :=
  [0x3E2E00D2, 0x3E331FB8, 0x3E383A17, 0x3E3D4FF6, 0x3E42615F, 0x3E476E57, 0x3E4C76E8, 0x3E517B19,
   0x3E567AF1, 0x3E5B7679, 0x3E606DB6, 0x3E6560B2, 0x3E6A4F72, 0x3E6F39FF, 0x3E74205F, 0x3E79029A,
   0x3E7DE0B6, 0x3E815D5D, 0x3E83C857, 0x3E86314C, 0x3E88983F, 0x3E8AFD34, 0x3E8D602E, 0x3E8FC130,
   0x3E92203D, 0x3E947D5A, 0x3E96D888, 0x3E9931CB, 0x3E9B8926, 0x3E9DDE9D, 0x3EA03232, 0x3EA283E8]

/-- Knots of the built-in log2 table, k = 64 to 95. -/
def tlTable2 : List Nat :=
  [0x3EA4D3C2, 0x3EA721C4, 0x3EA96DF0, 0x3EABB849, 0x3EAE00D2, 0x3EB0478E, 0x3EB28C7F, 0x3EB4CFA9,
   0x3EB7110E, 0x3EB950B2, 0x3EBB8E96, 0x3EBDCABD, 0x3EC0052B, 0x3EC23DE2, 0x3EC474E4, 0x3EC6AA34,
   0x3EC8DDD4, 0x3ECB0FC8, 0x3ECD4012, 0x3ECF6EB4, 0x3ED19BB0, 0x3ED3C70A, 0x3ED5F0C4, 0x3ED818DF,
   0x3EDA3F60, 0x3EDC6447, 0x3EDE8797, 0x3EE0A953, 0x3EE2C97D, 0x3EE4E818, 0x3EE70525, 0x3EE920A6]

/-- Knots of the built-in log2 table, k = 96 to 127. -/
def tlTable3 : List Nat :=
  [0x3EEB3A9F, 0x3EED5311, 0x3EEF69FF, 0x3EF17F6A, 0x3EF39355, 0x3EF5A5C2, 0x3EF7B6B4, 0x3EF9C62B,
   0x3EFBD42B, 0x3EFDE0B6, 0x3EFFEBCD, 0x3F00FAB9, 0x3F01FED4, 0x3F030239, 0x3F0404E8, 0x3F0506E2,
   0x3F060828, 0x3F0708BC, 0x3F08089E, 0x3F0907CF, 0x3F0A0650, 0x3F0B0422, 0x3F0C0146, 0x3F0CFDBE,
   0x3F0DF989, 0x3F0EF4A9, 0x3F0FEF1F, 0x3F10E8EB, 0x3F11E20F, 0x3F12DA8B, 0x3F13D260, 0x3F14C990]

/-- Knots of the built-in log2 table, k = 128 to 159. -/
def tlTable4 : List Nat :=
  [0x3F15C01A, 0x3F16B601, 0x3F17AB44, 0x3F189FE4, 0x3F1993E3, 0x3F1A8742, 0x3F1B7A00, 0x3F1C6C1F,
   0x3F1D5DA0, 0x3F1E4E83, 0x3F1F3ECA, 0x3F202E74, 0x3F211D84, 0x3F220BF9, 0x3F22F9D5, 0x3F23E718,
   0x3F24D3C2, 0x3F25BFD6, 0x3F26AB53, 0x3F27963A, 0x3F28808C, 0x3F296A4A, 0x3F2A5374, 0x3F2B3C0C,
   0x3F2C2411, 0x3F2D0B85, 0x3F2DF268, 0x3F2ED8BC, 0x3F2FBE80, 0x3F30A3B5, 0x3F31885C, 0x3F326C77]

/-- Knots of the built-in log2 table, k = 160 to 191. -/
def tlTable5 : List Nat :=
  [0x3F335004, 0x3F343306, 0x3F35157D, 0x3F35F769, 0x3F36D8CB, 0x3F37B9A4, 0x3F3899F5, 0x3F3979BD,
   0x3F3A58FF, 0x3F3B37B9, 0x3F3C15EE, 0x3F3CF39D, 0x3F3DD0C8, 0x3F3EAD6E, 0x3F3F8991, 0x3F406531,
   0x3F41404F, 0x3F421AEB, 0x3F42F506, 0x3F43CEA0, 0x3F44A7BA, 0x3F458055, 0x3F465872, 0x3F473010,
   0x3F480731, 0x3F48DDD4, 0x3F49B3FB, 0x3F4A89A7, 0x3F4B5ED7, 0x3F4C338C, 0x3F4D07C7, 0x3F4DDB88]

/-- Knots of the built-in log2 table, k = 192 to 223. -/
def tlTable6 : List Nat :=
  [0x3F4EAED0, 0x3F4F819F, 0x3F5053F7, 0x3F5125D7, 0x3F51F740, 0x3F52C832, 0x3F5398AF, 0x3F5468B6,
   0x3F553848, 0x3F560765, 0x3F56D60F, 0x3F57A446, 0x3F587209, 0x3F593F5A, 0x3F5A0C3A, 0x3F5AD8A8,
   0x3F5BA4A4, 0x3F5C7031, 0x3F5D3B4E, 0x3F5E05FB, 0x3F5ED039, 0x3F5F9A09, 0x3F60636A, 0x3F612C5E,
   0x3F61F4E5, 0x3F62BCFF, 0x3F6384AD, 0x3F644BF0, 0x3F6512C7, 0x3F65D933, 0x3F669F35, 0x3F6764CD]

/-- Knots of the built-in log2 table, k = 224 to 255. -/
def tlTable7 : List Nat :=
  [0x3F6829FB, 0x3F68EEC1, 0x3F69B31E, 0x3F6A7712, 0x3F6B3A9F, 0x3F6BFDC5, 0x3F6CC083, 0x3F6D82DB,
   0x3F6E44CD, 0x3F6F065A, 0x3F6FC781, 0x3F708843, 0x3F7148A1, 0x3F72089B, 0x3F72C832, 0x3F738765,
   0x3F744636, 0x3F7504A4, 0x3F75C2B0, 0x3F76805A, 0x3F773DA4, 0x3F77FA8C, 0x3F78B714, 0x3F79733C,
   0x3F7A2F04, 0x3F7AEA6D, 0x3F7BA578, 0x3F7C6023, 0x3F7D1A71, 0x3F7DD460, 0x3F7E8DF2, 0x3F7F4728]

/-- Knots of the built-in log2 table, k = 256 to 256. -/
def tlTable8 : List Nat :=
  [0x3F800000]

/-- Knots of the built-in log2 table (R152). -/
def tlTable : List Nat :=
  tlTable0 ++ tlTable1 ++ tlTable2 ++ tlTable3 ++ tlTable4 ++ tlTable5 ++ tlTable6 ++ tlTable7 ++ tlTable8

/-- Knots of the built-in exp2 table, k = 0 to 31. -/
def teTable0 : List Nat :=
  [0x3F800000, 0x3F8058D8, 0x3F80B1ED, 0x3F810B41, 0x3F8164D2, 0x3F81BEA1, 0x3F8218AF, 0x3F8272FC,
   0x3F82CD87, 0x3F832850, 0x3F838359, 0x3F83DEA1, 0x3F843A29, 0x3F8495F0, 0x3F84F1F6, 0x3F854E3D,
   0x3F85AAC3, 0x3F86078A, 0x3F866491, 0x3F86C1D9, 0x3F871F62, 0x3F877D2B, 0x3F87DB35, 0x3F883981,
   0x3F88980F, 0x3F88F6DD, 0x3F8955EE, 0x3F89B541, 0x3F8A14D5, 0x3F8A74AD, 0x3F8AD4C6, 0x3F8B3523]

/-- Knots of the built-in exp2 table, k = 32 to 63. -/
def teTable1 : List Nat :=
  [0x3F8B95C2, 0x3F8BF6A4, 0x3F8C57CA, 0x3F8CB933, 0x3F8D1ADF, 0x3F8D7CD0, 0x3F8DDF04, 0x3F8E417D,
   0x3F8EA43A, 0x3F8F073B, 0x3F8F6A81, 0x3F8FCE0C, 0x3F9031DC, 0x3F9095F2, 0x3F90FA4D, 0x3F915EED,
   0x3F91C3D3, 0x3F922900, 0x3F928E72, 0x3F92F42C, 0x3F935A2B, 0x3F93C072, 0x3F9426FF, 0x3F948DD4,
   0x3F94F4F0, 0x3F955C53, 0x3F95C3FF, 0x3F962BF2, 0x3F96942D, 0x3F96FCB1, 0x3F97657D, 0x3F97CE92]

/-- Knots of the built-in exp2 table, k = 64 to 95. -/
def teTable2 : List Nat :=
  [0x3F9837F0, 0x3F98A197, 0x3F990B88, 0x3F9975C2, 0x3F99E046, 0x3F9A4B13, 0x3F9AB62B, 0x3F9B218D,
   0x3F9B8D3A, 0x3F9BF931, 0x3F9C6573, 0x3F9CD201, 0x3F9D3EDA, 0x3F9DABFE, 0x3F9E196E, 0x3F9E872A,
   0x3F9EF532, 0x3F9F6387, 0x3F9FD228, 0x3FA04116, 0x3FA0B051, 0x3FA11FD9, 0x3FA18FAF, 0x3FA1FFD2,
   0x3FA27043, 0x3FA2E102, 0x3FA3520F, 0x3FA3C36B, 0x3FA43516, 0x3FA4A70F, 0x3FA51958, 0x3FA58BEF]

/-- Knots of the built-in exp2 table, k = 96 to 127. -/
def teTable3 : List Nat :=
  [0x3FA5FED7, 0x3FA6720E, 0x3FA6E595, 0x3FA7596C, 0x3FA7CD94, 0x3FA8420C, 0x3FA8B6D5, 0x3FA92BEF,
   0x3FA9A15B, 0x3FAA1718, 0x3FAA8D26, 0x3FAB0387, 0x3FAB7A3A, 0x3FABF13F, 0x3FAC6897, 0x3FACE041,
   0x3FAD583F, 0x3FADD090, 0x3FAE4934, 0x3FAEC22D, 0x3FAF3B79, 0x3FAFB519, 0x3FB02F0E, 0x3FB0A957,
   0x3FB123F6, 0x3FB19EE9, 0x3FB21A32, 0x3FB295D0, 0x3FB311C4, 0x3FB38E0E, 0x3FB40AAF, 0x3FB487A6]

/-- Knots of the built-in exp2 table, k = 128 to 159. -/
def teTable4 : List Nat :=
  [0x3FB504F3, 0x3FB58298, 0x3FB60094, 0x3FB67EE7, 0x3FB6FD92, 0x3FB77C95, 0x3FB7FBF0, 0x3FB87BA3,
   0x3FB8FBAF, 0x3FB97C14, 0x3FB9FCD2, 0x3FBA7DEA, 0x3FBAFF5B, 0x3FBB8126, 0x3FBC034A, 0x3FBC85CA,
   0x3FBD08A4, 0x3FBD8BD8, 0x3FBE0F68, 0x3FBE9353, 0x3FBF179A, 0x3FBF9C3C, 0x3FC0213B, 0x3FC0A695,
   0x3FC12C4D, 0x3FC1B261, 0x3FC238D2, 0x3FC2BFA1, 0x3FC346CD, 0x3FC3CE57, 0x3FC4563F, 0x3FC4DE85]

/-- Knots of the built-in exp2 table, k = 160 to 191. -/
def teTable5 : List Nat :=
  [0x3FC5672A, 0x3FC5F02E, 0x3FC67991, 0x3FC70353, 0x3FC78D75, 0x3FC817F7, 0x3FC8A2D8, 0x3FC92E1B,
   0x3FC9B9BE, 0x3FCA45C1, 0x3FCAD226, 0x3FCB5EED, 0x3FCBEC15, 0x3FCC799F, 0x3FCD078C, 0x3FCD95DA,
   0x3FCE248C, 0x3FCEB3A1, 0x3FCF4319, 0x3FCFD2F4, 0x3FD06334, 0x3FD0F3D7, 0x3FD184DF, 0x3FD2164C,
   0x3FD2A81E, 0x3FD33A54, 0x3FD3CCF1, 0x3FD45FF3, 0x3FD4F35B, 0x3FD58729, 0x3FD61B5E, 0x3FD6AFFA]

/-- Knots of the built-in exp2 table, k = 192 to 223. -/
def teTable6 : List Nat :=
  [0x3FD744FD, 0x3FD7DA67, 0x3FD87039, 0x3FD90673, 0x3FD99D16, 0x3FDA3421, 0x3FDACB94, 0x3FDB6371,
   0x3FDBFBB8, 0x3FDC9468, 0x3FDD2D82, 0x3FDDC706, 0x3FDE60F5, 0x3FDEFB4E, 0x3FDF9613, 0x3FE03143,
   0x3FE0CCDF, 0x3FE168E7, 0x3FE2055B, 0x3FE2A23C, 0x3FE33F89, 0x3FE3DD44, 0x3FE47B6D, 0x3FE51A03,
   0x3FE5B907, 0x3FE65879, 0x3FE6F85B, 0x3FE798AB, 0x3FE8396A, 0x3FE8DA99, 0x3FE97C38, 0x3FEA1E47]

/-- Knots of the built-in exp2 table, k = 224 to 255. -/
def teTable7 : List Nat :=
  [0x3FEAC0C7, 0x3FEB63B7, 0x3FEC0719, 0x3FECAAEC, 0x3FED4F30, 0x3FEDF3E7, 0x3FEE9910, 0x3FEF3EAB,
   0x3FEFE4BA, 0x3FF08B3B, 0x3FF13231, 0x3FF1D99A, 0x3FF28177, 0x3FF329C9, 0x3FF3D290, 0x3FF47BCC,
   0x3FF5257D, 0x3FF5CFA4, 0x3FF67A41, 0x3FF72555, 0x3FF7D0DF, 0x3FF87CE1, 0x3FF9295A, 0x3FF9D64A,
   0x3FFA83B3, 0x3FFB3194, 0x3FFBDFED, 0x3FFC8EC0, 0x3FFD3E0C, 0x3FFDEDD2, 0x3FFE9E11, 0x3FFF4ECB]

/-- Knots of the built-in exp2 table, k = 256 to 256. -/
def teTable8 : List Nat :=
  [0x40000000]

/-- Knots of the built-in exp2 table (R152). -/
def teTable : List Nat :=
  teTable0 ++ teTable1 ++ teTable2 ++ teTable3 ++ teTable4 ++ teTable5 ++ teTable6 ++ teTable7 ++ teTable8

/-- The default NaN of FP32. -/
def nan32 : Nat := 0x7FC00000
/-- 1.0 in FP32. -/
def one32 : Nat := 0x3F800000

/-- An exact value rounded to nearest even into FP32. -/
def r32 (v : Num) : Nat := Fmt.fp32.round .rne v

/-- The interpolation of R153 to R155: y = round(T[k] + u * round(T[k+1] - T[k])). -/
def interp (t : List Nat) (k : Nat) (u : Num) : Nat :=
  let y0 := t.getD k 0
  let dk := Fmt.fp32.sub .rne (t.getD (k + 1) 0) y0
  r32 (sumExact .rne [Fmt.fp32.value y0, u.mul (Fmt.fp32.value dk)])

/-- L(x): the FP32 log2 sequence on an exact value that FP32 holds (R153). -/
def log2Seq (x : Num) : Nat :=
  match x with
  | .nan => nan32
  | .inf n => if n then nan32 else 0x7F800000
  | .fin n m e =>
    if m == 0 then 0xFF800000
    else if n then nan32
    else
      let l := m.log2
      let t := (m - 2 ^ l) * 256
      let y := interp tlTable (t / 2 ^ l) (.fin false (t % 2 ^ l) (-(l : Int)))
      r32 (sumExact .rne [Num.ofInt (e + l), Fmt.fp32.value y])

/-- E(x): the FP32 exp2 sequence on an exact value that FP32 holds (R154). Beyond 2^400 and 2^-400 the rounded result
no longer depends on the exponent. -/
def exp2Seq (x : Num) : Nat :=
  match x with
  | .nan => nan32
  | .inf n => if n then 0 else 0x7F800000
  | .fin n m e =>
    let sh := if e < 0 then (-e).toNat else 0
    let v := scaledInt n m e (-(sh : Int))
    let i := v / (2 ^ sh : Nat)
    let t := (v % (2 ^ sh : Nat)).toNat * 256
    let y := interp teTable (t / 2 ^ sh) (.fin false (t % 2 ^ sh) (-(sh : Int)))
    let i' := if i < -400 then -400 else if 400 < i then 400 else i
    r32 ((Fmt.fp32.value y).mul (.fin false 1 i'))

/-- 1 / a and 1 / sqrt(a) for VSFU, with the special operands of R135. -/
def rcpElem (f : Fmt) (rm : RMode) (a : Nat) : Nat := f.div rm (f.round .rne (.fin false 1 0)) a

/-- rsqrt (R135): a negative operand gives the default NaN, a zero an infinity of its sign. -/
def rsqrtElem (f : Fmt) (rm : RMode) (a : Nat) : Nat :=
  let l := f.layout
  match f.value a with
  | .nan => l.nan
  | .inf n => if n then l.nan else l.signedCode false 0
  | .fin n m e =>
    if m == 0 then l.round rm (.inf n)
    else if n then l.nan
    else
      -- 1 / sqrt(v) = sqrt(1 / v)
      let r := Ratio.dyadic m e
      l.roundRatio rm false (Ratio.sqrt ⟨r.den, r.num⟩)

/-- One lane of VSFU (R135). -/
def sfuElem (f : Fmt) (fn : Sfu) (rm : RMode) (a : Nat) : Nat :=
  match fn with
  | .exp2 => f.round .rne (Fmt.fp32.value (exp2Seq (f.value a)))
  | .log2 => f.round .rne (Fmt.fp32.value (log2Seq (f.value a)))
  | .rcp => rcpElem f rm a
  | .rsqrt => rsqrtElem f rm a

/-- A loaded table over [lo, hi] applied to a valid x (R155). -/
def tableSeq (lo hi : Nat) (knots : List Nat) (x : Num) : Nat :=
  let l := Fmt.fp32.value lo
  match sumExact .rne [x, l.neg], sumExact .rne [Fmt.fp32.value hi, l.neg] with
  | .fin _ m e, .fin _ n g =>
    let t := Fmt.fp32.layout.roundRatio .rtz false (divRatio (m * 256) e n g)
    match Fmt.fp32.value t with
    | .fin _ tm te =>
      let sh := if te < 0 then (-te).toNat else 0
      let v := (scaledInt false tm te (-(sh : Int))).toNat
      let k := min (v / 2 ^ sh) 255
      interp knots k (.fin false (v - k * 2 ^ sh) (-(sh : Int)))
    | _ => nan32
  | _, _ => nan32

/-! ### Partial totals (R149 to R161) -/

/-- A partial total: m and s in FP32, n a count (R150). -/
structure Total where
  m : Nat
  s : Nat
  n : Nat
  deriving DecidableEq, Repr

/-- The empty lane that instructions write. -/
def Total.empty : Total := ⟨0, 0, 0⟩

/-- A non-empty lane with a NaN (R150). -/
def Total.poisoned (t : Total) : Bool :=
  t.n != 0 && ((Fmt.fp32.value t.m).isNan || (Fmt.fp32.value t.s).isNan)

/-- Regimes (R149). -/
inductive Regime where
  | general | extreme | additive | tab
  deriving DecidableEq, Repr

/-- What an instruction captured: p, the family (POW, EXP or TAB), quiet, and the selected pair's tables. -/
structure TmCtx where
  p : Nat
  fam : Nat
  quiet : Bool
  entryLo : Nat
  entryHi : Nat
  entry : List Nat
  exitLo : Nat
  exitHi : Nat
  exit : List Nat

/-- The regime that the captured registers fix. -/
def TmCtx.regime (c : TmCtx) : Regime :=
  if c.fam == 2 then .tab
  else match Fmt.fp32.value c.p with
    | .inf _ => .extreme
    | v => if v.isZero then .additive else .general

/-- Whether p is positive. -/
def TmCtx.pPos (c : TmCtx) : Bool := !(Fmt.fp32.value c.p).sign

/-- P(a, b): max for p > 0, min for p < 0; +0 ranks above -0 (R149). -/
def TmCtx.pivot (c : TmCtx) (a b : Nat) : Nat :=
  let x := Fmt.fp32.value a
  let y := Fmt.fp32.value b
  if c.pPos then (if x.ltz y then b else a) else (if y.ltz x then b else a)

/-- rho(a, b) (R156). -/
def TmCtx.rho (c : TmCtx) (a b : Nat) : Nat :=
  let x := Fmt.fp32.value a
  let y := Fmt.fp32.value b
  if x.eqv y then one32
  else
    let d := if c.fam == 0 then
        -- p * (L(a) - L(b)), exact before the one rounding
        let la := Fmt.fp32.value (log2Seq x)
        let lb := Fmt.fp32.value (log2Seq y)
        (Fmt.fp32.value c.p).mul (sumExact .rne [la, lb.neg])
      else (Fmt.fp32.value c.p).mul (sumExact .rne [x, y.neg])
    exp2Seq (Fmt.fp32.value (r32 d))

/-- Whether a term is valid (R157); -0 is read as +0 by POW. -/
def TmCtx.valid (c : TmCtx) (x : Num) : Bool :=
  match c.fam with
  | 0 =>
    if c.regime == .additive || !c.pPos then x.isFin && (Num.fin false 0 0).lt x
    else x.isFin && (Num.fin false 0 0).le x
  | 1 => x.isFin
  | _ => (Fmt.fp32.value c.entryLo).le x && x.le (Fmt.fp32.value c.entryHi)

/-- The outcome of accumulating, merging or finishing. -/
inductive TmOut (α : Type) where
  | ok (v : α) (dom : Bool)
  | domain
  | count
  deriving DecidableEq, Repr

/-- s * rho(m, m') + s' * rho(m2, m'), rounded once. -/
def TmCtx.rescale (c : TmCtx) (s1 m1 s2 m2 m' : Nat) : Nat :=
  r32 (sumExact .rne [(Fmt.fp32.value s1).mul (Fmt.fp32.value (c.rho m1 m')),
    (Fmt.fp32.value s2).mul (Fmt.fp32.value (c.rho m2 m'))])

/-- acc(T, x), x an FP32 code (R158, R161). -/
def TmCtx.acc (c : TmCtx) (t : Total) (x0 : Nat) : TmOut Total :=
  let x := if c.fam == 0 && x0 == 0x80000000 then 0 else x0
  let v := Fmt.fp32.value x
  let n' := t.n + 1
  if !c.valid v then
    if !c.quiet then .domain
    else if n' >= 2 ^ 32 then .count
    else .ok ⟨nan32, nan32, n'⟩ true
  else if n' >= 2 ^ 32 then .count
  else if t.poisoned then .ok ⟨nan32, nan32, n'⟩ false
  else
    match c.regime with
    | .general =>
      if t.n == 0 then .ok ⟨x, one32, 1⟩ false
      else
        let m' := c.pivot t.m x
        .ok ⟨m', r32 (sumExact .rne [(Fmt.fp32.value t.s).mul (Fmt.fp32.value (c.rho t.m m')),
          Fmt.fp32.value (c.rho x m')]), n'⟩ false
    | .extreme =>
      if t.n == 0 then .ok ⟨x, one32, 1⟩ false else .ok ⟨c.pivot t.m x, one32, n'⟩ false
    | .additive =>
      let s0 := if t.n == 0 then 0 else t.s
      .ok ⟨0, Fmt.fp32.add .rne s0 (if c.fam == 0 then log2Seq v else x), n'⟩ false
    | .tab =>
      let s0 := if t.n == 0 then 0 else t.s
      .ok ⟨0, Fmt.fp32.add .rne s0 (tableSeq c.entryLo c.entryHi c.entry v), n'⟩ false

/-- merge(A, B) (R159, R161). -/
def TmCtx.merge (c : TmCtx) (a b : Total) : TmOut Total :=
  if a.n == 0 then .ok b false
  else if b.n == 0 then .ok a false
  else if a.n + b.n >= 2 ^ 32 then .count
  else if a.poisoned || b.poisoned then .ok ⟨nan32, nan32, a.n + b.n⟩ false
  else
    match c.regime with
    | .general =>
      let m' := c.pivot a.m b.m
      .ok ⟨m', c.rescale a.s a.m b.s b.m m', a.n + b.n⟩ false
    | .extreme => .ok ⟨c.pivot a.m b.m, one32, a.n + b.n⟩ false
    | _ => .ok ⟨0, Fmt.fp32.add .rne a.s b.s, a.n + b.n⟩ false

/-- round(exact(a / b)) of FP32 codes. -/
def div32 (a b : Nat) : Nat := Fmt.fp32.div .rne a b

/-- s / n with n an exact integer (R160). -/
def Total.mean (t : Total) : Nat :=
  match Fmt.fp32.value t.s with
  | .fin g m e => Fmt.fp32.layout.roundRatio .rne g (divRatio m e t.n 0)
  | v => r32 v

/-- exit(T), an FP32 code (R160, R161). -/
def TmCtx.exitOf (c : TmCtx) (t : Total) : TmOut Nat :=
  let dom : TmOut Nat := if c.quiet then .ok nan32 true else .domain
  if t.n == 0 then dom
  else if t.poisoned then .ok nan32 false
  else
    let q := t.mean
    let qv := Fmt.fp32.value q
    match c.regime with
    | .general =>
      let z := div32 (log2Seq qv) c.p
      if c.fam == 0 then
        .ok (Fmt.fp32.mul .rne t.m (exp2Seq (Fmt.fp32.value z))) false
      else .ok (Fmt.fp32.add .rne t.m z) false
    | .extreme => .ok t.m false
    | .additive => .ok (if c.fam == 0 then exp2Seq qv else q) false
    | .tab =>
      if (Fmt.fp32.value c.exitLo).le qv && qv.le (Fmt.fp32.value c.exitHi) then
        .ok (tableSeq c.exitLo c.exitHi c.exit qv) false
      else dom

end Sys2Proof
end

