-- ==== Sys2Proof/Machine/Power.lean ====
section
/-!
DEFINITION. Shares, operating levels and lending (10 R201 to R219): what a core holds, the level it pays for, the
messages of Amber, and the operations that begin, move and end a loan. The events and SHPARK, SHUNPARK stand in
Shares.lean.
-/

namespace Sys2Proof.Machine

/-! ### Levels (R202) -/

/-- The cost in shares of a level, in the order of R202; 0 when gated. -/
def levelCost (l : Nat) : Nat := [2, 4, 5, 6, 8, 9, 10, 12, 14, 17, 20, 24].getD l 0

/-- The highest level whose cost is at most eff; none is gated. -/
def levelFor (eff : Nat) : Option Nat := ((List.range 12).filter (fun l => levelCost l <= eff)).getLast?

/-- level.cur of a gated core (R206). -/
def gatedLevel : Nat := 15

/-! ### What a core holds (R208) -/

/-- Shares lent to the core that are here. -/
def Power.inHere (p : Power) : Nat := (p.inb.map (·.here)).foldl (· + ·) 0

/-- Own shares that are here and not parked by SHPARK. Of the parked ones the governor holds `gov`; where SHUNPARK or a
squash has left fewer parked than that, the rest is owed to the core and has not come back yet (R219, R224). -/
def Core.ownHere (k : Core) : Nat := k.power.own - max k.arch.sparked k.power.gov - k.power.sentOwn

/-- H: the shares present at the core. -/
def Core.holding (k : Core) : Nat := k.ownHere + k.power.inHere

/-- Whether the core lends. -/
def Core.lending (k : Core) : Bool := k.power.mode == .lend

/-- share.eff.eff: 0 while the core lends; a halted or dark core pays for no level. -/
def Core.eff (k : Core) : Nat :=
  match k.power.mode with
  | .lend | .halted | .dark => 0
  | _ => min k.holding 24

/-- share.eff.parked. -/
def Core.parked (k : Core) : Nat := k.holding - k.eff

/-- The target level. -/
def Core.target (k : Core) : Option Nat := levelFor k.eff

/-- The level register (R206): tgt is 0 when gated. -/
def Core.levelReg (k : Core) : Word :=
  BitVec.ofNat 64 ((if k.power.cur == gatedLevel then 0 else k.target.getD 0) * 256 + k.power.cur)

/-- share.own (R207). -/
def Core.shareOwn (k : Core) : Word := BitVec.ofNat 64 (k.arch.sparked * 256 + k.power.own)

/-- share.eff (R208). -/
def Core.shareEff (k : Core) : Word := BitVec.ofNat 64 (k.parked * 0x10000 + k.eff)

/-- share.out.amount: shares sent along edges, own and forwarded, that have not come back (R209). -/
def Power.out (p : Power) : Nat := p.sentOwn + (p.inb.map (·.sent)).foldl (· + ·) 0

/-- share.out (R209). -/
def Core.shareOut (k : Core) : Word :=
  BitVec.ofNat 64 (k.power.out * 0x100000 +
    (match k.power.edge with
     | none => 0
     | some (.core t) => 0x40000 + t.val
     | some (.pool n) => 0x80000 + n.val * 0x1000))

/-- Recalls that shares present here can meet. -/
def Power.dueSum (p : Power) : Nat := (p.inb.map (fun b => min b.due b.here)).foldl (· + ·) 0

/-- Whether a gated core asks for its wake (R203): it may run and holds 2 shares or more. -/
def Core.wantsWake (k : Core) : Bool :=
  k.power.cur == gatedLevel && k.power.wake.isNone && 2 <= k.eff && (k.run == .running || k.run == .held)

/-- A wake raised where one is wanted. -/
def Core.raiseWake (k : Core) (now : Word) : Core :=
  if k.wantsWake then { k with power := { k.power with wake := some ⟨now, 0⟩ } } else k

/-! ### Giving back (R215) -/

/-- Shares that can leave at once: all that are here while the core lends or pays for no level, and else what its
current level does not cost. -/
def Core.spare (k : Core) : Nat := if k.power.cur == gatedLevel then k.holding else k.holding - levelCost k.power.cur

/-- Pays what is due from `room` spare shares, contribution by contribution; yields the paid amounts. DESIGN CHOICE (log
11): of several recalls pending at one core the first listed is paid first (R215 names no order). -/
def payDue : Nat → List Contrib → List Contrib × List (Contrib × Nat)
  | _, [] => ([], [])
  | room, c :: cs =>
    let m := min room (min c.due c.here)
    let r := payDue (room - m) cs
    ({ c with here := c.here - m, due := c.due - m } :: r.1, if m = 0 then r.2 else (c, m) :: r.2)

/-- Contributions that hold nothing and owe nothing are forgotten. -/
def pruneInb (cs : List Contrib) : List Contrib :=
  cs.filter (fun c => c.live || c.here != 0 || c.sent != 0 || c.gov != 0 || c.due != 0)

/-- A core gives back what it can of what is due, at once. -/
def State.settle (s : State) (c : CoreId) : State :=
  let k := s.core c
  let r := payDue k.spare k.power.inb
  if r.2.isEmpty then s
  else
    { s.setCore c { k with power := { k.power with inb := pruneInb r.1 } } with
      amber := s.amber ++ r.2.map (fun x => .ret (.core c) x.1.sender x.1.origin x.1.hop x.2) }

/-! ### Lending along an edge (R212, R213) -/

/-- Whether an origin is a core. -/
def Holder.isCore : Holder → Bool
  | .core _ => true
  | .pool _ => false

/-- The holder at the far end of an edge. `pool` gives the key of the group's pool on a line. -/
def Edge.dest (pool : Nat) : Edge → Holder
  | .core t => .core t
  | .pool _ => .pool pool

/-- Inserts by hop count, after equals. -/
def insertHop (c : Contrib) : List Contrib → List Contrib
  | [] => [c]
  | d :: ds => if c.hop < d.hop then c :: d :: ds else d :: insertHop c ds

/-- Contributions in ascending order of hop count, those of one hop count in the order they arrived. -/
def byHop (cs : List Contrib) : List Contrib := cs.reverse.foldr insertHop []

/-- Whether a contribution may be forwarded by a core (R212); a pool's shares are not sent back into that pool (log
11). -/
def Contrib.mayForward (self dst : Holder) (c : Contrib) : Bool :=
  c.hop < 8 && c.origin != self && (c.origin.isCore || c.origin != dst) && (c.live || c.here != 0 || c.sent != 0)

/-- Fits contributions into the room that F has: each sends on more, or asks back what no longer fits. `notices` also
passes on, with zero shares, what has no room. -/
def fit (self dst : Holder) (notices : Bool) : Nat → List Contrib → List Contrib × List Amber
  | _, [] => ([], [])
  | room, c :: cs =>
    if !c.mayForward self dst then
      let r := fit self dst notices room cs
      (c :: r.1, r.2)
    else
      let want := min room (c.here + c.sent)
      let up := min (want - c.sent) c.here
      let down := c.sent - want
      let r := fit self dst notices (room - want) cs
      ({ c with here := c.here - up, sent := c.sent + up } :: r.1,
        (if up != 0 || notices then [.lend self dst c.origin (c.hop + 1) up] else [])
        ++ (if down != 0 then [.recallMsg self dst c.origin (c.hop + 1) down false] else []) ++ r.2)

/-- A lending core sends its target the change of F: its own shares first, then contributions (R212). -/
def State.forward (s : State) (c : CoreId) (dst : Holder) (notices : Bool) : State :=
  let k := s.core c
  let own := k.ownHere
  let r := fit (.core c) dst notices (24 - min 24 (k.power.sentOwn + own)) (byHop k.power.inb)
  { s.setCore c { k with power := { k.power with inb := r.1, sentOwn := k.power.sentOwn + own } } with
    amber := s.amber ++ (if own = 0 && !notices then [] else [.lend (.core c) dst (.core c) 1 own]) ++ r.2 }

/-- Recalls everything the core has sent along an edge. -/
def State.recallAll (s : State) (c : CoreId) (dst : Holder) : State :=
  let k := s.core c
  let fwd := (k.power.inb.filter (Contrib.mayForward (.core c) dst)).map
    (fun b => Amber.recallMsg (.core c) dst b.origin (b.hop + 1) b.sent true)
  { s with amber := s.amber ++ [.recallMsg (.core c) dst (.core c) 1 k.power.sentOwn true] ++ fwd }

/-- A wait begins with an edge: the core lends F and is gated at once (R203, R213). -/
def State.beginLend (s : State) (c : CoreId) (e : Edge) (dst : Holder) : State :=
  let k := s.core c
  let s := s.setCore c { k with power := { k.power with mode := .lend, edge := some e, cur := gatedLevel, wake := none } }
  (s.settle c).forward c dst true

/-- The edge of a waiting core moves (R213). -/
def State.moveLend (s : State) (c : CoreId) (e : Edge) (old dst : Holder) : State :=
  let s := s.recallAll c old
  let k := s.core c
  (s.setCore c { k with power := { k.power with edge := some e } }).forward c dst true

/-- A lending wait ends: recall along the edge (R213). -/
def State.endLend (s : State) (c : CoreId) (dst : Holder) : State :=
  let s := s.recallAll c dst
  let k := s.core c
  let mode : PMode := if k.power.out = 0 then .run else .recalling
  let k := { k with power := { k.power with mode := mode, edge := none } }
  s.setCore c (k.raiseWake s.time)

/-! ### Groups of a barrier line (08 R175 to R177) -/

/-- en of a bm.n value. -/
def bmEn (w : Word) : Bool := bit w.toNat 7

/-- The setting a bm.n value names: a buddy node's order, 10 for the core itself, 11 for the partition; levels 1, 3 and
4 are nodes of order 0, 7 and 9 (R175). -/
def bmSetting (w : Word) : Nat :=
  match bits w.toNat 0 3 with
  | 0 => 10
  | 1 => 0
  | 2 => bits w.toNat 8 4
  | 3 => 7
  | 4 => 9
  | _ => 11

/-- The instance of a setting that holds a core. -/
def instanceOf (setting : Nat) (c : CoreId) (part : Option Nat) : Nat :=
  if setting = 10 then c.val
  else if setting = 11 then part.getD 0
  else CoreId.row c / nodeRows setting * 64 + CoreId.col c / nodeCols setting

/-- The key of the group of line n that a core's bm.n names within its partition (R177, 20 R353). -/
def Core.groupKey (k : Core) (c : CoreId) (n : Reg8) : Nat :=
  let st := bmSetting k.arch.bm[n]
  n.val + 8 * (st + 16 * (instanceOf st c k.part + 65536 * (match k.part with | none => 0 | some p => p + 1)))

/-- The far end of a core's current edge. -/
def Core.edgeDest (k : Core) (c : CoreId) : Option Holder :=
  match k.power.edge with
  | none => none
  | some (.core t) => some (.core t)
  | some (.pool n) => some (.pool (k.groupKey c n))

/-! ### Waits (09 R199, R200) and what a squash or a trap withdraws -/

/-- A core's wait withdrawn: a loan along its edge is recalled, a listed take leaves its list (R213, R218). -/
def State.dropWait (s : State) (c : CoreId) : State :=
  let k := s.core c
  match k.wait with
  | none => s
  | some w =>
    let s := match w.instr with
      | .fetake _ a => s.onCore (addrCore (k.arch.getX a))
          (fun o => { o with deferred := o.deferred.filter (fun d => d.taker != c) })
      | _ => s
    let s := s.onCore c (fun k => { k with wait := none })
    if k.power.mode == .lend then
      match k.edgeDest c with
      | none => s
      | some d => s.endLend c d
    else s

end Sys2Proof.Machine
end

