-- ==== Sys2Proof/Machine/VecPush.lean ====
section
/-!
DEFINITION. Pushing into the vector sequencer (01 R14, R16, R26, 06 R116, R118, R142): liveness at the push, the
operands captured, the entry and the copy a trap restores.
-/

namespace Sys2Proof.Machine

/-- The lowest-numbered free register of a triple, and else the first free source in field order (R26, R151). -/
def freeSource (a : Arch) (srcs : List (VReg × Bool)) : Option VReg := (srcs.map (·.1)).find? (fun r => !a.isLive r)

/-- Liveness after an instruction's push: last uses free, and a destination's write wins (R26). -/
def Arch.liveAfter (a : Arch) (n : Names) : Arch :=
  let freed := n.srcs.foldl (fun (b : Arch) s => if s.2 then b.setLive s.1 false else b) a
  n.dsts.foldl (fun (b : Arch) r => b.setLive r true) freed

/-- Whether a pending entry may write a predicate: a VLDG with ff that names it (R118). -/
def Core.predPending (k : Core) (p : PReg) : Bool :=
  p != 0 && k.seq.any (fun e => match e.op.instr with
    | .vldg o ff => ff && o.gov.pred == p
    | _ => false)

/-- What an instruction captures at the push (R14). -/
def Core.pushed (k : Core) (i : Instr) : Pushed :=
  let n := namesOf i
  ⟨i, k.arch.pc, (n.xa.map k.arch.getX).getD 0, (n.xb.map k.arch.getX).getD 0, k.arch.getP n.pred,
    k.arch.shape, k.arch.tmode⟩

/-- The core after a push: the entry, the liveness, the record of pushes, and the instruction retired. -/
def Core.push (k : Core) (i : Instr) (n : Names) (rep : Option Rep) : Core :=
  let p := k.pushed i
  let e : Entry := ⟨p, k.ilen, k.curChunk, k.chunkCnt, k.arch, rep⟩
  let a := { k.arch.liveAfter n with
    recent := (p :: k.arch.recent).take 15
    pushes := min 15 (k.arch.pushes + 1) }
  Core.retire { k with seq := k.seq ++ [e] } a

/-- A vector instruction reaches the push with the vectors that it names: VFREE for a free source, a stall behind a
predicate's writer or a full sequencer, and else the entry. -/
def State.vpushAs (s : State) (i : Instr) (n : Names) (rep : Option Rep) : Out :=
  let k := s.me
  match freeSource k.arch n.srcs with
  | some r => s.trap .vfree (BitVec.ofNat 64 r.val)
  | none =>
    if k.predPending n.pred || k.seq.length >= 16 then s.stall
    else .next (s.setMe { k.push i n rep with progress := s.time })

/-- A vector instruction reaches the push. -/
def State.vpush (s : State) (i : Instr) : Out := s.vpushAs i (namesOf i) none

/-! ### The meanings of the pushed instructions of pages 2 to 4: each is a push, and its effect follows when the entry
executes (VecExec.lean). -/

/-- VADD. -/
def execVadd (o : VBin) (s : State) : Out := s.vpush (.vadd o)
/-- VSUB. -/
def execVsub (o : VBin) (s : State) : Out := s.vpush (.vsub o)
/-- VMUL. -/
def execVmul (o : VBin) (s : State) : Out := s.vpush (.vmul o)
/-- VMIN. -/
def execVmin (o : VBin) (s : State) : Out := s.vpush (.vmin o)
/-- VMAX. -/
def execVmax (o : VBin) (s : State) : Out := s.vpush (.vmax o)
/-- VAND. -/
def execVand (o : VBin) (s : State) : Out := s.vpush (.vand o)
/-- VOR. -/
def execVor (o : VBin) (s : State) : Out := s.vpush (.vor o)
/-- VXOR. -/
def execVxor (o : VBin) (s : State) : Out := s.vpush (.vxor o)
/-- VSLL. -/
def execVsll (o : VBin) (s : State) : Out := s.vpush (.vsll o)
/-- VSRL. -/
def execVsrl (o : VBin) (s : State) : Out := s.vpush (.vsrl o)
/-- VSRA. -/
def execVsra (o : VBin) (s : State) : Out := s.vpush (.vsra o)
/-- VFMA (R128). -/
def execVfma (var : FmaVar) (rm : RMode) (o : VTri) (s : State) : Out := s.vpush (.vfma var rm o)
/-- VDIV. -/
def execVdiv (o : VBin) (s : State) : Out := s.vpush (.vdiv o)
/-- VSQRT. -/
def execVsqrt (o : VUn) (s : State) : Out := s.vpush (.vsqrt o)
/-- VABS. -/
def execVabs (o : VUn) (s : State) : Out := s.vpush (.vabs o)
/-- VNEG. -/
def execVneg (o : VUn) (s : State) : Out := s.vpush (.vneg o)
/-- VCMP (R122). -/
def execVcmp (o : VCmpOps) (s : State) : Out := s.vpush (.vcmp o)
/-- VSEL (R123). -/
def execVsel (o : VTri) (s : State) : Out := s.vpush (.vsel o)
/-- VSPLAT (R129). -/
def execVsplat (d : VReg) (a : XSrc) (g : Gov) (ty : Fmt) (s : State) : Out := s.vpush (.vsplat d a g ty)
/-- VMOV (R129). -/
def execVmov (o : VOne) (s : State) : Out := s.vpush (.vmov o)
/-- VCVT (R130). -/
def execVcvt (o : VOne) (dst : Fmt) (sat : Bool) (rm : RMode) (s : State) : Out := s.vpush (.vcvt o dst sat rm)
/-- VQNT (R131): it writes d and b. -/
def execVqnt (o : VQOps) (s : State) : Out := s.vpush (.vqnt o)
/-- VDQNT (R132). -/
def execVdqnt (o : VQOps) (lb : Bool) (s : State) : Out := s.vpush (.vdqnt o lb)
/-- VRED (R133): maxi and mini write b too. -/
def execVred (o : VOne) (red : Red) (u : Bool) (rm : RMode) (b : VReg) (s : State) : Out := s.vpush (.vred o red u rm b)
/-- VPERM (R136). -/
def execVperm (o : VOne) (b : VReg) (lb : Bool) (s : State) : Out := s.vpush (.vperm o b lb)
/-- VSLIDE (R136). -/
def execVslide (o : VOne) (b : XSrc) (s : State) : Out := s.vpush (.vslide o b)
/-- VEXT (R136). -/
def execVext (a : VReg) (la : Bool) (b : XSrc) (ty : Fmt) (s : State) : Out := s.vpush (.vext a la b ty)
/-- VINS (R136). -/
def execVins (d : VReg) (a b : XReg) (ty : Fmt) (s : State) : Out := s.vpush (.vins d a b ty)
/-- VDOT (R134). -/
def execVdot (o : VTri) (mix : Bool) (s : State) : Out := s.vpush (.vdot o mix)
/-- VSFU (R135). -/
def execVsfu (o : VOne) (fn : Sfu) (rm : RMode) (s : State) : Out := s.vpush (.vsfu o fn rm)
/-- VIOTA (R129). -/
def execViota (d : VReg) (a b : XReg) (g : Gov) (ty : Fmt) (s : State) : Out := s.vpush (.viota d a b g ty)
/-- VLDL (R138). -/
def execVldl (o : VMem) (s : State) : Out := s.vpush (.vldl o)
/-- VSTL (R138). -/
def execVstl (o : VMem) (s : State) : Out := s.vpush (.vstl o)
/-- VLDLS (R139). -/
def execVldls (o : VStr) (s : State) : Out := s.vpush (.vldls o)
/-- VSTLS (R139). -/
def execVstls (o : VStr) (s : State) : Out := s.vpush (.vstls o)
/-- VGATH (R140). -/
def execVgath (o : VIdx) (s : State) : Out := s.vpush (.vgath o)
/-- VSCAT (R140). -/
def execVscat (o : VIdx) (s : State) : Out := s.vpush (.vscat o)
/-- VLDG (R141). -/
def execVldg (o : VMem) (ff : Bool) (s : State) : Out := s.vpush (.vldg o ff)
/-- VSTG (R141). -/
def execVstg (o : VMem) (s : State) : Out := s.vpush (.vstg o)
/-- VPOPC (R120). -/
def execVpopc (a : VReg) (la : Bool) (p : PReg) (ty : Fmt) (s : State) : Out := s.vpush (.vpopc a la p ty)
/-- TMCLR (07 R164). -/
def execTmclr (d : VReg) (g : Gov) (s : State) : Out := s.vpush (.tmclr d g)
/-- TMACC: it reads its d triple (07 R164). -/
def execTmacc (o : VOne) (s : State) : Out := s.vpush (.tmacc o)
/-- TMMERGE. -/
def execTmmerge (d a : VReg) (la : Bool) (b : VReg) (lb : Bool) (g : Gov) (s : State) : Out := s.vpush (.tmmerge d a la b lb g)
/-- TMFOLD. -/
def execTmfold (d a : VReg) (la : Bool) (p : PReg) (s : State) : Out := s.vpush (.tmfold d a la p)
/-- TMEXIT. -/
def execTmexit (d a : VReg) (la : Bool) (g : Gov) (s : State) : Out := s.vpush (.tmexit d a la g)
/-- TMTAB (07 R165). -/
def execTmtab (a : XReg) (pair exit : Bool) (s : State) : Out := s.vpush (.tmtab a pair exit)

/-- VFREE (R144): it frees v(8 * sub + i) for every set bit i of its code, live or not. -/
def execVfree (sub : Fin 4) (code : BitVec 8) (s : State) : Out :=
  s.vpushAs (.vfree sub code) ⟨(freeList sub code).filterMap (fun r => if s.me.arch.isLive r then some (r, true) else none),
    [], none, none, 0⟩ none

/-- Whether VLOOP may repeat an instruction (R142): no VLOOP, no VFREE, no VLDG with ff, no last-use bit. -/
def loopable (i : Instr) : Bool :=
  !(namesOf i).srcs.any (·.2) && (match i with
    | .vloop _ _ | .vfree _ _ => false
    | .vldg _ ff => !ff
    | _ => true)

/-- Vectors that the operations of a body read before one of them writes them. -/
def bodyReads : List VReg → List Pushed → List VReg
  | _, [] => []
  | w, p :: ps =>
    let n := namesOf p.instr
    ((n.srcs.map (·.1)).filter (fun r => !w.contains r)) ++ bodyReads (w ++ n.dsts) ps

/-- What a VLOOP names: its repetitions read and write what its body does (R142, R26). -/
def loopNames (a : XReg) (body : List Pushed) : Names :=
  ⟨(bodyReads [] body).map (·, false), (body.map (fun p => (namesOf p.instr).dsts)).flatten, some a, none, 0⟩

/-- VLOOP (R142); with k = 0 it names no vector. -/
def execVloop (a : XReg) (n : Nat) (s : State) : Out :=
  let k := s.me
  let body := (k.arch.recent.take n).reverse
  let times := min (k.arch.getX a).toNat 65535
  if k.arch.pushes < n || body.length < n || !(body.all (fun p => loopable p.instr)) then s.illegal
  else s.vpushAs (.vloop a n) (if times = 0 then namesOf (.vloop a n) else loopNames a body) (some ⟨body, times, 1, 0⟩)

/-- VSYNC (R143). -/
def execVsync (s : State) : Out := if s.me.seq.isEmpty then s.done s.me.arch else s.stall

end Sys2Proof.Machine
end

