-- ==== Sys2Proof/Machine/VecExec.lean ====
section
/-!
DEFINITION. What a vector-sequencer entry does when it executes (06 R114 to R144, 07 R158 to R165): its traps, its
faults and its effects, computed from the state and applied as one.
-/

namespace Sys2Proof.Machine

/-- The effects of one executed operation. -/
structure Eff where
  v : List (VReg × VWord)
  /-- the element of q0 that it takes -/
  pop : Option Word
  push : Option Word
  amax : AmaxDelta
  dom : Bool
  p : Option (PReg × Nat)
  /-- local bytes written, in order: address and bytes -/
  spad : List (Nat × List Byte)
  /-- global bytes written, in order: physical address and bytes -/
  glob : List (Nat × List Byte)
  /-- local bytes read -/
  spadRd : List (Nat × Nat)
  /-- global accesses: global address, physical address, bytes, whether a write -/
  acc : List (Nat × Nat × Nat × Bool)
  table : Option (Fin 4 × TmTable)
  deriving DecidableEq, Repr

/-- No effect. -/
def Eff.zero : Eff := ⟨[], none, none, .zero, false, none, [], [], [], [], none⟩

/-- What executing one operation leads to. -/
inductive VecOut where
  | trap (t : Trap)
  | fault (cls : FaultClass) (place : Place) (addr : Word)
  /-- the operation waits for a gate's cutover (20 R365) -/
  | wait
  | ok (e : Eff)
  deriving DecidableEq, Repr

/-- A trap with a lane, element or address as its value. -/
def laneTrap (c : Cause) (n : Nat) : VecOut := .trap ⟨c, BitVec.ofNat 64 n⟩

/-- One register written. -/
def okV (d : VReg) (v : VWord) : VecOut := .ok { Eff.zero with v := [(d, v)] }

/-- The b operand as a lane function (R117). -/
def VSrc.lanes (b : VSrc) (a : Arch) (p : Pushed) (w : Nat) (i : Nat) : Nat :=
  match b with
  | .vec r _ => lane a.v[r] w i
  | .x _ => p.xb.toNat % 2 ^ w
  | .q0 => (a.q0.headD 0).toNat % 2 ^ w

/-- A scalar operand at 64 bits (R136); `x` is its captured register. -/
def XSrc.val (b : XSrc) (a : Arch) (x : Word) : Word :=
  match b with
  | .x _ => x
  | .q0 => a.q0.headD 0

/-- A lane-by-lane result of width w. -/
def elementwise (a : Arch) (d : VReg) (g : Gov) (w act : Nat) (f : Nat → Nat) : VecOut :=
  okV d (merge w (2048 / w) act g.zero a.v[d] f)

/-- A lane-by-lane result that may clamp: each clamped lane sets amaxf.sat (R126). -/
def elementwiseSat (a : Arch) (d : VReg) (g : Gov) (w act : Nat) (f : Nat → Sat) : VecOut :=
  .ok { Eff.zero with
    v := [(d, merge w (2048 / w) act g.zero a.v[d] (fun i => (f i).val))]
    amax := ⟨none, false, (List.range act).any (fun i => (f i).sat)⟩ }

/-- VADD, VSUB and VMUL. -/
def vecAri (op : Ari) (o : VBin) (a : Arch) (p : Pushed) : VecOut :=
  let w := o.ty.width
  let act := min p.count o.ty.lanes
  let fa := lane a.v[o.a] w
  let fb := VSrc.lanes o.b a p w
  match if o.ty == .res then resLaneBad act [fa, fb] else none with
  | some i => laneTrap .fmt i
  | none => elementwiseSat a o.d o.gov w act (fun i => ariElem op o.ty o.u o.sat o.rm (fa i) (fb i))

/-- A binary operation on element codes. DESIGN CHOICE (log 8): with type=res, VAND, VOR and VXOR here and VSEL, VMOV
and VSPLAT below work on the lanes' bits, with neither R42's check nor its canonical form; R123, R125 and R129 give
bits, and R42 says that every RES value the device writes is canonical. -/
def vecBin (o : VBin) (a : Arch) (p : Pushed) (f : Nat → Nat → Nat) : VecOut :=
  let w := o.ty.width
  elementwise a o.d o.gov w (min p.count o.ty.lanes) (fun i => f (lane a.v[o.a] w i) (VSrc.lanes o.b a p w i))

/-- A unary operation on element codes. -/
def vecUn (o : VUn) (a : Arch) (p : Pushed) (f : Nat → Sat) : VecOut :=
  let w := o.ty.width
  elementwiseSat a o.d o.gov w (min p.count o.ty.lanes) (fun i => f (lane a.v[o.a] w i))

/-- VCMP (R122); a res lane that R42 rejects traps with FMT. -/
def vecCmp (o : VCmpOps) (a : Arch) (p : Pushed) : VecOut :=
  let w := o.ty.width
  let act := min p.count o.ty.lanes
  let fa := lane a.v[o.a] w
  let fb := VSrc.lanes o.b a p w
  match if o.ty == .res then resLaneBad act [fa, fb] else none with
  | some i => laneTrap .fmt i
  | none => elementwise a o.d o.gov w act (fun i => if cmpElem o.ty o.u o.cond (fa i) (fb i) then 2 ^ w - 1 else 0)

/-- VCVT (R130). -/
def vecCvt (o : VOne) (dst : Fmt) (sat : Bool) (rm : RMode) (a : Arch) (p : Pushed) : VecOut :=
  let w := o.ty.width
  let m := 2048 / max w dst.width
  let act := min p.count m
  let fa := lane a.v[o.a] w
  let bad := if o.ty == .res then resLaneBad act [fa]
    else if o.ty == .s24 then firstLane act (fun i => s24Bad (fa i)) else none
  match bad with
  | some i => laneTrap .fmt i
  | none =>
    let f := fun i => convElem o.ty dst rm sat (fa i)
    .ok { Eff.zero with
      v := [(o.d, ofLanes dst.width m (fun i =>
        if i < act then (f i).val else if o.gov.zero then 0 else lane a.v[o.d] dst.width i))]
      amax := (List.range act).foldl (fun d i => d.join (AmaxDelta.ofElem (o.ty.value (fa i)) (f i).sat)) .zero }

/-- The latched permutation, where perm is enabled and the instruction asks for it (16 R302, R303). -/
def Arch.permFor (a : Arch) (pm : Bool) : Option (List Nat) :=
  if pm && bit a.perm.toNat 32 then some (a.permT.toList.map (·.toNat)) else none

/-- The block length of a bl code. -/
def blLen (bl : Fin 3) : Nat := 8 * 2 ^ bl.val

/-- Whether a quantised element is a NaN that becomes 0, which sets amaxf.sat (R37). -/
def quantNan (f : Fmt) (x : Num) : Bool := x.isNan && (f == .int8 || f == .int4 || f == .e2m1)

/-- VQNT (R131). -/
def vecQnt (o : VQOps) (a : Arch) (p : Pushed) : VecOut :=
  let src : Fmt := if o.bf then .bf16 else .fp32
  let m := src.lanes
  let l := blLen o.bl
  let act := min p.count m
  let t := a.permFor o.pm
  let x := fun i => src.value (lane a.v[o.a] src.width (permIdx t m i))
  let blocks := (m + l - 1) / l
  let members := fun j => ((List.range l).map (fun i => j * l + i)).filter (· < act)
  let scales := (List.range blocks).map (fun j => quantScale o.ty ((members j).map x))
  let wd := o.ty.width
  .ok { Eff.zero with
    v := [(o.d, ofLanes wd m (fun i =>
            if i < act then quantOf o.ty (scales.getD (i / l) 0) (x i)
            else if o.gov.zero then 0 else lane a.v[o.d] wd i)),
          (o.b, ofLanes 32 blocks (fun j =>
            if j * l < act then scales.getD j 0 else if o.gov.zero then 0 else lane a.v[o.b] 32 j))]
    amax := (List.range act).foldl (fun d i => d.join (AmaxDelta.ofElem (x i) (quantNan o.ty (x i)))) .zero }

/-- VDQNT (R132); amaxf.sat follows R37 from the product. -/
def vecDqnt (o : VQOps) (a : Arch) (p : Pushed) : VecOut :=
  let dst : Fmt := if o.bf then .bf16 else .fp32
  let m := dst.lanes
  let l := blLen o.bl
  let act := min p.count m
  let t := a.permFor o.pm
  let blocks := (act + l - 1) / l
  match firstLane blocks (fun j => s24Bad (lane a.v[o.b] 32 j)) with
  | some j => laneTrap .fmt j
  | none =>
    let q := fun i => lane a.v[o.a] o.ty.width i
    let ys := (List.range act).map (fun i => (permIdx t m i, dequantElem o.ty dst (q i) (lane a.v[o.b] 32 (i / l))))
    .ok { Eff.zero with
      v := [(o.d, ofLanes dst.width m (fun i =>
        match ys.find? (fun y => y.1 == i) with
        | some y => y.2
        | none => if o.gov.zero then 0 else lane a.v[o.d] dst.width i))]
      amax := (List.range act).foldl (fun d i =>
        d.join (AmaxDelta.ofElem (o.ty.value (q i)) (dequantSat o.ty dst (q i) (lane a.v[o.b] 32 (i / l))))) .zero }

/-- VRED (R133). -/
def vecRed (o : VOne) (red : Red) (u : Bool) (rm : RMode) (b : VReg) (a : Arch) (p : Pushed) : VecOut :=
  let w := o.ty.width
  let act := min p.count o.ty.lanes
  let fa := lane a.v[o.a] w
  let low := fun (v : Nat) (w : Nat) => ofLanes w 1 (fun _ => v)
  match red with
  | .add =>
    match if o.ty == .res then resLaneBad act [fa] else none with
    | some i => laneTrap .fmt i
    | none => okV o.d (low (redAdd o.ty rm act fa) w)
  | .max => okV o.d (low (redExtreme true o.ty u act fa).1 w)
  | .min => okV o.d (low (redExtreme false o.ty u act fa).1 w)
  | .maxi =>
    let r := redExtreme true o.ty u act fa
    .ok { Eff.zero with v := [(o.d, low r.1 w), (b, low r.2 32)] }
  | .mini =>
    let r := redExtreme false o.ty u act fa
    .ok { Eff.zero with v := [(o.d, low r.1 w), (b, low r.2 32)] }

/-! ### Vector memory (R137 to R141) -/

/-- The lowest of a list of integers. -/
def lowest : List Int → Option Int
  | [] => none
  | x :: xs => some (xs.foldl min x)

/-- The checks of all active elements of a local access: ALIGN, then LOCALBOUND (R137, 12 R229). -/
def localElemTrap (stash e : Nat) (as : List Int) : Option Trap :=
  match lowest (as.filter (fun x => x % (max e 1 : Nat) != 0)) with
  | some x => some ⟨.align, wordOfInt x⟩
  | none =>
    let n : Nat := max e 1
    let off := fun (x : Int) =>
      if x < 0 || x < stash then some x
      else if x + n - 1 > 0x7DFFF then some (max x 0x7E000) else none
    (lowest (as.filterMap off)).map (fun x => ⟨.localbound, wordOfInt x⟩)

/-- An element's code from the bytes at its address; a 4-bit element i is a nibble (R29). -/
def elemOf (f : Fmt) (i : Nat) (raw : Nat) : Nat := if f.width = 4 then bits raw (4 * (i % 2)) 4 else raw

/-- The stores of active elements in ascending lane order: whole elements, or for 4-bit types whole bytes, the nibble
past the last active element zero (R137). -/
def storeList (f : Fmt) (act : Nat) (addr : Nat → Nat) (val : Nat → Nat) : List (Nat × List Byte) :=
  if f.width = 4 then
    (List.range ((act + 1) / 2)).map (fun t =>
      (addr (2 * t), [BitVec.ofNat 8 (val (2 * t) + if 2 * t + 1 < act then val (2 * t + 1) * 16 else 0)]))
  else (List.range act).map (fun i => (addr i, numBytes (elemBytes f) (val i)))

/-- A local access: its active elements' addresses, checked; then the continuation. -/
def localAccess (k : Core) (c : CoreId) (f : Fmt) (act : Nat) (addr : Nat → Int) (load : Bool)
    (go : (Nat → Nat) → VecOut) : VecOut :=
  let n := max (elemBytes f) 1
  let as := (List.range act).map addr
  match localElemTrap k.arch.stashSize (elemBytes f) as with
  | some t => .trap t
  | none =>
    match if load then as.findSome? (fun x => k.poisoned x.toNat n) else none with
    | some d => .fault .memErr .core (coreAddr c (d * 8))
    | none => go (fun i => (addr i).toNat)

/-- A local load. -/
def vecLoad (k : Core) (c : CoreId) (d : VReg) (g : Gov) (f : Fmt) (count : Nat) (addr : Nat → Int) : VecOut :=
  let act := min count f.lanes
  let n := max (elemBytes f) 1
  localAccess k c f act addr true (fun at_ =>
    .ok { Eff.zero with
      v := [(d, merge f.width f.lanes act g.zero k.arch.v[d] (fun i => elemOf f i (memRead k.arch.spad (at_ i) n)))]
      spadRd := (List.range act).map (fun i => (at_ i, n)) })

/-- A local store. -/
def vecStore (k : Core) (c : CoreId) (r : VReg) (f : Fmt) (count : Nat) (addr : Nat → Int) : VecOut :=
  let act := min count f.lanes
  localAccess k c f act addr false (fun at_ =>
    .ok { Eff.zero with spad := storeList f act at_ (lane k.arch.v[r] f.width) })

/-- The traps of a global vector access: the pointer's format, PTROVF, ALIGN (R141). DESIGN CHOICE (log 8): an address
below 0 is PTROVF, as 14 R268 has it for a scalar access. -/
def globalElemTrap (p : Pushed) (f : Fmt) (as : List Int) : Option Trap :=
  if !(ptrFmt p.xa == 0 || ptrFmt p.xa == f.code) || ptrBlk p.xa != 0 then some ⟨.fmt, p.xa⟩
  else match as.find? (fun (x : Int) => x < 0 || x + ((max (elemBytes f) 1 : Nat) : Int) - 1 >= (2 ^ 56 : Int)) with
    | some x => some ⟨.ptrovf, wordOfInt x⟩
    | none => (lowest (as.filter (fun x => x % (max (elemBytes f) 1 : Nat) != 0))).map (fun x => ⟨.align, wordOfInt x⟩)

/-- The physical address of a global element, or the class of its fault: a walk's, or MEMERR for an uncorrectable line
that a load reads or a store fills. -/
def State.elemPa (s : State) (c : CoreId) (k : Core) (va : Int) (w : Bool) : Except FaultClass Nat :=
  match s.translate c k.part va.toNat w with
  | .error f => .error f
  | .ok pa => if (if w then s.fillBad c pa else s.readBad c pa) then .error .memErr else .ok pa

/-- The lowest active lane whose access would fault, and the class. -/
def State.elemFault (s : State) (c : CoreId) (k : Core) (act : Nat) (addr : Nat → Int) (w : Bool) : Option (Nat × FaultClass) :=
  (List.range act).findSome? (fun i =>
    match s.elemPa c k (addr i) w with
    | .error f => some (i, f)
    | .ok _ => none)

/-- The physical address of an element that does not fault. -/
def State.paOf (s : State) (c : CoreId) (k : Core) (addr : Nat → Int) (w : Bool) (i : Nat) : Nat :=
  match s.translate c k.part (addr i).toNat w with
  | .ok pa => pa
  | .error _ => 0

/-- VLDG (R141) of instruction `at_`, as chunk and number in it. -/
def vecLdg (s : State) (c : CoreId) (at_ : Nat × Nat) (o : VMem) (ff : Bool) (p : Pushed) (j : Nat) : VecOut :=
  let k := s.core c
  let n := max (elemBytes o.ty) 1
  let act := min p.count o.ty.lanes
  let addr := fun i => unitBase p o.slot j + elemOff o.ty i
  match globalElemTrap p o.ty ((List.range act).map addr) with
  | some t => .trap t
  | none =>
    let go (m : Nat) (pw : Option (PReg × Nat)) : VecOut :=
      .ok { Eff.zero with
        v := [(o.v, merge o.ty.width o.ty.lanes m o.gov.zero k.arch.v[o.v]
          (fun i => elemOf o.ty i (s.gRead c k.arch at_ (s.paOf c k addr false i) n)))]
        acc := (List.range m).map (fun i => ((addr i).toNat, s.paOf c k addr false i, n, false))
        p := pw }
    if s.gateStall k.part ((List.range act).map (fun i => ((addr i).toNat, n))) then .wait
    else match s.elemFault c k act addr false with
    | none => go act none
    | some (i, f) =>
      if ff && i != 0 then go i (some (o.gov.pred, i)) else .fault f .global (wordOfInt (addr i))

/-- VSTG (R141). -/
def vecStg (s : State) (c : CoreId) (o : VMem) (p : Pushed) (j : Nat) : VecOut :=
  let k := s.core c
  let n := max (elemBytes o.ty) 1
  let act := min p.count o.ty.lanes
  let addr := fun i => unitBase p o.slot j + elemOff o.ty i
  match globalElemTrap p o.ty ((List.range act).map addr) with
  | some t => .trap t
  | none =>
    match s.gateStoreTrap k.part ((List.range act).map (fun i => ((addr i).toNat, n))) with
    | some t => .trap t
    | none =>
      if s.gateStall k.part ((List.range act).map (fun i => ((addr i).toNat, n))) then .wait
      else match s.elemFault c k act addr true with
      | some (i, f) => .fault f .global (wordOfInt (addr i))
      | none =>
        .ok { Eff.zero with
          glob := storeList o.ty act (s.paOf c k addr true) (lane k.arch.v[o.v] o.ty.width)
          acc := (List.range act).map (fun i => ((addr i).toNat, s.paOf c k addr true i, n, true)) }

/-! ### Transformed means (07) -/

/-- Knots as codes. -/
def TmTable.codes (t : TmTable) : List Nat := t.knots.toList.map (·.toNat)

/-- What a page-4 entry captured, with the selected pair (07 R148, R149). -/
def tmCtx (a : Arch) (p : Pushed) : TmCtx :=
  let m := p.tmode.toNat
  let en := if bit m 3 then a.tables[2] else a.tables[0]
  let ex := if bit m 3 then a.tables[3] else a.tables[1]
  ⟨p.shape.toNat % 2 ^ 32, m % 4, bit m 2, en.lo.toNat, en.hi.toNat, en.codes, ex.lo.toNat, ex.hi.toNat, ex.codes⟩

/-- Lane i of a triple. -/
def totalAt (a : Arch) (r : VReg) (i : Nat) : Total :=
  ⟨lane a.v[r] 32 i, lane a.v[r + 1] 32 i, lane a.v[r + 2] 32 i⟩

/-- A triple written from its lanes. -/
def okTriple (d : VReg) (dom : Bool) (f : Nat → Total) : VecOut :=
  .ok { Eff.zero with
    v := [(d, ofLanes 32 64 (fun i => (f i).m)), (d + 1, ofLanes 32 64 (fun i => (f i).s)),
      (d + 2, ofLanes 32 64 (fun i => (f i).n))]
    dom := dom }

/-- The trap of a lane or element. -/
def TmOut.trapAt {α : Type} (r : TmOut α) (i : Nat) : Option VecOut :=
  match r with
  | .ok _ _ => none
  | .domain => some (laneTrap .tmdomain i)
  | .count => some (laneTrap .tmcount i)

/-- The value of an outcome that does not trap. -/
def TmOut.get {α : Type} (d : α) : TmOut α → α
  | .ok v _ => v
  | _ => d

/-- Whether an outcome poisoned its lane. -/
def TmOut.isDom {α : Type} : TmOut α → Bool
  | .ok _ d => d
  | _ => false

/-- The terms of one TMACC lane accumulated in order: the total, whether a lane was poisoned, or a trap at an
element. -/
def accTerms (c : TmCtx) (t : Total) (dom : Bool) : List (Nat × Nat) → Total × Bool × Option VecOut
  | [] => (t, dom, none)
  | (j, x) :: xs =>
    let r := c.acc t x
    match TmOut.trapAt r j with
    | some e => (t, dom, some e)
    | none => accTerms c (TmOut.get t r) (dom || TmOut.isDom r) xs

/-- TMACC (R164). -/
def vecTmacc (o : VOne) (a : Arch) (p : Pushed) : VecOut :=
  let c := tmCtx a p
  let w := o.ty.width
  let g := 32 / w
  let act := min p.count o.ty.lanes
  let terms := fun i =>
    (((List.range g).map (fun t => g * i + t)).filter (· < act)).map
      (fun j => (j, Fmt.fp32.round .rne (o.ty.value (lane a.v[o.a] w j))))
  let rs := (List.range 64).map (fun i => accTerms c (totalAt a o.d i) false (terms i))
  match rs.findSome? (fun r => r.2.2) with
  | some e => e
  | none =>
    okTriple o.d (rs.any (fun r => r.2.1)) (fun i =>
      if (terms i).isEmpty then (if o.gov.zero then .empty else totalAt a o.d i)
      else (rs.getD i (.empty, false, none)).1)

/-- TMMERGE (R164). -/
def vecTmmerge (d x y : VReg) (g : Gov) (a : Arch) (p : Pushed) : VecOut :=
  let c := tmCtx a p
  let act := min p.count 64
  let r := fun i => c.merge (totalAt a x i) (totalAt a y i)
  match (List.range act).findSome? (fun i => TmOut.trapAt (r i) i) with
  | some e => e
  | none =>
    okTriple d false (fun i =>
      if i < act then TmOut.get .empty (r i) else if g.zero then .empty else totalAt a d i)

/-- One level of TMFOLD's tree: neighbours merged, or TMCOUNT at a destination lane. -/
def foldLevel (c : TmCtx) : List Total → List (TmOut Total)
  | x :: y :: r => c.merge x y :: foldLevel c r
  | _ => []

/-- TMFOLD's tree of `n` levels. -/
def foldTree (c : TmCtx) : Nat → List Total → Except VecOut Total
  | 0, ts => .ok (ts.headD .empty)
  | n + 1, ts =>
    let r := foldLevel c ts
    match (r.zip (List.range r.length)).findSome? (fun x => TmOut.trapAt x.1 x.2) with
    | some e => .error e
    | none => foldTree c n (r.map (TmOut.get .empty))

/-- TMFOLD (R164): a count that overflows traps for destination lane 0. -/
def vecTmfold (d x : VReg) (a : Arch) (p : Pushed) : VecOut :=
  let act := min p.count 64
  match foldTree (tmCtx a p) 6 ((List.range 64).map (fun i => if i < act then totalAt a x i else .empty)) with
  | .error _ => laneTrap .tmcount 0
  | .ok t => okTriple d false (fun i => if i = 0 then t else .empty)

/-- TMEXIT (R164). -/
def vecTmexit (d x : VReg) (g : Gov) (a : Arch) (p : Pushed) : VecOut :=
  let c := tmCtx a p
  let act := min p.count 64
  let r := fun i => c.exitOf (totalAt a x i)
  match (List.range act).findSome? (fun i => TmOut.trapAt (r i) i) with
  | some e => e
  | none =>
    .ok { Eff.zero with
      v := [(d, merge 32 64 act g.zero a.v[d] (fun i => TmOut.get 0 (r i)))]
      dom := (List.range act).any (fun i => TmOut.isDom (r i)) }

/-- TMTAB (R165). DESIGN CHOICE (log 23): an uncorrectable dword anywhere in the image is a MEMERR before any knot is
checked. -/
def vecTmtab (k : Core) (c : CoreId) (idx : Fin 4) (p : Pushed) : VecOut :=
  let b := ptrAddr p.xa
  let word := fun o => memRead k.arch.spad (b + o) 4
  let fin := fun o => (Fmt.fp32.value (word o)).isFin
  if b % 4 != 0 then laneTrap .align b
  else match boundTrap k.arch.stashSize b 1036 with
    | some t => .trap t
    | none =>
      match k.poisoned b 1036 with
      | some d => .fault .memErr .core (coreAddr c (d * 8))
      | none =>
        match (List.range 257).find? (fun i => !fin (4 * i)) with
        | some i => laneTrap .tmdomain (b + 4 * i)
        | none =>
          if !fin 0x404 then laneTrap .tmdomain (b + 0x404)
          else if !fin 0x408 || !((Fmt.fp32.value (word 0x404)).lt (Fmt.fp32.value (word 0x408))) then
            laneTrap .tmdomain (b + 0x408)
          else
            .ok { Eff.zero with
              table := some (idx, ⟨BitVec.ofNat 32 (word 0x404), BitVec.ofNat 32 (word 0x408),
                Vector.ofFn fun i => BitVec.ofNat 32 (word (4 * i.val))⟩)
              spadRd := [(b, 1036)] }

/-! ### One operation -/

/-- The number of elements of a type with lanes in a and a result of the same width that are non-zero (R120). -/
def countNonZero (a : Arch) (r : VReg) (f : Fmt) (act : Nat) : Nat :=
  ((List.range act).filter (fun i => lane a.v[r] f.width i != 0)).length

/-- The effect of one pushed operation of instruction `at_` in repetition j (0 for the original). DESIGN CHOICE (log 8):
with type=res, VPERM, VSLIDE, VINS, VEXT and the vector loads and stores move the lanes' bits, with neither R42's check
nor its canonical form; R136 to R141 give bits. -/
def vecCompute (s : State) (c : CoreId) (at_ : Nat × Nat) (p : Pushed) (j : Nat) : VecOut :=
  let k := s.core c
  let a := k.arch
  match p.instr with
  | .vadd o => vecAri .add o a p
  | .vsub o => vecAri .sub o a p
  | .vmul o => vecAri .mul o a p
  | .vmin o => vecBin o a p (minMaxElem false o.ty o.u)
  | .vmax o => vecBin o a p (minMaxElem true o.ty o.u)
  | .vand o => vecBin o a p (· &&& ·)
  | .vor o => vecBin o a p (· ||| ·)
  | .vxor o => vecBin o a p (· ^^^ ·)
  | .vsll o => vecBin o a p (sllElem o.ty.width)
  | .vsrl o => vecBin o a p (srlElem o.ty.width)
  | .vsra o => vecBin o a p (sraElem o.ty.width)
  | .vdiv o => vecBin o a p (divElem o.ty o.u o.rm)
  | .vfma var rm o =>
    let w := o.ty.width
    elementwise a o.d o.gov w (min p.count o.ty.lanes)
      (fun i => o.ty.fused var rm (lane a.v[o.a] w i) (lane a.v[o.b] w i) (lane a.v[o.e] w i))
  | .vsqrt o => vecUn o a p (fun x => ⟨o.ty.sqrt o.rm x, false⟩)
  | .vabs o => vecUn o a p (absElem o.ty o.sat)
  | .vneg o => vecUn o a p (negElem o.ty o.sat)
  | .vcmp o => vecCmp o a p
  | .vsel o =>
    let w := o.ty.width
    elementwise a o.d o.gov w (min p.count o.ty.lanes)
      (fun i => if lane a.v[o.e] w i != 0 then lane a.v[o.a] w i else lane a.v[o.b] w i)
  | .vsplat d x g ty =>
    elementwise a d g ty.width (min p.count ty.lanes) (fun _ => (XSrc.val x a p.xa).toNat % 2 ^ ty.width)
  | .vmov o => elementwise a o.d o.gov o.ty.width (min p.count o.ty.lanes) (lane a.v[o.a] o.ty.width)
  | .vcvt o dst sat rm => vecCvt o dst sat rm a p
  | .vqnt o => vecQnt o a p
  | .vdqnt o _ => vecDqnt o a p
  | .vred o red u rm b => vecRed o red u rm b a p
  | .vperm o b _ =>
    let w := o.ty.width
    elementwise a o.d o.gov w (min p.count o.ty.lanes)
      (fun i => if lane a.v[b] w i < o.ty.lanes then lane a.v[o.a] w (lane a.v[b] w i) else 0)
  | .vslide o b =>
    let w := o.ty.width
    let sh := (XSrc.val b a p.xb).toInt
    elementwise a o.d o.gov w (min p.count o.ty.lanes)
      (fun i => if 0 <= i + sh && i + sh < o.ty.lanes then lane a.v[o.a] w (i + sh).toNat else 0)
  | .vext r _ b ty =>
    let sh := (XSrc.val b a p.xb).toNat
    .ok { Eff.zero with push := some (BitVec.ofNat 64 (if sh < ty.lanes then lane a.v[r] ty.width sh else 0)) }
  | .vins d _ _ ty =>
    if p.xb.toNat < ty.lanes then
      okV d (ofLanes ty.width ty.lanes (fun i =>
        if i = p.xb.toNat then p.xa.toNat % 2 ^ ty.width else lane a.v[d] ty.width i))
    else okV d a.v[d]
  | .vdot o mix =>
    elementwise a o.d o.gov 32 (min p.count 64) (fun i => dotElem o.ty mix a.v[o.a] a.v[o.b] (lane a.v[o.e] 32 i) i)
  | .vsfu o fn rm =>
    elementwise a o.d o.gov o.ty.width (min p.count o.ty.lanes) (fun i => sfuElem o.ty fn rm (lane a.v[o.a] o.ty.width i))
  | .viota d _ _ g ty =>
    elementwise a d g ty.width (min p.count ty.lanes) (fun i => (p.xa.toNat + i * p.xb.toNat) % 2 ^ ty.width)
  | .vldl o => vecLoad k c o.v o.gov o.ty p.count (fun i => unitBase p o.slot j + elemOff o.ty i)
  | .vstl o => vecStore k c o.v o.ty p.count (fun i => unitBase p o.slot j + elemOff o.ty i)
  | .vldls o => vecLoad k c o.v o.gov o.ty p.count (strideAddr p o.ty j)
  | .vstls o => vecStore k c o.v o.ty p.count (strideAddr p o.ty j)
  | .vgath o =>
    vecLoad k c o.v o.gov o.ty p.count (indexAddr a p o j)
  | .vscat o =>
    vecStore k c o.v o.ty p.count (indexAddr a p o j)
  | .vldg o ff => vecLdg s c at_ o ff p j
  | .vstg o => vecStg s c o p j
  | .vpopc r _ _ ty =>
    .ok { Eff.zero with push := some (BitVec.ofNat 64 (countNonZero a r ty (min p.count ty.lanes))) }
  | .tmclr d g =>
    let act := min p.count 64
    okTriple d false (fun i => if i < act || g.zero then .empty else totalAt a d i)
  | .tmacc o => vecTmacc o a p
  | .tmmerge d x _ y _ g => vecTmmerge d x y g a p
  | .tmfold d x _ _ => vecTmfold d x a p
  | .tmexit d x _ g => vecTmexit d x g a p
  | .tmtab _ pair exit => vecTmtab k c (if pair then (if exit then 3 else 2) else (if exit then 1 else 0)) p
  | _ => .ok Eff.zero

/-- An element taken from q0; at a point before the QPUSH that brought it, q0 owes it (14 R279). -/
def Arch.takeQ0 (a : Arch) (w : Word) : Arch :=
  match a.q0 with
  | [] => { a with owed := a.owed ++ [w] }
  | _ :: q => { a with q0 := q }

/-- The effects on the restorable state. A freed register's contents become zero: a later merging write finds zero in
its inactive lanes (R116). -/
def Arch.applyEff (a : Arch) (p : Pushed) (chunk n : Nat) (e : Eff) : Arch :=
  let a := (freesOf p.instr).foldl (fun (b : Arch) r => b.setV r 0) a
  let a := e.v.foldl (fun (b : Arch) w => b.setV w.1 w.2) a
  let a := match e.pop with
    | none => a
    | some w => a.takeQ0 w
  let a := match e.push with
    | some w => { a with q1 := a.q1 ++ [w] }
    | none => a
  let a := a.noteAmax e.amax
  let a := if e.dom then { a with tmode := a.tmode ||| 0x100 } else a
  let a := match e.p with
    | some (r, n) => a.setP r n
    | none => a
  let a := { a with
    spad := e.spad.foldl (fun m w => memPutBytes m w.1 w.2) a.spad
    gwrites := addPending a.gwrites (e.glob.map (fun w => (w.2.zip (List.range w.2.length)).map
      (fun b => (⟨chunk, n, w.1 + b.2, b.1⟩ : GByte)))).flatten }
  match e.table with
  | some (i, t) => { a with tables := a.tables.set i t }
  | none => a

end Sys2Proof.Machine
end

