-- ==== Sys2Proof/Machine/Access.lean ====
section
/-!
DEFINITION. What the scalar pipeline reads behind pending vector entries (01 R13, R18, log 6): the entries' effects
computed ahead, with the bytes that depend on an element of q0 which is still to be pushed; and local reads.
-/

namespace Sys2Proof.Machine

/-- What pending entries do to a byte: nothing, they leave a known value in it, or one that depends on an element of q0
that is still to be pushed. -/
inductive Ahead where
  | settled | pending | unknown
  deriving DecidableEq, Repr

/-- A core as its pending entries will leave it: the machine with their effects; the bytes of vector registers and
whether a transformed-mean table is unknown; what they do to scratchpad bytes and to physical ones; their global reads,
as (chunk, instruction, physical address, bytes), and their local ones, as (chunk, offset, bytes); the journal entries
of the entry looked at; and whether some entry may still trap. -/
structure Future where
  s : State
  regs : VReg → Nat → Bool
  tabs : Bool
  loc : Nat → Ahead
  glob : Nat → Ahead
  reads : List (Nat × Nat × Nat × Nat)
  locals : List (Nat × Nat × Nat)
  keys : List Nat
  risky : Bool

/-- Whether an operation works lane by lane on elements of one width: the type, and whether inactive lanes become zero.
-/
def laneType : Instr → Option (Fmt × Bool)
  | .vadd o | .vsub o | .vmul o | .vmin o | .vmax o | .vand o | .vor o | .vxor o | .vsll o | .vsrl o | .vsra o
  | .vdiv o => some (o.ty, o.gov.zero)
  | .vsqrt o | .vabs o | .vneg o => some (o.ty, o.gov.zero)
  | .vfma _ _ o | .vsel o => some (o.ty, o.gov.zero)
  | .vcmp o => some (o.ty, o.gov.zero)
  | .vmov o | .vsfu o _ _ => some (o.ty, o.gov.zero)
  | .vsplat _ _ g ty | .viota _ _ _ g ty => some (ty, g.zero)
  | .vldl o | .vldg o _ => some (o.ty, o.gov.zero)
  | .vldls o => some (o.ty, o.gov.zero)
  | .vgath o => some (o.ty, o.gov.zero)
  | _ => none

/-- Whether a result uses the transformed-mean tables (07 R158 to R164). -/
def usesTables : Instr → Bool
  | .tmacc _ | .tmmerge _ _ _ _ _ _ | .tmfold _ _ _ _ | .tmexit _ _ _ _ => true
  | _ => false

/-- Whether some byte of the element that holds byte b of a register is unknown. -/
def Future.elemOpen (x : Future) (f : Fmt) (r : VReg) (b : Nat) : Bool :=
  let n := max (elemBytes f) 1
  (List.range n).any (fun i => x.regs r (b / n * n + i))

/-- Whether any byte of a register is unknown. -/
def Future.regOpen (x : Future) (r : VReg) : Bool := (List.range 256).any (x.regs r)

/-- Whether an operation pops an element that q0 does not hold yet. -/
def Future.short (x : Future) (c : CoreId) (p : Pushed) : Bool := popsQ0 p.instr && (x.s.core c).arch.q0.isEmpty

/-- Whether the values of an operation's operands decide whether it traps (02 R42, 06 R122, R130 to R133, R140, 07
R164, R165). -/
def trapsOnData : Instr → Bool
  | .vadd o | .vsub o | .vmul o => o.ty == .res
  | .vcmp o => o.ty == .res
  | .vcvt o _ _ _ => o.ty == .res || o.ty == .s24
  | .vred o red _ _ _ => o.ty == .res && red == .add
  | .vdqnt _ _ | .vgath _ | .vscat _ => true
  | .tmacc _ | .tmmerge _ _ _ _ _ _ | .tmfold _ _ _ _ | .tmexit _ _ _ _ | .tmtab _ _ _ => true
  | _ => false

/-- Whether some operand of an operation is unknown. -/
def Future.inputOpen (x : Future) (c : CoreId) (p : Pushed) : Bool :=
  x.short c p || (namesOf p.instr).srcs.any (fun r => x.regOpen r.1) || (usesTables p.instr && x.tabs)

/-- Whether byte b of a load's register comes from an unknown byte. -/
def Future.loadOpen (x : Future) (f : Fmt) (eff : Eff) (b : Nat) : Bool :=
  let n := max (elemBytes f) 1
  (match eff.spadRd[b * 8 / f.width]? with
    | none => false
    | some r => x.loc (r.1 + b % n) == .unknown)
  || (match eff.acc[b * 8 / f.width]? with
    | none => false
    | some r => x.glob (r.2.1 + b % n) == .unknown)

/-- The unknown bytes of a destination register after an operation: of a lane-by-lane operation those of active lanes
with an unknown operand, and where it merges those of inactive lanes that were unknown; of another, all or none. -/
def Future.destOpen (x : Future) (c : CoreId) (p : Pushed) (eff : Eff) (r : VReg) (b : Nat) : Bool :=
  match laneType p.instr with
  | some (f, zero) =>
    if b * 8 < min p.count f.lanes * f.width then
      x.short c p || (namesOf p.instr).srcs.any (fun v => x.elemOpen f v.1 b) || x.loadOpen f eff b
    else !zero && x.regs r b
  | none => x.inputOpen c p || x.regOpen r

/-- Whether the addresses of an operation's stores depend on an unknown index (06 R140). -/
def Future.placeOpen (x : Future) (p : Pushed) : Bool :=
  match p.instr with
  | .vscat o => x.regOpen o.b
  | _ => false

/-- The register whose bytes an operation stores. -/
def storeReg : Instr → Option VReg
  | .vstl o | .vstg o => some o.v
  | .vstls o => some o.v
  | .vscat o => some o.v
  | _ => none

/-- What stores of a register do to a byte, as (address, bytes) in lane order; the last one counts. -/
def Future.stored (x : Future) (p : Pushed) (ws : List (Nat × List Byte)) (old : Nat → Ahead) (a : Nat) : Ahead :=
  match ((ws.zip (List.range ws.length)).reverse.find? (fun w => w.1.1 <= a && a < w.1.1 + w.1.2.length)) with
  | none => old a
  | some w =>
    match storeReg p.instr with
    | none => .pending
    | some r => if x.regs r (w.2 * w.1.2.length + (a - w.1.1)) then .unknown else .pending

/-- The dwords of a scratchpad that a row of stores leaves uncorrectable (21 R374). -/
def poisonAfter (ps : List Nat) (ws : List (Nat × List Byte)) : List Nat :=
  if ps.isEmpty then [] else clearMemPoison ps ((ws.map (fun w => (List.range w.2.length).map (w.1 + ·))).flatten)

/-- The dwords that the scalar stores after a completed entry leave uncorrectable. -/
def Arch.passPoison (a : Arch) (ps : List Nat) : List Nat :=
  (a.slog.filter (·.left <= 1)).foldl (fun t w => clearPoison t w.addr w.bytes.length) ps

/-- A core after one operation of its head. -/
def Core.performed (k : Core) (p : Pushed) (at_ : Nat × Nat) (eff : Eff) : Core :=
  { k with arch := k.arch.applyEff p at_.1 at_.2 eff, poison := poisonAfter k.poison eff.spad }

/-- Whether the bytes that an operation reads from the scratchpad are unknown in part. -/
def Future.spadOpen (x : Future) (rs : List (Nat × Nat)) : Bool :=
  rs.any (fun r => (List.range r.2).any (fun i => x.loc (r.1 + i) == .unknown))

/-- Whether an operation with these effects may still trap when it executes: on operands that are unknown now, or by the
gate of a window that it stores to (20 R365). -/
def State.mayTrap (s : State) (x : Future) (c : CoreId) (p : Pushed) (eff : Eff) : Bool :=
  (trapsOnData p.instr && (x.inputOpen c p || x.spadOpen eff.spadRd))
  || eff.acc.any (fun r => r.2.2.2 && (s.winAt (s.core c).part r.1).isSome)

/-- An operation that would trap or fault on what is known: with unknown operands it may not, and leaves unknown values.
-/
def Future.stopped (x : Future) (c : CoreId) (p : Pushed) (dst : (VReg → Nat → Bool) → VReg → Nat → Bool) (risky : Bool) :
    Future :=
  let y := { x with risky := x.risky || risky }
  if x.inputOpen c p then
    { y with regs := dst (fun _ _ => true), loc := if x.placeOpen p then fun _ => .unknown else x.loc }
  else y

/-- One operation of instruction `at_` in repetition j, ahead of its execution. One that traps or faults leaves nothing
to anything younger. -/
def Future.operation (c : CoreId) (at_ : Nat × Nat) (x : Future) (p : Pushed) (j : Nat) : Future :=
  let k := x.s.core c
  let dst := fun (open_ : VReg → Nat → Bool) (r : VReg) (b : Nat) =>
    if (namesOf p.instr).dsts.contains r then open_ r b else !(freesOf p.instr).contains r && x.regs r b
  match vecCompute x.s c at_ p j with
  | .ok eff =>
    let eff := { eff with pop := if popsQ0 p.instr then k.arch.q0.head? else none }
    { s := x.s.setCore c (k.performed p at_ eff)
      regs := dst (x.destOpen c p eff)
      tabs := x.tabs || (eff.table.isSome && x.spadOpen eff.spadRd)
      loc := if x.placeOpen p then fun _ => .unknown else x.stored p eff.spad x.loc
      glob := x.stored p eff.glob x.glob
      reads := x.reads ++ (eff.acc.filter (fun r => !r.2.2.2)).map (fun r => (at_.1, at_.2, r.2.1, r.2.2.1))
      locals := x.locals ++ eff.spadRd.map (fun r => (at_.1, r.1, r.2))
      keys := addAll (journalKeys (eff.spad.map (fun w => linesOf w.1 w.2.length)).flatten
        (eff.glob.map (fun w => linesOf w.1 w.2.length)).flatten) x.keys
      risky := x.risky || x.s.mayTrap x c p eff }
  | .wait => { x with regs := dst (fun _ _ => true), glob := fun _ => .unknown, risky := true }
  | .trap _ => x.stopped c p dst true
  | .fault _ _ _ => x.stopped c p dst (trapsOnData p.instr && x.inputOpen c p)

/-- A pending entry's remaining operations, and the scalar stores that follow it. A VLOOP traps where its repetitions
need more than 256 journal entries (13 R246, R247). -/
def Future.entry (c : CoreId) (x : Future) (e : Entry) : Future :=
  let z := { x with keys := (x.s.core c).keysOf e.chunk e.n }
  let y := e.pendingOps.foldl (fun (y : Future) o => y.operation c (e.chunk, e.n) o.1 o.2) z
  let k := y.s.core c
  let due := k.arch.slog.filter (·.left <= 1)
  { y with
    risky := y.risky || (e.rep.isSome && 256 < y.keys.length)
    s := y.s.setCore c { k with arch := k.arch.passEntry, poison := k.arch.passPoison k.poison }
    loc := fun a => if due.any (fun w => w.addr <= a && a < w.addr + w.bytes.length) then .settled else y.loc a }

/-- The executing core as the entries before its instruction will leave it. -/
def State.future (s : State) : Future :=
  s.me.seq.foldl (Future.entry s.turn) ⟨s, fun _ _ => false, false, fun _ => .settled, fun _ => .settled, [], [], [], false⟩

/-- Reads of pending entries that a scalar instruction depends on: they belong to their chunks' reads from now on (13
R248, R252). -/
def State.readEarly (s : State) (x : Future) : State :=
  let t := x.reads.foldl (fun (t : State) r => t.noteSeen t.turn r.1 r.2.1 r.2.2.1 r.2.2.2 false) s
  x.locals.foldl (fun (t : State) r => t.setMe (t.me.noteRead r.1 (linesOf r.2.1 r.2.2) [])) t

/-- A read by the executing core of n bytes, given what pending entries do to each, `none` where it must wait for one of
them; else the state once the entries' own reads that it depends on are noted. -/
def State.readAhead (s : State) (x : Future) (at_ : Nat → Ahead) (a n : Nat) : Option State :=
  if (List.range n).any (fun i => at_ (a + i) == .unknown) then none
  else if (List.range n).any (fun i => at_ (a + i) == .pending) then some (s.readEarly x)
  else some s

/-- A local read by the executing core at a checked address, given what to do with the bytes' value: the values that
pending entries leave there, unless one is not known yet; MEMERR on an uncorrectable dword; and a place in the chunk's
read set. -/
def State.localRead (s : State) (ea n : Nat) (f : State → Nat → Out) : Out :=
  let x := s.future
  match s.readAhead x x.loc ea n with
  | none => s.stall
  | some t =>
    match x.s.me.poisoned ea n with
    | some d => s.faultMe .memErr .core (coreAddr s.turn (d * 8))
    | none => f (t.setMe (t.me.noteRead t.me.curChunk (linesOf ea n) [])) (memRead x.s.me.arch.spad ea n)

end Sys2Proof.Machine
end

