-- ==== Sys2Proof/Machine/Undo.lean ====
section
/-!
DEFINITION. Undoing what a core has executed (13 R249 to R251, 01 R16, 14 R278, R279): back to a point inside a chunk,
squashes of chunks, the squashes counted and priority.
-/

namespace Sys2Proof.Machine

/-- What a chunk keeps when its instructions from the n-th on are undone: it has ended there. -/
def Chunk.upTo (ch : Chunk) (n : Nat) : Chunk :=
  { ch with
    n := n
    ended := true
    jrnl := ch.jrnl.filter (fun e => e.2 < n)
    rels := ch.rels.filter (fun r => r.1 < n) }

/-- The tiles as they were before instruction n of a chunk (13 R249). -/
def Core.tilesAt (k : Core) (chunk n : Nat) : Vector Tile 8 :=
  match k.zOld.find? (fun o => chunk < o.1 || (o.1 == chunk && n <= o.2.1)) with
  | none => k.z
  | some o => o.2.2

/-- Journal errors, as far as the entries of some chunks still hold them. -/
def Errs.keepJournal (e : Errs) (cs : List Chunk) : Errs :=
  { e with jrnl := e.jrnl.filter (fun key => cs.any (fun ch => ch.jrnl.any (·.1 == key))) }

/-- The chunks of a core that an undoing from instruction n of a chunk leaves. -/
def Core.chunksBefore (k : Core) (chunk n : Nat) : List Chunk :=
  (k.chunks.filter (fun d => d.id < chunk || (d.id == chunk && n != 0))).map
    (fun d => if d.id == chunk then d.upTo n else d)

/-- The scratchpad line whose old contents an undoing from instruction n of a chunk would take from an uncorrectable
journal entry (13 R249, 19 R343). -/
def Core.undoBad (k : Core) (chunk n : Nat) : Option Nat :=
  ((k.chunks.map (fun d => (d.jrnl.filter (fun e => chunk < d.id || (d.id == chunk && n <= e.2))).map (·.1))).flatten.find?
    (fun key => key % 2 = 0 && k.errs.jrnl.contains key)).map (· / 2)

/-- A core without what it did from instruction n of a chunk on, its state there being `a`: younger entries and chunks
are discarded (01 R16, 13 R247, R249), and priority with the chunk that has it (R251). -/
def Core.rewind (k : Core) (a : Arch) (chunk n : Nat) : Core :=
  { k with
    arch := a
    seq := k.seq.filter (fun e => e.chunk < chunk || (e.chunk == chunk && e.n < n))
    cutNext := none
    await := false
    prioPc := k.prioPc.filter (fun pc => (k.chunksBefore chunk n).any (fun d => d.start.pc == pc))
    fetchAt := none
    z := k.tilesAt chunk n
    zOld := k.zOld.filter (fun o => o.1 < chunk || (o.1 == chunk && o.2.1 < n))
    errs := k.errs.keepJournal (k.chunksBefore chunk n)
    chunks := k.chunksBefore chunk n }

/-- The last chunk no longer joined to one after it. -/
def Core.lastAlone (k : Core) : Core := k.onLastChunk (fun d => { d with run := false })

/-- A core's state rewound, given what else changes; a journal entry that it must read and cannot is a MEMERR at the
line's core address (19 R343). -/
def State.rewound (s : State) (c : CoreId) (a : Arch) (chunk n : Nat) (f : Core → Core) : State :=
  let t := ((s.dropWait c).dropPend c chunk n).onCore c (fun k => f (k.rewind a chunk n))
  match (s.core c).undoBad chunk n with
  | none => t
  | some l => t.raise c .memErr .core (coreAddr c (l * 64)) 0

/-- A core put back to an earlier point of its program: `a` is the state there, `chunk` the chunk that holds the
point and `n` that chunk's instructions before it. -/
def State.restore (s : State) (c : CoreId) (a : Arch) (chunk n : Nat) : State :=
  s.rewound c a chunk n (·.lastAlone)

/-! ### Squashes and priority (R249, R251, 14 R278, R279) -/

/-- Whether the priority of a core's die is taken. -/
def State.diePrio (s : State) (c : CoreId) : Bool := s.cores.any (fun e => onDie (dieOf c) e.1 && e.2.prioPc.isSome)

/-- One more squashed execution of each of some chunks, counted by where they start. -/
def countSquashes (t : Tab Nat) (cs : List Chunk) : Tab Nat :=
  ((cs.map (·.start.pc.toNat)).eraseDups).foldl (fun t pc => tabPut t pc (tabGet 0 t pc + 1)) t

/-- A chunk squashed with its run and every later chunk of the core: the state at the start of the run. -/
def State.squash (s : State) (c : CoreId) (id : Nat) : State :=
  let first := match runOf id (s.core c).chunks with
    | [] => id
    | ch :: _ => ch.id
  match (s.core c).chunks.find? (fun ch => ch.id == first) with
  | none => s
  | some ch =>
    s.rewound c ch.start first 0 (fun k =>
      { k with squashes := countSquashes k.squashes ((s.core c).chunks.filter (fun d => first <= d.id)) })

/-- Every uncommitted chunk of a core squashed, and the priority it waited to run with: what a stop and a fault do first
(14 R280, 19 R338, R346). -/
def State.squashAll (s : State) (c : CoreId) : State :=
  (match (s.core c).chunks with
    | [] => s
    | ch :: _ => s.squash c ch.id).onCore c (fun k => { k with prioPc := none })

/-- Whether eight executions in a row of a chunk have been squashed. -/
def Core.qualifies (k : Core) (ch : Chunk) : Bool := 8 <= tabGet 0 k.squashes ch.start.pc.toNat

/-- Whether nothing that has happened so far can squash a chunk: it is in no conflict, and it has read no line of which
another agent has written a later value (R248, R257). -/
def Chunk.clean (ch : Chunk) : Bool := !ch.conflict && ch.newer.isEmpty

/-- The chunk of a core that waits for priority: the oldest that qualifies, unless one before it may be squashed and it
with that. -/
def Core.waitsPrio (k : Core) : Option Chunk :=
  (k.chunks.find? k.qualifies).filter (fun ch => k.chunks.all (fun d => ch.id <= d.id || d.clean))

/-- The chunk that a core has just begun runs with priority where it qualifies, no core of the die does, none with a
lower number waits for it, and no older chunk of the core may be squashed and it with that (R251). -/
def State.notePrio (s : State) (c : CoreId) : State :=
  let k := s.core c
  match k.openChunk with
  | none => s
  | some ch =>
    if ch.n = 0 && k.qualifies ch && k.chunks.all Chunk.clean && !s.diePrio c
        && !s.cores.any (fun e => e.1 < c.val && onDie (dieOf c) e.1 && e.2.waitsPrio.isSome) then
      s.setCore c { k with prioPc := some ch.start.pc }
    else s

end Sys2Proof.Machine
end

