-- ==== Sys2Proof/Machine/Sequencer.lean ====
section
/-!
DEFINITION. SEQUENCER_ENTRY_EXECUTE: the cluster arbiter binds a lane group to one core's head (08 R185), and the head
executes one operation (06 R116, R142).
-/

namespace Sys2Proof.Machine

/-- Whether a core's head is ready: its q0 element is present, and q1 has room (R18, R116, R185). -/
def Core.headReady (k : Core) : Bool :=
  match k.seq with
  | [] => false
  | e :: _ =>
    (k.run == .running)
    && (!popsQ0 e.current.1.instr || !k.arch.q0.isEmpty)
    && (!pushesQ1 e.current.1.instr || k.arch.q1.length < 8)

/-- The entry after one operation: none when it has completed. -/
def Entry.after (e : Entry) : Option Entry :=
  match e.rep with
  | none => none
  | some r =>
    if r.j > r.times then none
    else if r.i + 1 < r.body.length then some { e with rep := some { r with i := r.i + 1 } }
    else if r.j + 1 > r.times then none
    else some { e with rep := some { r with j := r.j + 1, i := 0 } }

/-- The trap of an entry: it and everything younger is undone (01 R16). A return to a VLOOP finds its entries again
(06 R142). -/
def State.trapEntry (s : State) (c : CoreId) (e : Entry) (t : Trap) : State :=
  let u := (s.restore c e.snap e.chunk e.n).enterTrap c e.op.pc e.op.pc t
  if e.rep.isSome && (u.core c).run == .running then
    u.onCore c (fun k => { k with arch := { k.arch with redo := some (e.op.pc, e.snap.recent, e.snap.pushes) } })
  else u

/-- The entry itself needs a 257th journal entry: its chunk ends before it (13 R247), or it waits for its run
(14 R279). -/
def State.cutEntry (s : State) (c : CoreId) (e : Entry) (keys : List Nat) : State :=
  (s.restore c e.snap e.chunk e.n).onCore c (fun k =>
    let k := k.onChunk e.chunk (fun ch => { ch with cut := some e.n, cutBy := keys })
    { k with await := k.chunks.any (fun ch => ch.id == e.chunk && k.inRun ch.id) || (e.n = 0 && !k.chunks.isEmpty) })

/-- A younger instruction m of the entry's chunk, executed already, needs the 257th entry: the entry and everything
after it is undone, and the chunk will end before m. -/
def State.cutLater (s : State) (c : CoreId) (e : Entry) (m : Nat) (keys : List Nat) : State :=
  (s.restore c e.snap e.chunk e.n).onCore c (fun k =>
    if e.n = 0 then { k with cutNext := some (m, keys) }
    else k.onChunk e.chunk (fun ch => { ch with ended := false, cut := some m, cutBy := keys }))

/-- Instruction m of a younger chunk of the run needs the 257th entry: that chunk is undone and will end before m; as
its first instruction m waits for the run (14 R279). -/
def State.cutChunk (s : State) (c : CoreId) (chunk m : Nat) (keys : List Nat) : State :=
  match (s.core c).chunks.find? (fun ch => ch.id == chunk) with
  | none => s
  | some ch =>
    (s.restore c ch.start chunk 0).onCore c (fun k =>
      { k with
        cutNext := if m = 0 then none else some (m, keys)
        await := m = 0 })

/-- Lanes of an instruction's result, and whether it writes zero to inactive ones (R114). -/
def resultLanes : Instr → Option (Nat × Bool)
  | .vcvt o dst _ _ => some (2048 / max o.ty.width dst.width, o.gov.zero)
  | .vdot o _ => some (64, o.gov.zero)
  | .vqnt o | .vdqnt o _ => some ((if o.bf then Fmt.bf16 else Fmt.fp32).lanes, o.gov.zero)
  | .vperm o _ _ | .vslide o _ => some (o.ty.lanes, o.gov.zero)
  | .tmclr _ g | .tmmerge _ _ _ _ _ g | .tmexit _ _ _ g => some (64, g.zero)
  | i => (laneType i).map (fun x => (x.1.lanes, x.2))

/-- The vectors of which an operation keeps old lanes: a merging one its destinations' inactive lanes (R114), VINS all
but one (R136). -/
def Pushed.keeps (p : Pushed) : List VReg :=
  match p.instr with
  | .vins d _ _ _ => [d]
  | i =>
    match resultLanes i with
    | some (n, zero) => if !zero && p.count < n then (namesOf i).dsts else []
    | none => []

/-- The vectors that an operation reads. -/
def Pushed.reads (p : Pushed) : List VReg := (namesOf p.instr).srcs.map (·.1) ++ p.keeps

/-- Vector registers that are uncorrectable no more: written, or freed (19 R343). -/
def Errs.passVecs (e : Errs) (vs : List VReg) : Errs := { e with vec := e.vec.filter (fun n => !vs.any (·.val == n)) }

/-- What a completed entry leaves of the sequencer and of the stores behind it. -/
def Core.passHead (k : Core) (p : Pushed) (e : Entry) (eff : Eff) : Core :=
  let done := e.after.isNone
  let j := k.applyHead e.chunk (fun a =>
    let b := a.applyEff p e.chunk e.n eff
    if done then b.passEntry else b)
  { j with
    poison := if done then k.arch.passPoison (poisonAfter k.poison eff.spad) else poisonAfter k.poison eff.spad
    errs := k.errs.passVecs (eff.v.map (·.1) ++ freesOf p.instr)
    seq := e.after.toList ++ j.seq.drop 1 }

/-- Chunks from one on that have read a line of which a pending entry of that chunk now reads a later value: the order
of the two reads is not kept (13 R255, R265). -/
def Core.readLate (k : Core) (chunk : Nat) (lines : List Nat) : Core :=
  { k with chunks := k.chunks.map (fun ch =>
      if chunk <= ch.id && lines.any (fun l => ch.newer.contains l) then { ch with conflict := true } else ch) }

/-- The head's effects, applied to the state and to everything younger; an entry that has completed resets the watchdog,
a VLOOP with its last repetition (06 R142, 19 R344). -/
def State.applyHeadOk (s : State) (c : CoreId) (e : Entry) (p : Pushed) (eff : Eff) : State :=
  s.setCore c { ((s.core c).readLate e.chunk
      ((eff.acc.filter (fun r => !r.2.2.2)).map (fun r => linesOf r.2.1 r.2.2.1)).flatten).passHead p e eff with
    progress := if e.after.isNone then s.time else (s.core c).progress }

/-- The head's effects with the journal and signatures noted; where the journal would need a 257th entry, what R247 and
R279 say of the instruction that needs it in program order. -/
def State.applyHeadEff (s : State) (c : CoreId) (e : Entry) (p : Pushed) (eff : Eff) : State :=
  let k := s.core c
  let spW := (eff.spad.map (fun w => linesOf w.1 w.2.length)).flatten
  let spR := (eff.spadRd.map (fun r => linesOf r.1 r.2)).flatten
  let k1 := (k.noteRead e.chunk spR []).noteWrite e.chunk e.n spW []
  let s1 := (s.setCore c k1).noteAccesses c e.chunk e.n eff.acc
  let k2 := s1.core c
  match k2.journalOver e.chunk with
  | none => s1.applyHeadOk c e p eff
  | some (ch, m) =>
    let keys := k2.keysOf ch m
    if ch = e.chunk && m = e.n then
      -- as the first of its chunk it can only be a VLOOP: ILLEGAL with the repetition
      if e.n = 0 && 256 < keys.length then s.trapEntry c e ⟨.illegal, BitVec.ofNat 64 e.current.2⟩
      else s.cutEntry c e keys
    else if ch = e.chunk then s.cutLater c e m keys
    else (s1.applyHeadOk c e p eff).cutChunk c ch m keys

/-- The core address that names a vector register in a fault record (19 R340). -/
def vecPlace (c : CoreId) (v : VReg) : Word := coreAddr c (0x7E000 + 256 * v.val)

/-- The first vector register that an operation reads and that is uncorrectable (19 R343). -/
def Core.vecBad (k : Core) (p : Pushed) : Option VReg := p.reads.find? (fun v => k.errs.vec.contains v.val)

/-- The same for the lanes that a first-fault load has cut off and a merging one keeps (06 R141). -/
def Core.cutBad (k : Core) (p : Pushed) (eff : Eff) : Option VReg :=
  match p.instr with
  | .vldg o true => if !o.gov.zero && eff.acc.length < o.ty.lanes && k.errs.vec.contains o.v.val then some o.v else none
  | _ => none

/-- A core's head executes one operation. -/
def State.runHead (s : State) (c : CoreId) : State :=
  match (s.core c).seq with
  | [] => s
  | e :: _ =>
    let (p, j) := e.current
    if e.rep.isSome && e.op.instr == p.instr && j = 0 then s.applyHeadEff c e p Eff.zero
    else match (s.core c).vecBad p with
    | some v => s.raise c .memErr .vecReg (vecPlace c v) 0
    | none =>
      match vecCompute s c (e.chunk, e.n) p j with
      | .trap t => s.trapEntry c e t
      | .fault cls place addr => s.raise c cls place addr 0
      | .wait => s
      | .ok eff =>
        match (s.core c).cutBad p eff with
        | some v => s.raise c .memErr .vecReg (vecPlace c v) 0
        | none =>
        match s.payLines c 1 (eff.acc.map (fun x => (x.1, x.2.1))) with
        | (t, true) => t.applyHeadEff c e p { eff with pop := if popsQ0 p.instr then (t.core c).arch.q0.head? else none }
        | (t, false) => t

/-! ### The arbiter (R185) -/

/-- The cores of a cluster in slot order (08 R168). -/
def clusterCores (cl : ClusterId) : List CoreId :=
  (List.range 8).map (fun i => ⟨((cl.val / 16 * 2 + i / 4) * 64 + cl.val % 16 * 4 + i % 4) % 4096, Nat.mod_lt _ (by decide)⟩)

/-- The weight of a core: max(share.eff, 1). -/
def Core.weight (k : Core) : Int := max (k.eff : Int) 1

/-- The core with the largest c, the lowest slot among equals. -/
def pickCore (s : State) : List CoreId → Option CoreId
  | [] => none
  | c :: cs =>
    match pickCore s cs with
    | none => some c
    | some d => if (s.core c).arb < (s.core d).arb then some d else some c

/-- The lane groups of a cluster. -/
def State.groupsOf (s : State) (cl : ClusterId) : Vector (Option (CoreId × Nat)) 4 :=
  tabGet (Vector.replicate 4 none) s.groups cl.val

/-- Those groups replaced; a cluster with every group free is not listed. -/
def State.setGroups (s : State) (cl : ClusterId) (g : Vector (Option (CoreId × Nat)) 4) : State :=
  { s with groups := if g == Vector.replicate 4 none then tabDel s.groups cl.val else tabPut s.groups cl.val g }

/-- A cycle later: a group is free once its instruction's beats are over. -/
def nextCycle (g : Vector (Option (CoreId × Nat)) 4) : Vector (Option (CoreId × Nat)) 4 :=
  g.map (fun b => match b with
    | none => none
    | some (c, n) => if n <= 1 then none else some (c, n - 1))

/-- Whether an operation rounds an FP64 result, which takes twice the beats (R185). -/
def roundsFp64 : Instr → Bool
  | .vadd o | .vsub o | .vmul o | .vdiv o => o.ty == .fp64
  | .vsqrt o => o.ty == .fp64
  | .vfma _ _ o => o.ty == .fp64
  | .vred o red _ _ _ => o.ty == .fp64 && red == .add
  | _ => false

/-- Beats for which a core's head holds its lane group. -/
def Core.beats (k : Core) : Nat :=
  match k.seq with
  | [] => 2
  | e :: _ => if roundsFp64 e.current.1.instr then 4 else 2

/-- The heads that may be bound: ready, and bound to no group. -/
def State.candidates (s : State) (cl : ClusterId) : List CoreId :=
  (clusterCores cl).filter (fun c =>
    (s.core c).headReady && !(s.groupsOf cl).toList.any (fun b => b.map (·.1) == some c))

/-- One free group: every candidate gains its weight, the winner loses the sum and is bound. `w` are the weights at the
start of the cycle. -/
def State.bindOne (s : State) (cl : ClusterId) (w : CoreId → Int) (g : Fin 4) : State :=
  let es := s.candidates cl
  let t := es.foldl (fun (t : State) c => t.onCore c (fun k => { k with arb := k.arb + w c })) s
  match pickCore t es with
  | none => s
  | some j =>
    (t.onCore j (fun k => { k with arb := k.arb - (es.map w).foldl (· + ·) 0 })).setGroups cl
      ((s.groupsOf cl).set g (some (j, (s.core j).beats)))

/-- The groups free in this cycle bound in ascending order. -/
def State.bindAll (s : State) (cl : ClusterId) (w : CoreId → Int) : List (Fin 4) → State
  | [] => s
  | g :: gs => ((if (s.groupsOf cl)[g].isSome then s else s.bindOne cl w g).bindAll cl w gs)

/-- One cycle's bindings of a cluster: the state, and the cores bound in it in the order of their groups. -/
def State.bind (s : State) (cl : ClusterId) : State × List CoreId :=
  let t := s.setGroups cl (nextCycle (s.groupsOf cl))
  let u := t.bindAll cl (fun c => (s.core c).weight) (List.finRange 4)
  (u, (List.finRange 4).filterMap (fun g => if (t.groupsOf cl)[g].isSome then none else (u.groupsOf cl)[g].map (·.1)))

/-- SEQUENCER_ENTRY_EXECUTE: one cycle of a cluster's vector unit; the heads bound in it execute. -/
def execSequencerEntryExecute (cl : ClusterId) (s : State) : Out :=
  let b := s.bind cl
  .next (b.2.foldl State.runHead b.1)

/-! ### The scalar-pipeline instructions of page 3 (R119, R121) -/

/-- PCOUNT: it waits for a pending writer of the predicate (R118). -/
def execPcount (d : XReg) (a : PReg) (s : State) : Out :=
  if s.me.predPending a then s.stall else s.doneX d (BitVec.ofNat 64 (s.me.arch.getP a))

/-- PBOUND. -/
def execPbound (d : PReg) (a b : XReg) (s : State) : Out :=
  if s.me.predPending d then s.stall
  else s.done (s.me.arch.setP d (min ((s.x b).toInt - (s.x a).toInt).toNat 256))

/-- The lowest i below m whose element is zero (or non-zero), or m. -/
def prefixLen (v : VWord) (f : Fmt) (m : Nat) (zero : Bool) : Nat :=
  (firstLane m (fun i => (lane v f.width i == 0) == zero)).getD m

/-- PMASK and PFIRST: they wait until the sequencer is empty, then read a, with MEMERR where it is uncorrectable (19
R343); la frees it. -/
def State.maskPrefix (s : State) (d : PReg) (a : VReg) (la : Bool) (p : PReg) (f : Fmt) (zero : Bool) : Out :=
  let k := s.me
  if !k.arch.isLive a then s.trap .vfree (BitVec.ofNat 64 a.val)
  else if !k.seq.isEmpty then s.stall
  else if k.errs.vec.contains a.val then s.faultMe .memErr .vecReg (vecPlace s.turn a)
  else
    let n := prefixLen k.arch.v[a] f (min (k.arch.getP p) f.lanes) zero
    let b := if la then (k.arch.setLive a false).setV a 0 else k.arch
    let t := if la then s.setMe { k with errs := k.errs.passVecs [a] } else s
    t.done (b.setP d n)

/-- PMASK. -/
def execPmask (d : PReg) (a : VReg) (la : Bool) (p : PReg) (f : Fmt) (s : State) : Out := s.maskPrefix d a la p f true
/-- PFIRST. -/
def execPfirst (d : PReg) (a : VReg) (la : Bool) (p : PReg) (f : Fmt) (s : State) : Out := s.maskPrefix d a la p f false

/-- VWIDTH (R121). -/
def execVwidth (d : XReg) (f : Fmt) (s : State) : Out := s.doneX d (BitVec.ofNat 64 f.lanes)

end Sys2Proof.Machine
end

