-- ==== Sys2Proof/Machine/Chunks.lean ====
section
/-!
DEFINITION. Committing chunks (13 R244 to R252, 14 R278, R279), boundary instructions (R245), and what a write by any
agent does to other cores' chunks (R248) and to the values that dies may read (R256).
-/

namespace Sys2Proof.Machine

/-! ### What committed execution has produced -/

/-- The state that a core's committed chunks produced: the start of its oldest uncommitted chunk (R249). Engines use the
ring registers as they stand there (16 R299). -/
def Core.committed (k : Core) : Arch :=
  match k.chunks with
  | [] => k.arch
  | ch :: _ => ch.start

/-! ### Conflicts (R248) -/

/-- Chunks marked as conflicting where a test holds. -/
def Core.markChunks (k : Core) (f : Chunk → Bool) : Core :=
  { k with chunks := k.chunks.map (fun ch => if f ch then { ch with conflict := true } else ch) }

/-- Whether two sets of lines meet. -/
def meets (xs ys : List Nat) : Bool := xs.any (fun x => ys.contains x)

/-- Whether a write of lines conflicts with a chunk at once: its read and write sets for a commit through the same
arbiter, its write set for any other agent, and lines it has acquired (log 12). -/
def Chunk.hitBy (ch : Chunk) (sameDie : Bool) (lines : List Nat) : Bool :=
  meets lines ch.wr || meets lines ch.acq || (sameDie && meets lines ch.rd)

/-- A chunk after another agent's write of lines: in conflict, or it has read an older value than theirs, which a write
of its own turns into a conflict (R248, R257). -/
def Chunk.afterWrite (ch : Chunk) (sameDie : Bool) (lines : List Nat) : Chunk :=
  { ch with
    conflict := ch.conflict || ch.hitBy sameDie lines
    newer := addAll (lines.filter (fun l => ch.rd.contains l)) ch.newer }

/-- Whether core d shares the arbiter of a writer. -/
def sameArbiter (writer : Option CoreId) (d : Nat) : Bool :=
  match writer with
  | none => false
  | some c => onDie (dieOf c) d

/-- Lines written by a core's commit, or by another agent: conflicts in every other core's chunks. -/
def State.wroteLines (s : State) (writer : Option CoreId) (lines : List Nat) : State :=
  { s with cores := s.cores.map (fun e =>
      if writer.map (·.val) == some e.1 then e
      else (e.1, { e.2 with chunks := e.2.chunks.map (·.afterWrite (sameArbiter writer e.1) lines) })) }

/-- Whether a core that runs with priority holds a write of lines back (R251). -/
def State.heldBack (s : State) (writer : Option CoreId) (lines : List Nat) : Bool :=
  s.cores.any (fun e =>
    writer.map (·.val) != some e.1 && e.2.prio
      && e.2.chunks.any (fun ch => meets lines ch.rd || meets lines ch.wr || meets lines ch.acq))

/-! ### Remote changes of a scratchpad (R252) -/

/-- Whether a remote access of n bytes concerns a chunk. -/
def Chunk.touchedBy (ch : Chunk) (lo n : Nat) (w : Bool) : Bool :=
  meets (linesOf lo n) ch.swr || (w && meets (linesOf lo n) ch.srd)

/-- Whether a remote access must wait for a core that runs with priority (R251). -/
def State.spadHeld (s : State) (owner : CoreId) (lo n : Nat) (w : Bool) : Bool :=
  (s.core owner).prio && (s.core owner).chunks.any (fun ch => ch.touchedBy lo n w)

/-- The owner's chunk squashed where R252 says so. -/
def State.touchSpad (s : State) (owner : CoreId) (lo n : Nat) (w : Bool) : State :=
  match (s.core owner).chunks.find? (fun ch => ch.touchedBy lo n w) with
  | none => s
  | some ch => s.squash owner ch.id

/-- Bytes written into a scratchpad by another agent. -/
def State.putSpad (s : State) (owner : CoreId) (lo : Nat) (bs : List Byte) : State :=
  (s.touchSpad owner lo bs.length true).onCore owner (fun k =>
    { k.everywhere (fun a => { a with spad := memPutBytes a.spad lo bs }) with
      poison := clearPoison k.poison lo bs.length })

/-! ### Physical memory written by an agent -/

/-- A 64-byte line of memory. -/
def State.lineBody (s : State) (line : Nat) : Body := BitVec.ofNat 512 (memRead s.mem (line * 64) 64)

/-- Whether a die of this package is the home of a line. -/
def State.isHome (s : State) (line d : Nat) : Bool := bits (line * 64) 45 7 == s.pkg.val && homeDie (line * 64) == d

/-- The dies that see a write of a line at once: the writer's, the line's home (R255, R256), and for a line of a gate's
window, whose accesses act at the home in the order in which they reach it, every die (20 R362). -/
def State.diesAtOnce (s : State) (writer : CoreId) (line : Nat) : List Nat :=
  (List.range 4).filter (fun d => d == dieOf writer || s.isHome line d || s.inAnyWindow line)

/-- The cores of the other dies that see a write of some lines at once learn of it (R255). -/
def State.lateHomes (s : State) (writer : CoreId) (lines : List Nat) : State :=
  (List.range 4).foldl (fun (t : State) d =>
    if d == dieOf writer then t else t.lateAt d (lines.filter (fun l => (s.diesAtOnce writer l).contains d))) s

/-- Superseded lines that some die may still read no more: newer values that satisfy a test are visible everywhere. -/
def State.showAll (s : State) (f : Stale → Bool) : State :=
  let r := showFrom f (fun e => { e with dies := List.range 4 }) s.stale
  let t : State := { s with stale := r.1.filter Stale.readable }
  (List.range 4).foldl (fun (t : State) d =>
    t.lateAt d ((s.stale.filter (fun e => f e && !e.dies.contains d)).map (·.line))) t

/-- Releases that lines held are overwritten (R259). -/
def State.dropLines (s : State) (lines : List Nat) : State :=
  lines.foldl (fun (t : State) l => t.dropKey (.line l)) s

/-- Bytes written at their homes by another agent than a core's program: stash copies invalidated, chunks marked (12
R240, 13 R248, 15 R288). What a core's engine writes, other dies may read superseded until its command completes
(R256, R288); what Slate writes is visible at once. -/
def State.putMem (s : State) (engine : Option CoreId) (bs : List (Nat × Byte)) : State :=
  let lines := addAll (bs.map (fun b => b.1 / 64)) []
  let t := ((s.wroteLines none lines).dropLines lines).keepLines (fun l => !lines.contains l.line)
  let u : State := { t with
    mem := bs.foldl (fun m b => memSet m b.1 b.2) s.mem
    memPoison := clearMemPoison t.memPoison (bs.map (·.1)) }
  match engine with
  | none => u.showAll (fun e => lines.contains e.line)
  | some c =>
    ({ u with stale := u.stale ++ (lines.map (fun l =>
        (⟨l, some c, s.diesAtOnce c l, [], [], s.lineBody l⟩ : Stale))).filter Stale.readable }
      |>.lateAt (dieOf c) lines).lateHomes c lines

/-- A core's engine has completed a command: its writes are visible everywhere (15 R288). -/
def State.engineDone (s : State) (c : CoreId) : State := s.showAll (fun e => e.engine == some c)

/-! ### Commits (R248, R251, R256) -/

/-- The oldest run of a core. -/
def Core.headRun (k : Core) : List Chunk := ((runs k.chunks).head?).getD []

/-- Pending bytes of a run, oldest first. -/
def Core.runBytes (k : Core) (r : List Chunk) : List GByte := k.arch.gwrites.filter (fun g => r.any (fun ch => ch.id == g.chunk))

/-- Lines that a run writes. -/
def runLines (r : List Chunk) : List Nat := (r.map (·.wr)).foldl (fun t x => addAll x t) []

/-- Whether a physical address lies in the window of a gate that is MIGRATING. -/
def State.migratingAt (s : State) (pa : Nat) : Bool :=
  s.gates.any (fun e => e.2.state == .migrating && (match e.2.window with
    | none => false
    | some w => w.base <= pa && pa < w.base + winBytes w.size.val))

/-- Lines that a run has read. -/
def runReads (r : List Chunk) : List Nat := (r.map (·.rd)).foldl (fun t x => addAll x t) []

/-- Whether a chunk must not commit after a run of its die has: it read a line older than the run did (R255). -/
def Chunk.behind (ch : Chunk) (reads : List Nat) : Bool := meets reads ch.late

/-- Whether a core that runs with priority holds a run of its die back (R251). -/
def State.behindHeld (s : State) (c : CoreId) (reads : List Nat) : Bool :=
  s.cores.any (fun e => e.1 != c.val && onDie (dieOf c) e.1 && e.2.prio && e.2.chunks.any (·.behind reads))

/-- Whether a run still waits for a chunk that pushes an element which it has popped (14 R279); one in conflict is
squashed without it. -/
def Core.runOpen (k : Core) (r : List Chunk) : Bool := k.owes && r.length == k.chunks.length && !r.any (·.conflict)

/-- Whether a core presents its oldest run to the arbiter: the run has ended, its entries have completed (14 R278), and
nothing holds its commit back (R251, 20 R365). -/
def State.commitReady (s : State) (c : CoreId) : Bool :=
  let k := s.core c
  let r := k.headRun
  !r.isEmpty && r.all (·.ended) && !k.runOpen r
  && !k.seq.any (fun e => r.any (fun ch => ch.id == e.chunk))
  && (k.run == .running)
  && !s.heldBack (some c) (runLines r)
  && !s.behindHeld c (runReads r)
  && !(k.runBytes r).any (fun g => s.migratingAt g.pa)

/-- The core that runs with priority after a commit: the lowest of the die that waits for it. An execution that what has
happened so far may squash (it is in conflict, or has read a line of which another agent has written a later value) is
squashed at once with its run, and the next execution has the priority (R251). -/
def State.passPrio (s : State) (c : CoreId) : State :=
  if s.diePrio c then s
  else match s.cores.findSome? (fun e => if onDie (dieOf c) e.1 then e.2.waitsPrio.map (fun ch => (coreOf e.1, ch)) else none) with
    | none => s
    | some (d, ch) =>
      let t := if ch.clean then s else s.squash d ch.id
      let kept := (t.core d).chunks.any (fun x => x.id == ch.id)
      t.onCore d (fun k => { k with prioPc := some (if kept then ch.start.pc else k.arch.pc) })

/-- The releases of a core's chunks that precede or follow a line's pending bytes: those that cover the line (R258),
final where their chunk commits now. -/
def Core.marksOn (k : Core) (r : List Chunk) (line : Nat) : List Mark :=
  let bs := (k.runBytes r).filter (fun g => g.pa / 64 == line)
  (k.chunks.map (fun ch => (ch.rels.filter (fun x =>
      bs.any (fun g => g.chunk < ch.id || (g.chunk == ch.id && g.n <= x.1)))).map (fun x =>
    if r.any (fun d => d.id == ch.id) then x.2 else { x.2 with pend := some (ch.id, x.1) }))).flatten

/-- The releases of a committed run take effect on what they cover. -/
def Stale.settle (e : Stale) (c : CoreId) (r : List Chunk) : Stale :=
  { e with marks := e.marks.map (fun m =>
      match m.pend with
      | none => m
      | some (ch, _) => if m.core == c && r.any (fun d => d.id == ch) then { m with pend := none } else m) }

/-- Stash copies after a commit: the others' are invalid, the writer's modified (12 R240). -/
def State.commitStash (s : State) (c : CoreId) (lines : List Nat) : State :=
  let t := s.keepLines (fun l => l.core == c || !lines.contains l.line)
  { t with stash := t.stash.map (fun l => if lines.contains l.line then { l with st := .m } else l) }

/-- The first line among those a commit reads from the journal whose entry is uncorrectable (19 R343). -/
def State.journalBad (s : State) (c : CoreId) (lines : List Nat) : Option Nat :=
  lines.find? (fun l => (s.core c).errs.jrnl.contains (2 * l + 1))

/-- The global address at which a partition maps a physical address. -/
def State.vaOf (s : State) (part : Option Nat) (pa : Nat) : Option Nat :=
  match part with
  | none => none
  | some id => (tabFind s.parts id).bind (fun p => s.mapsTo id p pa)

/-- A core's pending bytes without those of a run. -/
def Arch.dropRun (a : Arch) (r : List Chunk) : Arch :=
  { a with gwrites := a.gwrites.filter (fun g => !r.any (fun ch => ch.id == g.chunk)) }

/-- A committed view that has disabled an entry reaches the router at once (23 R389). -/
def StreamEntry.commitView (e : StreamEntry) (v : View) : StreamEntry :=
  if v.offs != e.words.offs && e.words.ctl.getLsbD 0 then
    { e with words := { e.words with ctl := v.offCtl, offs := v.offs } }
  else e

/-- The entries of a core after a commit. -/
def Core.commitViews (k : Core) : Core :=
  { k with entries := Vector.ofFn fun i => (k.entries[i]).commitView k.committed.views[i] }

/-- A core once its oldest run has committed. -/
def Core.afterCommit (k : Core) (r : List Chunk) : Core :=
  Core.commitViews { k with
    arch := k.arch.dropRun r
    seq := k.seq.map (fun e => { e with snap := e.snap.dropRun r })
    chunks := (k.chunks.drop r.length).map (fun ch => { ch with start := ch.start.dropRun r })
    zOld := k.zOld.filter (fun o => !r.any (fun ch => ch.id == o.1))
    errs := k.errs.keepJournal (k.chunks.drop r.length)
    squashes := r.foldl (fun t ch => tabDel t ch.start.pc.toNat) k.squashes
    prioPc := if r.any (fun ch => k.prioPc == some ch.start.pc) then none else k.prioPc }

/-- The oldest run commits: its bytes reach memory at one point, as whole lines that its stash holds correct, and other
dies may still read what they replace (R256), but for the acquires that a release of the run pairs with (R258, R259). -/
def State.commitRun (s : State) (c : CoreId) : State :=
  let k := s.core c
  let r := k.headRun
  let bs := k.runBytes r
  let lines := runLines r
  let olds : List Stale := lines.map (fun l =>
    ⟨l, none, s.diesAtOnce c l, [c], k.marksOn r l, s.lineBody l⟩)
  let t := ((s.wroteLines (some c) lines).dropLines lines).commitStash c lines
  let reads := runReads r
  let u : State := { t with
    mem := bs.foldl (fun m g => memSet m g.pa g.val) s.mem
    memPoison := t.memPoison.filter (fun d => !lines.contains (d / 8))
    stale := ((t.stale.map (·.settle c r)) ++ olds).filter Stale.readable
    cores := t.cores.map (fun e =>
      if e.1 != c.val && onDie (dieOf c) e.1 then (e.1, e.2.markChunks (·.behind reads)) else e) }
  ((u.lateHomes c lines).onCore c (·.afterCommit r)).passPrio c

/-- A chunk that the journal ended too early goes on: what follows it is undone (R247). -/
def State.rejoin (s : State) (c : CoreId) (ch : Chunk) : State :=
  let k := s.core c
  let reopen := fun (k : Core) => { k.onChunk ch.id (fun d => { d with ended := false, run := false, cut := none, cutBy := [] }) with
    await := false }
  match k.chunks.find? (fun d => ch.id < d.id) with
  | none => s.onCore c reopen
  | some d => s.rewound c d.start d.id 0 reopen

/-- CHUNK_COMMIT: the arbiter checks the oldest run and commits or squashes it; `spurious` is a conflict that the
signatures report and that does not exist. -/
def execChunkCommit (c : CoreId) (spurious : Bool) (s : State) : Out :=
  if !s.commitReady c then .next s
  else
    let k := s.core c
    let r := k.headRun
    match r.find? k.cutEarly with
    | some ch => .next (s.rejoin c ch)
    | none =>
      if r.any (·.conflict) || (spurious && !k.prio) then
        .next (match r with
          | [] => s
          | ch :: _ => s.squash c ch.id)
      else match s.journalBad c (runLines r) with
        | some l => .next (s.raise c .memErr .global (BitVec.ofNat 64 ((s.vaOf (k.part) (l * 64)).getD 0)) 0)
        | none => .next (s.commitRun c)

/-! ### Boundary instructions (R245) -/

/-- A boundary instruction ends the chunk before it, waits until that has committed and no earlier entry can trap, and
then acts outside any chunk. -/
def State.boundary (s : State) (f : State → Out) : Out :=
  let k := s.me.breakRun.endChunk
  if k.chunks.isEmpty && k.seq.isEmpty then f (s.setMe k) else .next (s.setMe k)

end Sys2Proof.Machine
end

