-- ==== Sys2Proof/Machine/Pools.lean ====
section
/-!
DEFINITION. The groups of the barrier lines and their pools (08 R177, R180, R181, 10 R217), the rule by which a wait
lends (R213, R216), and blocking and waking (09 R199, R200).
-/

namespace Sys2Proof.Machine

/-! ### Groups (R177) -/

/-- Whether a core counts as arrived in the current phase of line n (R174, R188). -/
def Core.arrived (k : Core) (n : Reg8) : Bool := k.pend.getLsbD n.val || k.run == .halted

/-- The members of the group of line n with a key, in ascending id.core order. -/
def State.members (s : State) (n : Reg8) (key : Nat) : List CoreId :=
  s.cores.filterMap (fun e =>
    if bmEn e.2.arch.bm[n] && e.2.groupKey (coreOf e.1) n == key then some (coreOf e.1) else none)

/-- The members that have not arrived (R181). -/
def State.missing (s : State) (n : Reg8) (key : Nat) : List CoreId :=
  (s.members n key).filter (fun c => !(s.core c).arrived n)

/-! ### Barrier pools (R217) -/

/-- An empty pool. -/
def Pool.empty : Pool := ⟨[], 0, []⟩

/-- The pool of a group. -/
def State.pool (s : State) (key : Nat) : Pool := tabGet Pool.empty s.pools key

/-- P: the shares lent to the root and not asked back. -/
def Pool.total (p : Pool) : Nat := (p.inb.map (fun c => c.here - c.due)).foldl (· + ·) 0

/-- What a member should hold of the pool. -/
def Pool.goal (p : Pool) (missing : List CoreId) (c : CoreId) : Nat :=
  if missing.contains c then p.total / missing.length else 0

/-- The root recalls what exceeds each member's part. -/
def Pool.recalls (p : Pool) (key : Nat) (missing : List CoreId) : Pool × List Amber :=
  let ovf := fun (g : CoreId × Nat × Nat) => (g.2.1 - g.2.2) - p.goal missing g.1
  ({ p with given := p.given.map (fun g => (g.1, g.2.1, g.2.2 + ovf g)) },
   p.given.filterMap (fun g => if ovf g = 0 then none else some (.recallMsg (.pool key) (.core g.1) (.pool key) 2 (ovf g) false)))

/-- Inserts a contribution by its sender's id.core. -/
def insertSender (c : Contrib) : List Contrib → List Contrib
  | [] => [c]
  | d :: ds =>
    match c.sender, d.sender with
    | .core a, .core b => if a <= b then c :: d :: ds else d :: insertSender c ds
    | _, _ => c :: d :: ds

/-- The root repays in ascending id.core order, each in full before the next, from what it holds. -/
def Pool.repay (p : Pool) (key : Nat) : Pool × List Amber :=
  let r := payDue p.held (p.inb.foldr insertSender [])
  ({ p with inb := pruneInb r.1, held := p.held - (r.2.map (·.2)).foldl (· + ·) 0 },
   r.2.map (fun x => .ret (.pool key) x.1.sender x.1.origin x.1.hop x.2))

/-- A member's part of the pool raised by m. -/
def Pool.give (p : Pool) (c : CoreId) (m : Nat) : Pool :=
  { p with
    held := p.held - m
    given := if p.given.any (fun g => g.1 == c) then p.given.map (fun g => if g.1 == c then (g.1, g.2.1 + m, g.2.2) else g)
      else p.given ++ [(c, m, 0)] }

/-- The root lends each missing member what it still lacks. -/
def Pool.lends (key : Nat) (missing : List CoreId) : Pool → List CoreId → Pool × List Amber
  | p, [] => (p, [])
  | p, c :: cs =>
    let has := ((p.given.find? (fun g => g.1 == c)).map (fun g => g.2.1 - g.2.2)).getD 0
    let m := min (p.goal missing c - has) p.held
    if m = 0 then Pool.lends key missing p cs
    else
      let r := Pool.lends key missing (p.give c m) cs
      (r.1, .lend (.pool key) (.core c) (.pool key) 2 m :: r.2)

/-- POOL_SPLIT: the root recomputes the split. -/
def State.poolSplit (s : State) (n : Reg8) (key : Nat) : State :=
  match tabFind s.pools key with
  | none => s
  | some p =>
    let missing := s.missing n key
    let a := p.recalls key missing
    let b := a.1.repay key
    let c := Pool.lends key missing b.1 missing
    let p := { c.1 with given := c.1.given.filter (fun g => g.2.1 != 0) }
    { s with
      pools := if p == Pool.empty then tabDel s.pools key else tabPut s.pools key p
      amber := s.amber ++ a.2 ++ b.2 ++ c.2 }

/-- The line of a group key. -/
def keyLine (key : Nat) : Reg8 := ⟨key % 8, Nat.mod_lt _ (by decide)⟩

/-- An arrival of a core on line n (R181, R189): its pend bit and the pool. -/
def State.arrive (s : State) (c : CoreId) (n : Reg8) : State :=
  (s.onCore c (fun k => { k with pend := k.pend ||| (1#8 <<< n.val) })).poolSplit n ((s.core c).groupKey c n)

/-- An arrival of a core on line n: a release at the group's scope (R261). -/
def State.groupRelease (s : State) (c : CoreId) (n : Reg8) : State :=
  s.released c (settingScope (bmSetting (s.core c).arch.bm[n])) (some (.group ((s.core c).groupKey c n) false))

/-- The phase of a group has been released. -/
def State.groupPassed (s : State) (key : Nat) : State := s.passKey (.group key false) (.group key true)

/-- A wait on line n that is over: an acquire at the group's scope, where the line is enabled (R261). -/
def State.groupAcquire (s : State) (c : CoreId) (n : Reg8) : State :=
  if bmEn (s.core c).arch.bm[n] then
    s.acquired c (settingScope (bmSetting (s.core c).arch.bm[n])) (.group ((s.core c).groupKey c n) true)
  else s

/-! ### Lending by a wait (R213, R216) -/

/-- Whether the matrix slice holds no work (R213). -/
def Core.sliceIdle (k : Core) : Bool := k.slice.cmd.isNone && k.q4.isEmpty

/-- Whether a core's wait may lend along an edge: lending is allowed, and the target lies in its partition. -/
def State.mayLend (s : State) (c : CoreId) (e : Edge) : Bool :=
  !bit (s.core c).arch.waitcfg.toNat 0
  && (match e with
      | .core t => (s.core t).part == (s.core c).part
      | .pool _ => true)

/-- The far end of an edge of a core. -/
def State.destOf (s : State) (c : CoreId) (e : Edge) : Holder :=
  match e with
  | .core t => .core t
  | .pool n => .pool ((s.core c).groupKey c n)

/-- The lending state of a waiting core brought in line with its wait (R213): it begins, moves or ends its loan. -/
def State.lendStep (s : State) (c : CoreId) : State :=
  let k := s.core c
  match k.wait with
  | none => s
  | some w =>
    match w.edge, k.power.mode with
    | none, .lend =>
      match k.edgeDest c with
      | none => s
      | some d => s.endLend c d
    | some e, .lend =>
      match k.edgeDest c with
      | none => s
      | some d =>
        if k.power.edge == some e then s
        else if s.mayLend c e then s.moveLend c e d (s.destOf c e)
        else s.endLend c d
    | some e, .run | some e, .recalling =>
      if s.mayLend c e && k.sliceIdle then s.beginLend c e (s.destOf c e) else s
    | _, _ => s

/-! ### Blocking and waking (R199) -/

/-- The executing core blocks in an instruction at a stage, with what it has already read; `edge` is R200's. -/
def State.block (s : State) (i : Instr) (stage : Nat) (payload : Body) (edge : Option Edge) : State :=
  (s.setMe { s.me with wait := some ⟨i, s.me.ilen, stage, payload, edge⟩ }).lendStep s.turn

/-- The executing core's wait is over: the loan along its edge is recalled (R213). -/
def State.wake (s : State) : State := s.dropWait s.turn

/-- The stage of the executing core's wait; 0 when it is not waiting. -/
def State.stage (s : State) : Nat :=
  match s.me.wait with
  | none => 0
  | some w => w.stage

/-- The payload of its wait. -/
def State.payload (s : State) : Body :=
  match s.me.wait with
  | none => 0
  | some w => w.payload

end Sys2Proof.Machine
end

