-- ==== Sys2Proof/Machine/Rings.lean ====
section
/-!
DEFINITION. Rings (16 R296 to R299): the quantities derived from a ring's registers, the check of a write, RINGSET and
RINGADV (R321, R322), and the registers' own writes.
-/

namespace Sys2Proof.Machine

/-- fmt code of a ring's base. -/
def Ring.fmtCode (r : Ring) : Nat := bits r.base.toNat 59 5
/-- Format of a ring. -/
def Ring.fmt (r : Ring) : Fmt := (Fmt.ofCode r.fmtCode).getD .raw
/-- blk of a ring's base. -/
def Ring.blk (r : Ring) : Nat := bits r.base.toNat 56 3
/-- Offset of slot 0. -/
def Ring.offset (r : Ring) : Nat := bits r.base.toNat 0 19
/-- Slots. -/
def Ring.slots (r : Ring) : Nat := bits r.size.toNat 0 16
/-- Bytes between slots. -/
def Ring.bytes (r : Ring) : Nat := bits r.tile.toNat 0 16
/-- Offset of the scale area. -/
def Ring.sbase (r : Ring) : Nat := bits r.scale.toNat 0 24

/-- Tiles present (R297). -/
def Ring.count (r : Ring) : Nat :=
  if r.slots = 0 then 0 else (r.tail.toNat + 2 * r.slots - r.head.toNat) % (2 * r.slots)
/-- Whether the ring is full; an unset ring is. -/
def Ring.full (r : Ring) : Bool := r.count == r.slots
/-- Whether the ring is empty; an unset ring is. -/
def Ring.isEmpty (r : Ring) : Bool := r.count == 0
/-- The status register (R296). -/
def Ring.status (r : Ring) : Word := BitVec.ofNat 64 (b2n r.full * 0x20000 + b2n r.isEmpty * 0x10000 + r.count)

/-- Bytes of a scale slot (R297). -/
def Ring.scaleBytes (r : Ring) : Nat :=
  match blkLen r.blk with
  | none => 0
  | some l => 4 * r.bytes * 8 / (r.fmt.width * l)

/-- Offset of the slot that a counter value names. -/
def Ring.slotAt (r : Ring) (h : Nat) : Nat := r.offset + h % r.slots * r.bytes
/-- Offset of its scale slot. -/
def Ring.scaleAt (r : Ring) (h : Nat) : Nat := r.sbase + h % r.slots * r.scaleBytes

/-- head moved on by n. -/
def Ring.advHead (r : Ring) (n : Nat) : Ring := { r with head := BitVec.ofNat 64 ((r.head.toNat + n) % (2 * r.slots)) }
/-- tail moved on by n. -/
def Ring.advTail (r : Ring) (n : Nat) : Ring := { r with tail := BitVec.ofNat 64 ((r.tail.toNat + n) % (2 * r.slots)) }

/-! ### The check of a write (R298) -/

/-- Outcomes of the check: which value has a bad field, or the lowest offending offset. -/
inductive RingBad where
  | fmt | base | geometry | bound (off : Nat)
  deriving DecidableEq, Repr

/-- The lowest offset of n bytes from lo outside S to 0x7_DFFF. -/
def badOffset (stash lo n : Nat) : Option Nat :=
  if n = 0 then none
  else if lo < stash then some lo
  else if lo + n - 1 > 0x7DFFF then some (max lo 0x7E000)
  else none

/-- The smaller of two optional offsets. -/
def minOpt : Option Nat → Option Nat → Option Nat
  | none, b => b
  | a, none => a
  | some a, some b => some (min a b)

/-- The check of a ring's registers as a whole. -/
def Ring.check (r : Ring) (stash : Nat) : Option RingBad :=
  if tagBad r.fmtCode r.blk then some .fmt
  else if bits r.base.toNat 19 37 != 0 || r.offset % 64 != 0 then some .base
  else if r.size.toNat > 8064 || r.tile.toNat >= 2 ^ 16 || r.bytes % 64 != 0 || (r.bytes = 0 && r.slots != 0)
      || r.scale.toNat >= 2 ^ 24 || (r.sbase % 4 != 0 && r.sbase != 0xFFFFFF)
      || (r.blk != 0 && r.sbase = 0xFFFFFF && r.slots != 0) then some .geometry
  else if r.slots = 0 then none
  else
    (minOpt (badOffset stash r.offset (r.slots * r.bytes))
      (if r.blk = 0 then none else badOffset stash r.sbase (r.slots * r.scaleBytes))).map .bound

/-- The trap of a failed check: `base` and `geometry` are the values written or named. -/
def RingBad.trap (b : RingBad) (base geometry ringBase : Word) : Trap :=
  match b with
  | .fmt => ⟨.fmt, ringBase⟩
  | .base => ⟨.resfield, base⟩
  | .geometry => ⟨.resfield, geometry⟩
  | .bound o => ⟨.localbound, BitVec.ofNat 64 o⟩

/-- Whether a slice command names a ring. -/
def MatCmd.names (c : MatCmd) (n : Reg8) : Bool :=
  c.a == n || (match c.op with
    | .mma b _ _ => b == n
    | .drain _ _ _ => false)

/-- Whether a command that names a ring is queued or running (R298). -/
def Core.ringNamed (k : Core) (n : Reg8) : Bool :=
  k.q2.any (fun c => c.adv && c.ring == n)
  || (match k.copy with
      | none => false
      | some r => r.cmd.adv && r.cmd.ring == n)
  || k.q4.any (fun c => c.names n)
  || (match k.slice.cmd with
      | none => false
      | some r => r.cmd.names n)

/-- A ring of the state written. -/
def Arch.setRing (a : Arch) (n : Reg8) (r : Ring) : Arch := { a with rings := a.rings.set n r }

/-- A checked write of a ring's four registers; head and tail become 0. -/
def State.writeRing (s : State) (n : Reg8) (r : Ring) (base geometry : Word) : Out :=
  if s.me.ringNamed n then s.stall
  else match r.check s.me.arch.stashSize with
    | some b => s.takeTrap (b.trap base geometry r.base)
    | none => s.done (s.me.arch.setRing n { r with head := 0, tail := 0 })

/-- RINGSET (R321). -/
def execRingset (d : Reg8) (a b : XReg) (s : State) : Out :=
  let g := s.x b
  let r : Ring := ⟨s.x a, BitVec.ofNat 64 (bits g.toNat 0 16), 0, 0, BitVec.ofNat 64 (bits g.toNat 16 16),
    BitVec.ofNat 64 (bits g.toNat 40 24)⟩
  let early := r.check 0 == some .fmt || r.check 0 == some .base
  if s.me.ringNamed d then s.stall
  else if bits g.toNat 32 8 != 0 && !early then s.trap .resfield g
  else s.writeRing d r (s.x a) g

/-- A write of head or tail (R298). -/
def State.writeEnd (s : State) (n : Reg8) (r : Ring) (v : Word) : Out :=
  if s.me.ringNamed n then s.stall
  else if v.toNat >= 2 * r.slots || r.count > r.slots then s.trap .resfield v
  else s.done (s.me.arch.setRing n r)

/-- SWR to ring register k of ring n: 0 base, 1 size, 2 head, 3 tail, 4 tile, 5 scale. -/
def State.writeRingReg (s : State) (n : Reg8) (k : Fin 6) (v : Word) : Out :=
  let r := s.me.arch.rings[n]
  match k with
  | 0 => s.writeRing n { r with base := v } v v
  | 1 => s.writeRing n { r with size := v } v v
  | 2 => s.writeEnd n { r with head := v } v
  | 3 => s.writeEnd n { r with tail := v } v
  | 4 => s.writeRing n { r with tile := v } v v
  | 5 => s.writeRing n { r with scale := v } v v

/-- RINGADV (R322): `head` selects the end. -/
def execRingadv (d : Reg8) (head : Bool) (n : Nat) (s : State) : Out :=
  let r := s.me.arch.rings[d]
  if r.slots = 0 || (!head && r.count + n > r.slots) || (head && n > r.count) then s.trap .ring r.status
  else s.done (s.me.arch.setRing d (if head then r.advHead n else r.advTail n))

end Sys2Proof.Machine
end

