-- ==== Sys2Proof/Machine/Sync.lean ====
section
/-!
DEFINITION. Page 5 (09_synchronisation_instructions.md): barrier lines, supersteps, channels and full/empty words, with
what a blocked one does when it is resumed. SHPARK and SHUNPARK stand in Shares.lean.
-/

namespace Sys2Proof.Machine

/-- The instruction completes: its wait, if it had one, is over, and `f` is its effect on the registers. -/
def State.finish (s : State) (f : Arch → Arch) : Out := (s.wake).done (f s.wake.me.arch)

/-- The instruction stays blocked, or blocks. -/
def State.blocked (s : State) (i : Instr) (stage : Nat) (payload : Body) (edge : Option Edge) : Out :=
  .next (s.block i stage payload edge)

/-! ### Barrier lines (R188 to R190) -/

/-- Whether the executing core is a member of a group on line n. -/
def State.enabled (s : State) (n : Reg8) : Bool := bmEn s.me.arch.bm[n]

/-- pend.n of the executing core. -/
def State.pending (s : State) (n : Reg8) : Bool := s.me.pend.getLsbD n.val

/-- The executing core arrives on line n: a release at the group's scope (13 R261). -/
def State.arriveMe (s : State) (n : Reg8) : State := (s.groupRelease s.turn n).arrive s.turn n

/-- BARV (R189). -/
def execBarv (n : Reg8) (s : State) : Out :=
  s.boundary (fun s =>
    if !s.enabled n then s.finish id
    else if s.pending n then s.blocked (.barv n) 0 0 (some (.pool n))
    else (s.arriveMe n).finish id)

/-- BWAIT (R189): an acquire at the group's scope once the phase is released (13 R261). -/
def execBwait (n : Reg8) (s : State) : Out :=
  if s.pending n then s.blocked (.bwait n) 0 0 (some (.pool n)) else (s.groupAcquire s.turn n).finish id

/-- Arrivals on the lines of a mask where that is possible now; yields the refused lines. -/
def arriveMask (mask : Nat) : List Reg8 → State → Nat → State × Nat
  | [], s, r => (s, r)
  | n :: ns, s, r =>
    if bit mask n.val && s.enabled n then
      if s.pending n then arriveMask mask ns s (r + 2 ^ n.val) else arriveMask mask ns (s.arriveMe n) r
    else arriveMask mask ns s r

/-- en of the eight lines. -/
def Arch.enMask (a : Arch) : Nat := ((List.finRange 8).map (fun n => b2n (bmEn a.bm[n]) * 2 ^ n.val)).foldl (· + ·) 0

/-- BMASK (R190). -/
def execBmask (d a : XReg) (s : State) : Out :=
  s.boundary (fun s =>
    let (t, refused) := arriveMask (s.x a).toNat (List.finRange 8) s 0
    t.finish (fun b => b.setX d (BitVec.ofNat 64 (refused * 0x10000 + t.me.arch.enMask * 0x100 + t.me.pend.toNat))))

/-- The barrier line of the launch (08 R179). -/
def launchLine : Reg8 := 7

/-! ### Supersteps (R191). The wait's stage: 1 before the first arrival, 2 before its release, 3 the exchange, 4 before
the second arrival, 5 before its release. -/

/-- The release and the acquire of SSTEP at the launch domain's scope, by its node order (13 R261). -/
def State.domainScope (s : State) (l : Nat) : Scope :=
  match tabFind s.launches l with
  | none => .die
  | some x => orderScope x.node.order

/-- SSTEP's release, before stage 1. -/
def State.domainRelease (s : State) : State :=
  match s.me.launch with
  | none => s
  | some l => s.released s.turn (s.domainScope l) (some (.domain l false))

/-- SSTEP's acquire, after stage 4. -/
def State.domainAcquire (s : State) : State :=
  match s.me.launch with
  | none => s
  | some l => s.acquired s.turn (s.domainScope l) (.domain l true)

/-- Stage 4 of R182, the wait. -/
def sstepEnd (s : State) : Out :=
  if s.enabled launchLine && s.pending launchLine then s.blocked .sstep 5 0 (some (.pool launchLine))
  else s.domainAcquire.finish id

/-- Stage 4 of R182, the arrival. -/
def sstepArriveAgain (s : State) : Out :=
  if !s.enabled launchLine then s.domainAcquire.finish id
  else if s.pending launchLine then s.blocked .sstep 4 0 (some (.pool launchLine))
  else sstepEnd (s.arriveMe launchLine)

/-- Whether the core's exchange is over: earlier commands have completed and every plan entry is delivered (15 R295). -/
def Core.exchanged (k : Core) : Bool := k.q2.isEmpty && k.copy.isNone && k.planAt == k.plan.length

/-- Stage 3: the exchange plan. -/
def sstepExchange (s : State) : Out :=
  if s.me.exchanged then sstepArriveAgain (s.setMe { s.me with planAt := 0 }) else s.blocked .sstep 3 0 none

/-- Stage 2: the wait for the release. -/
def sstepRelease (s : State) : Out :=
  if s.enabled launchLine && s.pending launchLine then s.blocked .sstep 2 0 (some (.pool launchLine))
  else sstepExchange (s.setMe { s.me with planAt := 0 })

/-- Stage 1: the arrival. -/
def sstepArrive (s : State) : Out :=
  if !s.enabled launchLine then sstepRelease s.domainRelease
  else if s.pending launchLine then s.blocked .sstep 1 0 (some (.pool launchLine))
  else sstepRelease (s.domainRelease.arriveMe launchLine)

/-- SSTEP: from the start, or from the stage it is blocked in. -/
def execSstep (s : State) : Out :=
  s.boundary (fun s =>
    if s.stage = 2 then sstepRelease s
    else if s.stage = 3 then sstepExchange s
    else if s.stage = 4 then sstepArriveAgain s
    else if s.stage = 5 then sstepEnd s
    else sstepArrive s)

/-! ### Channels (R192 to R195) -/

/-- sender of chcfg.n. -/
def chSender (w : Word) : CoreId := ⟨bits w.toNat 40 12, Nat.mod_lt _ (by decide)⟩
/-- depth of chcfg.n: log2 of the slots. -/
def chSlots (w : Word) : Nat := 2 ^ bits w.toNat 33 3
/-- en of chcfg.n. -/
def chEn (w : Word) : Bool := bit w.toNat 32
/-- base of chcfg.n. -/
def chBase (w : Word) : Nat := bits w.toNat 6 13 * 64

/-- Whether a channel has a free slot (R193). -/
def Chan.free (ch : Chan) (slots : Nat) : Bool := ch.count + (if ch.held.isSome then 1 else 0) < slots

/-- Whether an owner refuses a remote operation: it lies outside the requester's partition or is in reset (12 R243). -/
def State.refuses (s : State) (owner requester : CoreId) : Bool :=
  (s.core owner).part != (s.core requester).part || (s.core owner).run == .inReset

/-- n bytes of a body, lowest first. -/
def bodyBytes (b : Body) (n : Nat) : List Byte := (List.range n).map (fun i => b.extractLsb' (8 * i) 8)

/-- A body from bytes of a scratchpad. -/
def Arch.bodyAt (a : Arch) (lo n : Nat) : Body := BitVec.ofNat 512 (memRead a.spad lo n)

/-- A message of the executing core accepted by a channel: the slot written, its length and its sender noted, the count
raised (R194). -/
def State.accept (s : State) (dst : CoreId) (ch : Fin 16) (n : Nat) (payload : Body) : State :=
  let k := s.core dst
  let w := k.arch.chcfg[ch]
  let c := k.chans[ch]
  let slot := (c.head + c.count) % chSlots w
  (s.putSpad dst (chBase w + 64 * slot) (bodyBytes payload n)).onCore dst (fun k =>
    { k with chans := k.chans.set ch { c with count := c.count + 1, lens := c.lens.setIfInBounds slot n, srcs := c.srcs.setIfInBounds slot s.turn } })

/-- What the destination makes of a SEND's payload: nothing yet, a refusal, or its acceptance (R194, 12 R243). -/
def State.deliver (s : State) (i : Instr) (dst : CoreId) (ch : Fin 16) (n : Nat) (payload : Body) : Out :=
  let k := s.core dst
  let w := k.arch.chcfg[ch]
  let c := k.chans[ch]
  let addr : Word := BitVec.ofNat 64 (dst.val * 0x80000)
  if s.refuses dst s.turn then s.faultMe .violation .core addr
  else if !chEn w || !c.free (chSlots w)
      || s.spadHeld dst (chBase w + 64 * ((c.head + c.count) % chSlots w)) n true then s.blocked i 1 payload none
  else if chSender w != s.turn then s.faultMe .violation .core addr
  else ((s.released s.turn (covering s.turn dst) (some (.slot dst ch ((c.head + c.count) % chSlots w)))).accept
    dst ch n payload).finish id

/-- dst of a destination word. -/
def sendDst (w : Word) : CoreId := ⟨bits w.toNat 0 12, Nat.mod_lt _ (by decide)⟩
/-- ch of a destination word. -/
def sendCh (w : Word) : Fin 16 := ⟨bits w.toNat 12 4, Nat.mod_lt _ (by decide)⟩
/-- r of a destination word. -/
def sendReply (w : Word) : Fin 16 := ⟨bits w.toNat 16 4, Nat.mod_lt _ (by decide)⟩

/-- chcfg.n with another sender. -/
def chSetSender (w : Word) (c : CoreId) : Word :=
  (w.extractLsb' 52 12) ++ (BitVec.ofNat 12 c.val) ++ (w.extractLsb' 0 40)

/-- The checks of SEND's source (R194), and of a gate payload (20 R368): n bytes as dwords. -/
def payloadTrap (stash : Nat) (src : Word) (n : Nat) : Option Trap :=
  if src.toNat % 8 != 0 then some ⟨.align, src⟩ else boundTrap stash src.toNat n

/-- SEND (R194). A payload already read is in the wait. -/
def execSend (d a : XReg) (req : Bool) (len : Fin 8) (s : State) : Out :=
  let n := 8 * (len.val + 1)
  let src := s.x a
  let dw := s.x d
  if s.stage = 1 then s.deliver (.send d a req len) (sendDst dw) (sendCh dw) n s.payload
  else match payloadTrap s.me.arch.stashSize src n with
    | some t => s.takeTrap t
    | none => s.boundary (fun s =>
      match s.me.poisoned src.toNat n with
      | some p => s.faultMe .memErr .core (coreAddr s.turn (p * 8))
      | none =>
        let payload := s.me.arch.bodyAt src.toNat n
        let r := sendReply dw
        let s := if req then
            s.setMe { s.me with arch := { s.me.arch with
              chcfg := s.me.arch.chcfg.set r (chSetSender s.me.arch.chcfg[r] (sendDst dw)) } }
          else s
        s.deliver (.send d a req len) (sendDst dw) (sendCh dw) n payload)

/-- The next message of a channel is taken, an acquire of its SEND whoever is bound now (13 R261), or RPOLL finds none:
the held slot is released first (R195). -/
def State.takeMessage (s : State) (d : XReg) (ch : Fin 16) : Out :=
  let c := s.me.chans[ch]
  let w := s.me.arch.chcfg[ch]
  if c.count = 0 then
    (s.setMe { s.me with chans := s.me.chans.set ch { c with held := none } }).finish (fun b => b.setX d 0)
  else
    let s := s.acquired s.turn (covering s.turn (c.srcs[c.head]?.getD 0)) (.slot s.turn ch c.head)
    let c' : Chan := { c with head := (c.head + 1) % chSlots w, count := c.count - 1, held := some c.head }
    (s.setMe { s.me with chans := s.me.chans.set ch c' }).finish
      (fun b => b.setX d (BitVec.ofNat 64 ((c.lens[c.head]?.getD 0) * 2 ^ 32 + chBase w + 64 * c.head)))

/-- RECV (R195): blocked on an empty channel, it waits on the bound sender. -/
def execRecv (d : XReg) (ch : Fin 16) (s : State) : Out :=
  if !chEn s.me.arch.chcfg[ch] then s.trap .illegal (BitVec.ofNat 64 ch.val)
  else s.boundary (fun s =>
    let c := s.me.chans[ch]
    let s := s.setMe { s.me with chans := s.me.chans.set ch { c with held := none } }
    if c.count = 0 then s.blocked (.recv d ch) 1 0 (some (.core (chSender s.me.arch.chcfg[ch])))
    else s.takeMessage d ch)

/-- RPOLL (R195). -/
def execRpoll (d : XReg) (ch : Fin 16) (s : State) : Out :=
  if !chEn s.me.arch.chcfg[ch] then s.trap .illegal (BitVec.ofNat 64 ch.val)
  else s.boundary (fun s => s.takeMessage d ch)

/-! ### Full/empty words (R196 to R198) -/

/-- A core address with the checks that the requester makes (R197, 12 R229, R243). -/
def State.wordTrap (s : State) (a : Word) (n : Nat) : Option Trap :=
  match coreAddrTrap a n with
  | some t => some t
  | none =>
    if addrCore a == s.turn && addrOffset a < s.me.arch.stashSize then
      some ⟨.localbound, BitVec.ofNat 64 (addrOffset a)⟩
    else none

/-- Whether the owner refuses an operation on a word (12 R243). -/
def State.wordRefused (s : State) (a : Word) : Bool :=
  s.refuses (addrCore a) s.turn || addrOffset a < (s.core (addrCore a)).arch.stashSize

/-- Whether a word of a core is full. -/
def Core.isFull (k : Core) (o : Nat) : Bool := !k.arch.empties.contains o

/-- The contents of a word. -/
def Core.wordAt (k : Core) (o : Nat) : Word := BitVec.ofNat 64 (memRead k.arch.spad o 8)

/-- A word written with its state, by an operation at the bank. -/
def State.putWord (s : State) (owner : CoreId) (o : Nat) (v : Word) (full : Bool) : State :=
  (s.putSpad owner o ((List.range 8).map (fun i => v.extractLsb' (8 * i) 8))).onCore owner (fun k =>
    k.everywhere (fun a => { a with
      empties := if full then a.empties.filter (· != o) else if a.empties.contains o then a.empties else a.empties ++ [o] }))

/-- The takers listed for a word, oldest first. -/
def Core.takers (k : Core) (o : Nat) : List CoreId := (k.deferred.filter (fun d => d.word == o)).map (·.taker)

/-- The holder that an empty word's contents name. -/
def Core.holder (k : Core) (o : Nat) : CoreId := ⟨bits (k.wordAt o).toNat 0 12, Nat.mod_lt _ (by decide)⟩

/-- The entries that a word's bank lists: a bank is 64 KiB (01 R11). -/
def Core.bankUse (k : Core) (o : Nat) : Nat := (k.deferred.filter (fun d => d.word / 0x10000 == o / 0x10000)).length

/-- The edge of a take that waits: to the holder that the word names now (R200). -/
def State.takeEdge (s : State) (addr : Word) : Edge := .core ((s.core (addrCore addr)).holder (addrOffset addr))

/-- The edge of a listed or refused take: to the holder, while the word is empty (R200). -/
def State.wordEdge (s : State) (addr : Word) : Option Edge :=
  if (s.core (addrCore addr)).isFull (addrOffset addr) then none else some (s.takeEdge addr)

/-- A take reaches the bank. The wait's stage: 1 listed, 2 refused, 3 served, 4 held back from the bank, 5 held back
from it as it tries again after a refusal. -/
def State.take (s : State) (d a : XReg) (addr : Word) : Out :=
  let owner := addrCore addr
  let o := addrOffset addr
  let k := s.core owner
  if s.wordRefused addr then s.faultMe .violation .core addr
  else if s.spadHeld owner o 8 true then
    if s.stage = 2 || s.stage = 5 then s.blocked (.fetake d a) 5 0 (s.wordEdge addr) else s.blocked (.fetake d a) 4 0 none
  else match k.poisoned o 8 with
    | some p => s.faultMe .memErr .core (coreAddr owner (p * 8))
    | none =>
      let s := s.touchSpad owner o 8 false
      let k := s.core owner
      if k.isFull o then
        let v := k.wordAt o
        ((s.acquired s.turn (covering s.turn owner) (.word owner o)).putWord owner o (BitVec.ofNat 64 s.turn.val) false).finish (fun b => b.setX d v)
      else if k.bankUse o < 32 then
        (s.onCore owner (fun k => { k with deferred := k.deferred ++ [⟨o, s.turn⟩] })).blocked (.fetake d a) 1 0
          (some (.core (k.holder o)))
      else s.blocked (.fetake d a) 2 0 (some (.core (k.holder o)))

/-- FETAKE (R198). -/
def execFetake (d a : XReg) (s : State) : Out :=
  let addr := s.x a
  if s.stage = 3 then s.finish (fun b => b.setX d (s.payload.setWidth 64))
  else if s.stage = 1 then
    s.blocked (.fetake d a) 1 0 (s.wordEdge addr)
  else match s.wordTrap addr 8 with
    | some t => s.takeTrap t
    | none => s.boundary (fun s => s.take d a addr)

/-- A take served by a put: its wait holds the delivered value. -/
def Core.served (k : Core) (v : Word) : Core :=
  match k.wait with
  | none => k
  | some w => { k with wait := some { w with stage := 3, payload := v.setWidth 512 } }

/-- A put reaches the bank: it serves the oldest listed taker, or fills the word (R198). -/
def State.put (s : State) (owner : CoreId) (o : Nat) (v : Word) : State :=
  match (s.core owner).takers o with
  | t :: _ =>
    let s := s.putWord owner o (BitVec.ofNat 64 t.val) false
    let s := s.onCore owner (fun k => { k with deferred := k.deferred.filter (fun d => !(d.word == o && d.taker == t)) })
    (s.acquired t (covering t owner) (.word owner o)).onCore t (fun k => k.served v)
  | [] => s.putWord owner o v true

/-- FEPUT (R198). -/
def execFeput (d a b : XReg) (s : State) : Out :=
  let addr := s.x a
  let owner := addrCore addr
  let o := addrOffset addr
  match s.wordTrap addr 8 with
  | some t => s.takeTrap t
  | none => s.boundary (fun s =>
    if s.wordRefused addr then s.faultMe .violation .core addr
    else if s.spadHeld owner o 8 true then s.blocked (.feput d a b) 4 0 none
    else
      let prior := (s.core owner).isFull o
      ((s.released s.turn (covering s.turn owner) (some (.word owner o))).put owner o (s.x b)).finish
        (fun k => k.setX d (BitVec.ofNat 64 (b2n prior))))

/-- What FEPEEK writes into b (R198). -/
def Core.peekState (k : Core) (o : Nat) : Word :=
  BitVec.ofNat 64 (b2n (!k.isFull o && (k.takers o).contains (k.holder o)) * 0x10000
    + (k.takers o).length * 0x100 + b2n (k.isFull o))

/-- FEPEEK (R198): inside a chunk; on the core's own word it reads in program order, on another's it is a remote read
(13 R252). -/
def execFepeek (d a b : XReg) (s : State) : Out :=
  let addr := s.x a
  let owner := addrCore addr
  let o := addrOffset addr
  match s.wordTrap addr 8 with
  | some t => s.takeTrap t
  | none =>
    if owner == s.turn then
      s.localRead o 8 (fun s v =>
        (s.acquired s.turn .core (.word owner o)).finish
          (fun k => (k.setX d (BitVec.ofNat 64 v)).setX b (s.future.s.me.peekState o)))
    else if s.wordRefused addr then s.faultMe .violation .core addr
    else if s.spadHeld owner o 8 false then s.blocked (.fepeek d a b) 4 0 none
    else match (s.core owner).poisoned o 8 with
      | some p => s.faultMe .memErr .core (coreAddr owner (p * 8))
      | none =>
        let s := (s.touchSpad owner o 8 false).acquired s.turn (covering s.turn owner) (.word owner o)
        let k := s.core owner
        s.finish (fun r => (r.setX d (k.wordAt o)).setX b (k.peekState o))

/-! ### Deliveries and retries -/

/-- The wait of a core that still runs: one whose operation was refused, or that has been stopped, goes no further. -/
def Core.activeWait (k : Core) : Option Wait := if k.run == .running then k.wait else none

/-- SEND_DELIVERY: a waiting SEND's payload is accepted, refused, or waits on. -/
def execSendDelivery (c : CoreId) (s : State) : Out :=
  match (s.core c).activeWait with
  | some ⟨.send d a req len, _, 1, _, _⟩ => execSend d a req len { s with turn := c }
  | _ => .next s

/-- FETAKE_RETRY: a refused take tries again (R198). -/
def execFetakeRetry (c : CoreId) (s : State) : Out :=
  match (s.core c).activeWait with
  | some ⟨.fetake d a, _, 2, _, _⟩ => execFetake d a { s with turn := c }
  | _ => .next s

/-! ### Ivory (08 R172, R173, R180) -/

/-- Whether line n of a core's group is complete: the core has arrived, and so has every member. -/
def State.phaseDone (s : State) (c : CoreId) (n : Reg8) : Bool :=
  bmEn (s.core c).arch.bm[n] && (s.core c).pend.getLsbD n.val
  && (s.core c).run != .frozen && (s.core c).run != .stopped
  && (s.missing n ((s.core c).groupKey c n)).isEmpty

/-- A held core runs once the first release of b7 has reached it and its wake has been granted (R173). -/
def Core.leaveHeld (k : Core) : Core :=
  if k.run == .held && !k.pend.getLsbD 7 && k.power.cur != gatedLevel then { k with run := .running } else k

/-- BARRIER_RELEASE: the phase that a core has arrived in is released at every member; the root repays (10 R217). -/
def execBarrierRelease (c : CoreId) (n : Reg8) (s : State) : Out :=
  if !s.phaseDone c n then .next s
  else
    let key := (s.core c).groupKey c n
    let t := (s.members n key).foldl (fun (t : State) m =>
      t.onCore m (fun k => Core.leaveHeld { k with pend := k.pend &&& ~~~(1#8 <<< n.val) })) s
    let t := t.groupPassed key
    let t := match (s.core c).launch with
      | none => t
      | some l => if n = launchLine then t.passKey (.domain l false) (.domain l true) else t
    .next (t.poolSplit n key)

end Sys2Proof.Machine
end

