-- ==== Sys2Proof/Machine/Special.lean ====
section
/-!
DEFINITION. Special registers: SRD and SWR (03 R64, 05 R106, R107) and the write rule of each register.
-/

namespace Sys2Proof.Machine

/-! ### Reading -/

/-- A ring's register k; k = 6 is status. -/
def Ring.reg (r : Ring) (k : Nat) : Word :=
  match k with
  | 0 => r.base | 1 => r.size | 2 => r.head | 3 => r.tail | 4 => r.tile | 5 => r.scale
  | _ => r.status

/-- The barrier line, ring or loop number in the low three bits of a sid. -/
def low3 (n : Nat) : Reg8 := ⟨n % 8, Nat.mod_lt _ (by decide)⟩

/-- The receive channel of a chcfg sid. -/
def sidCh (n : Nat) : Fin 16 := ⟨(n - 0x28) % 16, Nat.mod_lt _ (by decide)⟩

/-- The value of a special register of the executing core; none for a reserved sid. -/
def State.special (s : State) (sid : Nat) : Option Word :=
  let k := s.me
  let a := k.arch
  if h : 1 <= sid ∧ sid <= 0x0A then some a.ids[sid - 1]
  else if 0x20 <= sid && sid < 0x28 then some a.bm[low3 sid]
  else if 0x28 <= sid && sid < 0x38 then some a.chcfg[sidCh sid]
  else if 0x40 <= sid && sid < 0x80 && sid % 8 != 7 then some (a.rings[low3 (sid / 8)].reg (sid % 8))
  else match sid with
    | 0x00 => some (BitVec.ofNat 64 s.turn.val)
    | 0x0B => some s.time
    | 0x0C => some k.levelReg
    | 0x0D => some k.shareOwn
    | 0x0E => some k.shareEff
    | 0x0F => some k.shareOut
    | 0x10 => some a.tvec
    | 0x11 => some a.tcause
    | 0x12 => some a.tpc
    | 0x13 => some a.tval
    | 0x14 => some a.tsave
    | 0x18 => some a.shape
    | 0x19 => some a.tmode
    | 0x1A => some a.amax
    | 0x1B => some a.amaxf
    | 0x1C => some a.perm
    | 0x1D => some a.gang
    | 0x1E => some a.accmode
    | 0x38 => some a.stashCfg
    | 0x39 => some a.chunkLim
    | 0x3A => some (BitVec.ofNat 64 k.chunkCnt)
    | 0x3C => some a.loop0
    | 0x3D => some a.loop1
    | 0x3E => some a.waitcfg
    | _ => none

/-- Whether SRD and SWR of a sid wait until the vector sequencer is empty (R107). -/
def sidWaits (sid : Nat) : Bool := 0x18 <= sid && sid <= 0x1E

/-- Whether a sid is read-only (R64). -/
def sidReadOnly (sid : Nat) : Bool :=
  sid == 0 || (0x0B <= sid && sid <= 0x0F) || sid == 0x3A || (0x40 <= sid && sid < 0x80 && sid % 8 == 6)

/-- SRD. -/
def execSrd (d : XReg) (sid : BitVec 8) (s : State) : Out :=
  match s.special sid.toNat with
  | none => s.trap .illegal (sid.setWidth 64)
  | some v => if sidWaits sid.toNat && !s.me.seq.isEmpty then s.stall else s.doneX d v

/-! ### Writing -/

/-- A refused value: RESFIELD with the value written (19 R335). -/
def State.refuse (s : State) (v : Word) : Out := s.trap .resfield v

/-- A trap register, with its res bits cleared (R23). -/
def State.writeTrapReg (s : State) (sid : Nat) (v : Word) : Out :=
  let a := s.me.arch
  match sid with
  | 0x10 => s.done { a with tvec := v &&& 0xFFFE }
  | 0x11 => s.done { a with tcause := v &&& 0xFF }
  | 0x12 => s.done { a with tpc := v &&& 0xFFFE }
  | 0x13 => s.done { a with tval := v }
  | _ => s.done { a with tsave := v &&& 1 }

/-- loop.n.cnt (R20); the new value takes part in this instruction's next pc (R107). -/
def State.writeLoop (s : State) (n : Bool) (v : Word) : Out :=
  if bit (loopStart v).toNat 0 || bit (loopEnd v).toNat 0 then s.refuse v
  else if n then s.done { s.me.arch with loop1 := v }
  else s.done { s.me.arch with loop0 := v }

/-- A register that waits for the sequencer, then checks and writes. -/
def State.writeWaiting (s : State) (bad : Bool) (v : Word) (f : Arch → Arch) : Out :=
  if !s.me.seq.isEmpty then s.stall else if bad then s.refuse v else s.done (f s.me.arch)

/-- amax or amaxf (R46). -/
def State.writeAmax (s : State) (f : Bool) (v : Word) : Out :=
  if f then s.writeWaiting (2 ^ 2 <= v.toNat) v (fun a => { a with amaxf := v })
  else s.writeWaiting (2 ^ 32 <= v.toNat) v (fun a => { a with amax := v })

/-- shape (07 R147). -/
def State.writeShape (s : State) (v : Word) : Out :=
  s.writeWaiting (2 ^ 32 <= v.toNat || (Fmt.fp32.value v.toNat).isNan) v (fun a => { a with shape := v })

/-- tmode (07 R148). -/
def State.writeTmode (s : State) (v : Word) : Out :=
  s.writeWaiting (v &&& ~~~(0x10F : Word) != 0 || v.toNat % 4 == 3) v (fun a => { a with tmode := v })

/-- Whether SWR to bm.n refuses a value (08 R176). -/
def bmBad (v : Word) : Bool :=
  let w := v.toNat
  2 ^ 12 <= w || bits w 3 4 != 0 || bits w 0 3 >= 6 || bits w 8 4 >= 10 || (bits w 8 4 != 0 && bits w 0 3 != 2)

/-- bm.n (08 R176, R178): it waits until the core's arrivals on the line have been released. -/
def State.writeBm (s : State) (n : Reg8) (v : Word) : Out :=
  if bmBad v then s.refuse v
  else s.boundary (fun s =>
    if s.pending n then s.stall
    else
      let old := s.me.groupKey s.turn n
      let t := s.setMe { s.me with arch := { s.me.arch with bm := s.me.arch.bm.set n v } }
      let t := (t.poolSplit n old).poolSplit n (t.me.groupKey t.turn n)
      t.done t.me.arch)

/-- The trap of a value for chcfg.n (09 R192, 12 R229). -/
def chcfgTrap (stash : Nat) (v : Word) : Option Trap :=
  let w := v.toNat
  if bits w 52 12 != 0 || bits w 36 4 != 0 || bits w 19 13 != 0 || bits w 0 6 != 0 || bits w 33 3 > 4 then
    some ⟨.resfield, v⟩
  else (badOffset stash (chBase v) (64 * chSlots v)).map (fun o => ⟨.localbound, BitVec.ofNat 64 o⟩)

/-- chcfg.n (09 R192): the channel becomes empty. -/
def State.writeChcfg (s : State) (n : Fin 16) (v : Word) : Out :=
  match chcfgTrap s.me.arch.stashSize v with
  | some t => s.takeTrap t
  | none => s.boundary (fun s =>
      let t := s.setMe { s.me with chans := s.me.chans.set n Chan.reset }
      t.done { t.me.arch with chcfg := t.me.arch.chcfg.set n v })

/-- waitcfg (10 R210). -/
def State.writeWaitcfg (s : State) (v : Word) : Out :=
  if 4 <= v.toNat then s.refuse v else s.done { s.me.arch with waitcfg := v }

/-- The stash lines of a core that no enabled window covers are written home and invalidated (12 R237, 14 R275). -/
def State.dropUncovered (s : State) (c : CoreId) (a : Arch) : State :=
  s.keepLines (fun l => !(l.core == c) || a.cacheable (l.va * 64))

/-- stash.cfg (12 R237). -/
def State.writeStashCfg (s : State) (v : Word) : Out :=
  let a := s.me.arch
  if 2 ^ 32 <= v.toNat || bits v.toNat 3 13 != 0 || v.toNat % 8 != a.stashCfg.toNat % 8
      || (List.finRange 16).any (fun n => bit v.toNat (16 + n.val) && winLg a.sw[n] < 16) then s.refuse v
  else
    let b := { a with stashCfg := v }
    (s.dropUncovered s.turn b).done b

/-- chunk.lim (13 R246): the new limit applies to the chunk in progress. -/
def State.writeChunkLim (s : State) (v : Word) : Out :=
  if v.toNat = 0 || v.toNat > 1024 then s.refuse v else s.done { s.me.arch with chunkLim := v }

/-- The wait of perm, accmode and gang: an empty sequencer, an idle slice and an empty q4 (16 R302, R304, R317). -/
def Core.sliceQuiet (k : Core) : Bool := k.seq.isEmpty && k.sliceIdle

/-- The first byte of a table image that R302 refuses. -/
def permBad : List Nat → List Nat → Nat → Option Nat
  | _, [], _ => none
  | seen, b :: bs, i => if b >= 192 || seen.contains b then some i else permBad (b :: seen) bs (i + 1)

/-- perm (16 R302): with en = 1 the table is latched. -/
def State.writePerm (s : State) (v : Word) : Out :=
  let off := bits v.toNat 0 19
  if !s.me.sliceQuiet then s.stall
  else if 2 ^ 33 <= v.toNat || bits v.toNat 19 13 != 0 then s.refuse v
  else if !bit v.toNat 32 then s.done { s.me.arch with perm := v }
  else match badOffset s.me.arch.stashSize off 192 with
    | some o => s.trap .localbound (BitVec.ofNat 64 o)
    | none =>
      s.localRead off 192 (fun s v =>
        let bs := numBytes 192 v
        match permBad [] (bs.map (·.toNat)) 0 with
        | some i => s.trap .resfield (BitVec.ofNat 64 (off + i))
        | none => s.done { s.me.arch with perm := v, permT := Vector.ofFn fun i => bs.getD i.val 0 })

/-- A tile zeroed: its uncorrectable rows are written too (19 R343). -/
def Core.zeroTile (k : Core) (z : Reg8) : Core :=
  { k with
    z := k.z.set z 0
    errs := { k.errs with acc := k.errs.acc.filter (fun n => n / 32 != z.val) } }

/-- Tiles zeroed by the executing instruction; what they held stays until its chunk commits (13 R249). -/
def Core.zeroTiles (k : Core) (f : Reg8 → Bool) : Core :=
  let zs := (List.finRange 8).filter f
  if zs.isEmpty then k
  else zs.foldl Core.zeroTile { k with zOld := k.zOld ++ [(k.curChunk, k.chunkCnt, k.z)] }

/-- accmode (16 R304): a tile whose mode changes becomes zero. -/
def State.writeAccmode (s : State) (v : Word) : Out :=
  if !s.me.sliceQuiet then s.stall
  else if 256 <= v.toNat then s.refuse v
  else (s.setMe (s.me.zeroTiles (fun i => bit v.toNat i.val != bit s.me.arch.accmode.toNat i.val))).done
    { s.me.arch with accmode := v }

/-- orig of gang. -/
def gangOrig (v : Word) : Nat := bits v.toNat 8 6
/-- width of gang. -/
def gangWidth (v : Word) : Nat := bits v.toNat 0 4

/-- Whether gang refuses a value on a core (16 R317). -/
def gangBad (c : CoreId) (v : Word) : Bool :=
  let x := CoreId.col c
  2 ^ 14 <= v.toNat || bits v.toNat 4 4 != 0 || gangWidth v > 8
  || (gangWidth v != 0 && (x < gangOrig v || gangOrig v + gangWidth v - 1 < x
      || gangOrig v / 32 != (gangOrig v + gangWidth v - 1) / 32))

/-- gang (16 R317). -/
def State.writeGang (s : State) (v : Word) : Out :=
  if !s.me.sliceQuiet then s.stall
  else if gangBad s.turn v then s.refuse v
  else s.done { s.me.arch with gang := v }

/-- SWR: the write rule of the register that a sid names. -/
def State.writeSpecial (s : State) (sid : Nat) (v : Word) : Out :=
  if h : 1 <= sid ∧ sid <= 0x0A then s.done { s.me.arch with ids := s.me.arch.ids.set (sid - 1) v }
  else if 0x20 <= sid && sid < 0x28 then s.writeBm (low3 sid) v
  else if 0x28 <= sid && sid < 0x38 then s.writeChcfg (sidCh sid) v
  else if h2 : 0x40 <= sid ∧ sid < 0x80 ∧ sid % 8 < 6 then s.writeRingReg (low3 (sid / 8)) ⟨sid % 8, h2.2.2⟩ v
  else match sid with
    | 0x10 | 0x11 | 0x12 | 0x13 | 0x14 => s.writeTrapReg sid v
    | 0x18 => s.writeShape v
    | 0x19 => s.writeTmode v
    | 0x1A => s.writeAmax false v
    | 0x1B => s.writeAmax true v
    | 0x1C => s.writePerm v
    | 0x1D => s.writeGang v
    | 0x1E => s.writeAccmode v
    | 0x38 => s.writeStashCfg v
    | 0x39 => s.writeChunkLim v
    | 0x3C => s.writeLoop false v
    | 0x3D => s.writeLoop true v
    | 0x3E => s.writeWaitcfg v
    | _ => s.trap .illegal (BitVec.ofNat 64 sid)

/-- SWR (R106): a reserved sid, then a read-only one, then the write rule. -/
def execSwr (r : XReg) (sid : BitVec 8) (s : State) : Out :=
  if sidReserved sid.toNat then s.trap .illegal (sid.setWidth 64)
  else if sidReadOnly sid.toNat then s.trap .rdonly (sid.setWidth 64)
  else s.writeSpecial sid.toNat (s.x r)

/-! ### The write rules as rows of their own -/

/-- LOOP_CNT_WRITE. -/
def execLoopCntWrite (n : Bool) (r : XReg) (s : State) : Out := s.writeLoop n (s.x r)
/-- AMAX_WRITE. -/
def execAmaxWrite (f : Bool) (r : XReg) (s : State) : Out := s.writeAmax f (s.x r)
/-- SHAPE_WRITE. -/
def execShapeWrite (r : XReg) (s : State) : Out := s.writeShape (s.x r)
/-- TMODE_WRITE. -/
def execTmodeWrite (r : XReg) (s : State) : Out := s.writeTmode (s.x r)
/-- BM_WRITE. -/
def execBmWrite (n : Reg8) (r : XReg) (s : State) : Out := s.writeBm n (s.x r)
/-- CHCFG_WRITE. -/
def execChcfgWrite (n : Fin 16) (r : XReg) (s : State) : Out := s.writeChcfg n (s.x r)
/-- WAITCFG_WRITE. -/
def execWaitcfgWrite (r : XReg) (s : State) : Out := s.writeWaitcfg (s.x r)
/-- STASH_CFG_WRITE. -/
def execStashCfgWrite (r : XReg) (s : State) : Out := s.writeStashCfg (s.x r)
/-- CHUNK_LIM_WRITE. -/
def execChunkLimWrite (r : XReg) (s : State) : Out := s.writeChunkLim (s.x r)
/-- RING_REGISTER_WRITE. -/
def execRingRegisterWrite (n : Reg8) (k : Fin 6) (r : XReg) (s : State) : Out := s.writeRingReg n k (s.x r)
/-- PERM_WRITE. -/
def execPermWrite (r : XReg) (s : State) : Out := s.writePerm (s.x r)
/-- ACCMODE_WRITE. -/
def execAccmodeWrite (r : XReg) (s : State) : Out := s.writeAccmode (s.x r)
/-- GANG_WRITE. -/
def execGangWrite (r : XReg) (s : State) : Out := s.writeGang (s.x r)

end Sys2Proof.Machine
end

