-- ==== Sys2Proof/Machine/Memory.lean ====
section
/-!
DEFINITION. Page 6, ops 0 to 9 (14_memory_instructions.md): global loads, stores and atomics, ATOML, FENCE, CHUNK,
STASH and the queues; the walkers, directories and translation caches (12 R235, R236, R240).
-/

namespace Sys2Proof

/-- The format an ATOML type names (R271). -/
def AtomTy.fmt : AtomTy → Fmt
  | .int32 => .int32 | .int64 => .int64 | .fp32 => .fp32 | .bf16 => .bf16

end Sys2Proof

namespace Sys2Proof.Machine

/-! ### Checks and effects of one global access (R268) -/

/-- The exact address of a global access. -/
def globalEa (p : Word) (off : Int) (n : Nat) : Int := (ptrAddr p : Int) + off * n

/-- FMT, PTROVF, ALIGN and SCOPE, in this order; `fmtBad` is the instruction's own refusal of the pointer. -/
def State.globalTrap (s : State) (p : Word) (fmtBad : Bool) (ea : Int) (n : Nat) (sc : Scope) : Option Trap :=
  if fmtBad then some ⟨.fmt, p⟩
  else if ea < 0 || ea + n - 1 >= (2 ^ 56 : Int) then some ⟨.ptrovf, wordOfInt ea⟩
  else if ea % n != 0 then some ⟨.align, wordOfInt ea⟩
  else if sc == .gate && !s.inWindow s.me.part ea.toNat n then some ⟨.scope, wordOfInt ea⟩
  else none

/-- A pointer that LDG and STG refuse. -/
def accessFmtBad (p : Word) : Bool := (Fmt.ofCode (ptrFmt p)).isNone || ptrBlk p != 0

/-- The physical address of a scalar access, or the class of its fault. `w` is a store's or an atomic's right, `rd`
whether the bytes are read; a line that is neither in the journal nor in the stash is filled whole (12 R239). -/
def State.accessPa (s : State) (va : Nat) (w rd : Bool) : Except FaultClass Nat :=
  match s.translate s.turn s.me.part va w with
  | .error f => .error f
  | .ok pa => if (if rd then s.readBad s.turn pa else s.fillBad s.turn pa) then .error .memErr else .ok pa

/-- Before an acquire's load: what releases in its scope cover becomes visible (13 R259). -/
def State.beginAcquire (s : State) (acq : Bool) (sc : Scope) (va : Nat) : State :=
  if acq then s.acquireShow s.turn sc (s.windowGate s.turn va) else s

/-- After it: the core has observed what the release that it read covers, and a later write of the line by another agent
is a conflict, for nothing later may come before the acquire (R259, R265 note b, log 12). -/
def State.endAcquire (s : State) (acq : Bool) (sc : Scope) (va pa n : Nat) : State :=
  if acq then
    let t := if (s.stalePick s.turn pa).isSome then s else s.acquireKey s.turn sc (s.windowGate s.turn va) (.line (pa / 64))
    if sc.wide then t.setMe (t.me.onChunk t.me.curChunk (fun ch => { ch with acq := addAll (linesOf pa n) ch.acq })) else t
  else s

/-- A release by a store of the open chunk, which takes effect when the chunk commits: what the core has observed so
far, and its own writes up to this one (R258). -/
def State.noteRelease (s : State) (rel : Bool) (sc : Scope) (va pa : Nat) : State :=
  if rel then
    let k := s.me
    let m := s.mark s.turn sc (if sc == .gate then s.windowGate s.turn va else none) (some (.line (pa / 64)))
    (s.setMe (k.onChunk k.curChunk (fun ch => { ch with rels := ch.rels ++ [(k.chunkCnt, m)] }))).cover
      { m with pend := some (k.curChunk, k.chunkCnt) } (fun _ => false)
  else s

/-- A scalar access continues once the tokens of its transfer are spent (20 R358). -/
def State.paying (s : State) (va pa : Nat) (f : State → Out) : Out :=
  match s.payLines s.turn 0 [(va, pa)] with
  | (t, true) => f t
  | (t, false) => .next t

/-- The instruction being executed, as its chunk and its number in it. -/
def State.here (s : State) : Nat × Nat := (s.me.curChunk, s.me.chunkCnt)

/-- A scalar read of n physical bytes goes on with the core as pending entries will leave it, unless a byte depends on
one that cannot execute yet (13 R247, log 12). -/
def State.readPending (s : State) (pa n : Nat) (f : State → Arch → Out) : Out :=
  let x := s.future
  match s.readAhead x x.glob pa n with
  | none => s.stall
  | some t => f t x.s.me.arch

/-- LDG (R268). -/
def execLdg (d a : XReg) (off : Int) (size : Size) (u acq : Bool) (sc : Scope) (s : State) : Out :=
  let n := size.bytes
  let ea := globalEa (s.x a) off n
  match s.globalTrap (s.x a) (accessFmtBad (s.x a)) ea n sc with
  | some t => s.takeTrap t
  | none =>
    let va := ea.toNat
    if s.gateStall s.me.part [(va, n)] then s.stall
    else match s.accessPa va false true with
      | .error f => s.faultMe f .global (wordOfInt ea)
      | .ok pa => s.paying va pa (fun s => s.readPending pa n (fun s a =>
        let b := s.beginAcquire acq sc va
        let v := b.gRead b.turn a b.here pa n
        let t := (b.endAcquire acq sc va pa n).noteAccess b.turn b.me.curChunk b.me.chunkCnt va pa n false
        t.done (t.me.arch.setX d (if u then BitVec.ofNat 64 v else sext64 (8 * n) v))))

/-- A pending write of the executing core's open chunk (13 R247); `f` continues with the written state. -/
def State.globalWrite (s : State) (va pa n v : Nat) (f : State → Out) : Out :=
  let ch := s.me.curChunk
  let m := s.me.chunkCnt
  let t := s.noteAccess s.turn ch m va pa n true
  if (t.me.journalOver ch).isSome then s.truncate (journalKeys [] (linesOf pa n))
  else f (t.setMe { t.me with arch := { t.me.arch with gwrites := addPending t.me.arch.gwrites (pendingBytes ch m pa n v) } })

/-- STG (R268). -/
def execStg (r a : XReg) (off : Int) (size : Size) (rel : Bool) (sc : Scope) (s : State) : Out :=
  let n := size.bytes
  let ea := globalEa (s.x a) off n
  match s.globalTrap (s.x a) (accessFmtBad (s.x a)) ea n sc with
  | some t => s.takeTrap t
  | none =>
    let va := ea.toNat
    match s.gateStoreTrap s.me.part [(va, n)] with
    | some t => s.takeTrap t
    | none =>
      if s.gateStall s.me.part [(va, n)] then s.stall
      else match s.accessPa va true false with
        | .error f => s.faultMe f .global (wordOfInt ea)
        | .ok pa => s.paying va pa (fun s => s.globalWrite va pa n (s.x r).toNat (fun t =>
            let t := t.noteRelease rel sc va pa
            t.done t.me.arch))

/-! ### Atomics (R269 to R271) -/

/-- new of R269: old, the operand and the comparand at the type's width. -/
def atomNew (aop : Aop) (ty : Fmt) (old v cmp : Nat) : Nat :=
  let w := ty.width
  match aop with
  | .add => if ty.isFloat then ty.add .rne old v else (old + v) % 2 ^ w
  | .and => old &&& v
  | .or => old ||| v
  | .xor => old ^^^ v
  | .min => if ty.isFloat then ty.fmin old v else if signed w old <= signed w v then old else v
  | .max => if ty.isFloat then ty.fmax old v else if signed w old >= signed w v then old else v
  | .swap => v
  | .cas => if old = cmp then v else old

/-- What d receives. -/
def atomOld (ty : Fmt) (old : Nat) : Word := if ty.isFloat then BitVec.ofNat 64 old else sext64 ty.width old

/-- The type of an ATOM, by its pointer's fmt (R270). -/
def atomType (p : Word) : Option Fmt :=
  match ptrFmt p with
  | 11 => some .int32
  | 14 => some .int64
  | 4 => some .fp32
  | 5 => some .bf16
  | _ => none

/-- ATOM (R270): a read and a write of one chunk. -/
def execAtom (d a b : XReg) (aop : Aop) (sc : Scope) (s : State) : Out :=
  let p := s.x a
  let ty := (atomType p).getD .int32
  let n := ty.width / 8
  let ea := globalEa p 0 n
  let bad := (atomType p).isNone || ptrBlk p != 0 || (aop.logic && ty.isFloat)
  match s.globalTrap p bad ea n sc with
  | some t => s.takeTrap t
  | none =>
    let va := ea.toNat
    match s.gateStoreTrap s.me.part [(va, n)] with
    | some t => s.takeTrap t
    | none =>
      if s.gateStall s.me.part [(va, n)] then s.stall
      else match s.accessPa va true true with
        | .error f => s.faultMe f .global (wordOfInt ea)
        | .ok pa => s.paying va pa (fun s => s.readPending pa n (fun s a =>
          let w := ty.width
          let old := s.gReadNow a s.here pa n
          let new := atomNew aop ty old ((s.x b).toNat % 2 ^ w) ((s.x d).toNat % 2 ^ w)
          let q := (s.beginAcquire true sc va).seen s.turn s.me.curChunk s.me.chunkCnt pa true
          let t := (q.endAcquire true sc va pa n).noteAccess q.turn q.me.curChunk q.me.chunkCnt va pa n false
          t.globalWrite va pa n new (fun t =>
            let t := t.noteRelease true sc va pa
            t.done (t.me.arch.setX d (atomOld ty old)))))

/-- A remote ATOML at the owner's bank (R271). -/
def State.atomlRemote (s : State) (i : Instr) (d a b : XReg) (aop : Aop) (ty : Fmt) : Out :=
  let addr := s.x a
  let owner := addrCore addr
  let o := addrOffset addr
  let w := ty.width
  let n := w / 8
  if s.wordRefused addr then s.faultMe .violation .core addr
  else if s.spadHeld owner o n true then s.blocked i 4 0 none
  else match (s.core owner).poisoned o n with
    | some p => s.faultMe .memErr .core (coreAddr owner (p * 8))
    | none =>
      let key := SyncKey.word owner o
      let t := (((s.acquired s.turn (covering s.turn owner) key).released s.turn (covering s.turn owner)
        (some key))).touchSpad owner o n true
      let old := memRead (t.core owner).arch.spad o n
      let new := atomNew aop ty old ((s.x b).toNat % 2 ^ w) ((s.x d).toNat % 2 ^ w)
      (t.putSpad owner o (numBytes n new)).finish (fun r => r.setX d (atomOld ty old))

/-- ATOML (R271): on the core's own word inside the chunk, on another core's a boundary instruction. -/
def execAtoml (d a b : XReg) (aop : Aop) (aty : AtomTy) (s : State) : Out :=
  let ty := aty.fmt
  let w := ty.width
  let addr := s.x a
  let o := addrOffset addr
  match s.wordTrap addr (w / 8) with
  | some t => s.takeTrap t
  | none =>
    if addrCore addr == s.turn then
      s.localRead o (w / 8) (fun t old =>
        let new := atomNew aop ty old ((s.x b).toNat % 2 ^ w) ((s.x d).toNat % 2 ^ w)
        t.localWrite o (w / 8) new (fun t => t.done (t.me.arch.setX d (atomOld ty old))))
    else s.boundary (fun s => s.atomlRemote (.atoml d a b aop aty) d a b aop ty)

/-! ### FENCE and CHUNK (R273) -/

/-- FENCE: SCOPE for GATE with no mapped window; else a fence at its scope (13 R260). -/
def execFence (sc : Scope) (s : State) : Out :=
  if sc == .gate && (s.windows s.me.part).isEmpty then s.trap .scope 0
  else s.boundary (fun s =>
    let t := s.fenced s.turn sc
    t.done t.me.arch)

/-- CHUNK. -/
def execChunk (s : State) : Out := s.boundary (fun s => s.done s.me.arch)

/-! ### STASH (R274 to R276) -/

/-- The window that x[a] names. -/
def windowOf (v : Word) : Fin 16 := ⟨v.toNat % 16, Nat.mod_lt _ (by decide)⟩

/-- STASH rdwin. -/
def execStashRdwin (d a : XReg) (s : State) : Out := s.doneX d s.me.arch.sw[windowOf (s.x a)]

/-- Whether wrwin refuses a value for window n (R275). -/
def Arch.windowBad (a : Arch) (n : Fin 16) (v : Word) : Bool :=
  if v = 0 then bit a.stashCfg.toNat (16 + n.val)
  else bits v.toNat 55 3 != 0 || bits v.toNat 0 16 != 0 || winLg v < 16 || winLg v > 55
    || winBase v % 2 ^ winLg v != 0

/-- STASH wrwin: lines that no enabled window covers afterwards leave the stash. -/
def execStashWrwin (d a b : XReg) (s : State) : Out :=
  let n := windowOf (s.x a)
  let v := s.x b
  if s.me.arch.windowBad n v then s.trap .resfield v
  else
    let old := s.me.arch.sw[n]
    let c := { s.me.arch with sw := s.me.arch.sw.set n v }
    (s.dropUncovered s.turn c).done (c.setX d old)

/-- The 64-byte lines [first, last + 1) of kinds 2 to 4: none for a length of 0. -/
def stashRange (p len : Word) : Nat × Nat :=
  if len = 0 then (0, 0)
  else (ptrAddr p / 64, (min (ptrAddr p + len.toNat) (2 ^ 56) - 1) / 64 + 1)

/-- Whether kinds 2 and 3 reach a held line: it lies in the range, and no uncommitted chunk of the core has written it
(R276). -/
def State.stashReaches (s : State) (r : Nat × Nat) (l : StashLine) : Bool :=
  l.core == s.turn && r.1 <= l.va && l.va < r.2 && !s.me.chunks.any (fun ch => ch.wr.contains l.line)

/-- STASH clean: modified lines go home and stay in state E. -/
def execStashClean (d a b : XReg) (s : State) : Out :=
  let r := stashRange (s.x a) (s.x b)
  let t : State := { s.writeBacks (s.stash.filter (s.stashReaches r)) with stash := s.stash.map (fun l =>
    if s.stashReaches r l && l.st == .m then { l with st := .e } else l) }
  t.doneX d 0

/-- STASH flush: lines go home and are invalidated. -/
def execStashFlush (d a b : XReg) (s : State) : Out :=
  let r := stashRange (s.x a) (s.x b)
  (s.keepLines (fun l => !s.stashReaches r l)).doneX d 0

/-- One line fetched: skipped where it is held, not cacheable, or its access would fault, with an uncorrectable line
among the faults (R276, 19 R343); none where it waits for a token. -/
def State.fetchLine (s : State) (line : Nat) : Option State :=
  let va := line * 64
  if s.stash.any (fun l => l.core == s.turn && l.va == line) || !s.me.arch.cacheable va then some s
  else match s.translate s.turn s.me.part va false with
    | .error _ => some s
    | .ok pa =>
      if s.readBad s.turn pa then some s
      else (s.transfer s.me.part (s.noNear s.turn s.me.part va) (pa / 64)).map (fun t => t.stashAccess s.turn va pa false)

/-- Lines fetched in ascending order, until one waits for a token: the fetch goes on there. -/
def State.fetchLines (s : State) (line : Nat) : Nat → State × Bool
  | 0 => (s.setMe { s.me with fetchAt := none }, true)
  | n + 1 =>
    match s.fetchLine line with
    | none => (s.setMe { s.me with fetchAt := some line }, false)
    | some t => t.fetchLines (line + 1) n

/-- STASH fetch: every line of the range in ascending order; which line a fill into a full stash evicts is not
architectural (12 R239, log 15). -/
def execStashFetch (d a b : XReg) (s : State) : Out :=
  let r := stashRange (s.x a) (s.x b)
  let first := s.me.fetchAt.getD r.1
  match s.fetchLines first (r.2 - first) with
  | (t, true) => t.doneX d 0
  | (t, false) => .next t

/-! ### Queues (R277, 01 R17) -/

/-- The depth of a queue. -/
def queueDepth (q : Reg8) : Nat := if q.val < 2 then 8 else if q.val % 2 = 0 then 2 else 4

/-- Elements present; for q2, q4 and q6 the commands that the engine has not yet taken. -/
def Core.queueCount (k : Core) (q : Reg8) : Nat :=
  match q with
  | 0 => k.arch.q0.length
  | 1 => k.arch.q1.length
  | 2 => k.q2.length
  | 3 => k.arch.q3.length
  | 4 => k.q4.length
  | 5 => k.arch.q5.length
  | 6 => k.q6.length
  | 7 => k.arch.q7.length

/-- The elements of a queue that QPOP reads. -/
def Arch.popQueue (a : Arch) (q : Reg8) : List Word :=
  match q with
  | 1 => a.q1
  | 3 => a.q3
  | 5 => a.q5
  | 7 => a.q7
  | _ => []

/-- Those elements replaced. -/
def Arch.setPopQueue (a : Arch) (q : Reg8) (l : List Word) : Arch :=
  match q with
  | 1 => { a with q1 := l }
  | 3 => { a with q3 := l }
  | 5 => { a with q5 := l }
  | 7 => { a with q7 := l }
  | _ => a

/-- A chunk's QPUSH of an element that an entry has popped before the chunk was undone, and of another value now, is a
conflict of the run (14 R279). -/
def Core.settleOwed (k : Core) (v w : Word) : Core :=
  if v = w then k else k.onChunk k.curChunk (fun ch => { ch with conflict := true })

/-- QPUSH: it waits while q0 is full. An element that q0 owes has been popped already. -/
def execQpush (a : XReg) (s : State) : Out :=
  match s.me.arch.owed with
  | w :: ws => (s.setMe (s.me.settleOwed w (s.x a))).finish (fun b => { b with owed := ws })
  | [] =>
  if s.me.arch.q0.length >= 8 then s.blocked (.qpush a) 0 0 none
  else s.finish (fun b => { b with q0 := b.q0 ++ [b.getX a] })

/-- QPOP: it waits while the queue is empty. A completion's pop is an acquire (13 R263): the command's writes already
stand at their homes. -/
def execQpop (d : XReg) (q : Reg8) (s : State) : Out :=
  match s.me.arch.popQueue q with
  | [] => s.blocked (.qpop d q) 0 0 none
  | v :: vs => s.finish (fun b => (b.setPopQueue q vs).setX d v)

/-- QSTAT. A squash can return popped elements to a queue that its engine has filled since: the queue holds the first of
them, and the others wait in the engine (01 R18, 13 R249, log 13). -/
def execQstat (d : XReg) (q : Reg8) (s : State) : Out :=
  s.doneX d (BitVec.ofNat 64 (queueDepth q * 256 + min (queueDepth q) (s.me.queueCount q)))

/-! ### Walkers, directories, translation caches -/

/-- PAGE_WALK: a walk for an access of a core ends with an entry in its cluster's cache, or with the access's fault. -/
def execPageWalk (c : CoreId) (va : BitVec 56) (w : Bool) (s : State) : Out :=
  match (s.core c).part with
  | none => .next s
  | some id =>
    match tabFind s.parts id with
    | none => .next s
    | some p =>
      if (s.core c).run != .running then .next s
      else match s.leafFor id p va.toNat with
        | .error f => .next (s.raise c f .global (va.setWidth 64) 0)
        | .ok l =>
          if w && !l.w then .next (s.raise c .violation .global (va.setWidth 64) 0)
          else
            let e : Cached :=
              ⟨⟨clusterOf c % 512, Nat.mod_lt _ (by decide)⟩, id, va.toNat / l.size * l.size, l.size, l.base, l.w, l.nc⟩
            let rest := s.tlb.filter (fun f => !(f.cluster == e.cluster && f.part == id && f.page <= va.toNat && va.toNat < f.page + f.size))
            let mine := rest.filter (fun f => f.cluster == e.cluster)
            let rest := if mine.length < 1024 then rest else
              match mine.getLast? with
              | none => rest
              | some o => rest.filter (· != o)
            .next { s with tlb := e :: rest }

/-- TRANSLATION_INVALIDATE: the entry leaves every translation cache. -/
def execTranslationInvalidate (part : Nat) (va : BitVec 56) (s : State) : Out :=
  .next { s with tlb := s.tlb.filter (fun e => !(e.part == part && e.page <= va.toNat && va.toNat < e.page + e.size)) }

/-- A core's request for a line of its address space, as its access would make it: filled, and shared or exclusive
(R239, R240). A read brings the newest value to the core's die; a write completes only when no conflicting copy is left
anywhere (13 R256). An uncorrectable line is not filled: the access itself faults (log 23). -/
def State.coreRequest (s : State) (c : CoreId) (line : Nat) (w : Bool) : State :=
  match s.translate c (s.core c).part (line * 64) w with
  | .error _ => s
  | .ok pa =>
    if s.fillBad c pa then s
    else
    let t := s.stashAccess c (line * 64) pa w
    if w then t.showAll (fun e => e.line == pa / 64) else t.showTo c none (fun e => e.line == pa / 64)

/-- DIRECTORY_REQUEST: a core's read, write or eviction of a line of its address space, or an agent's read or write of a
physical line; served unless a core that runs with priority holds it back (13 R251). -/
def execDirectoryRequest (c : CoreId) (line : Nat) (kind : DirKind) (s : State) : Out :=
  let held := fun (w : Option CoreId) (pa : Nat) => s.heldBack w [pa]
  let mine := fun (t : State) => match s.translate c (s.core c).part (line * 64) false with
    | .error _ => s
    | .ok pa => if held (some c) (pa / 64) then s else t
  match kind with
  | .read => .next (mine (s.coreRequest c line false))
  | .write => .next (mine (s.coreRequest c line true))
  | .evict => .next (s.keepLines (fun l => !(l.core == c && l.va == line)))
  | .agentRead =>
    if held none line then .next s
    else .next { s.writeBacks (s.stash.filter (fun l => l.line == line)) with
      stash := s.stash.map (fun l => if l.line == line then { l with st := .s } else l) }
  | .agentWrite =>
    if held none line then .next s
    else .next ((s.keepLines (fun l => l.line != line)).showAll (fun e => e.line == line))

end Sys2Proof.Machine
end

