-- ==== Sys2Proof/Machine/Copy.lean ====
section
/-!
DEFINITION. The copy engine (15_copy_engine.md): CPY and CPYX, the commands and segments it carries out, and exchange
plans.
-/

namespace Sys2Proof.Machine

/-! ### Issuing a command (R283 to R286) -/

/-- Whether the source of a kind is global. -/
def srcGlobal : CopyKind → Bool
  | .g2l | .g2g => true
  | _ => false

/-- Whether the destination of a kind is global. -/
def dstGlobal : CopyKind → Bool
  | .l2g | .g2g => true
  | _ => false

/-- The first byte of each row. -/
def rowStarts (base stride : Int) (rows : Nat) : List Int := (List.range rows).map (fun (r : Nat) => base + (r : Int) * stride)

/-- The smallest of some integers. -/
def leastInt : List Int → Option Int
  | [] => none
  | x :: xs =>
    match leastInt xs with
    | none => some x
    | some y => some (min x y)

/-- The lowest byte of some rows of len bytes that lies below lo or above hi. -/
def rowsOutside (starts : List Int) (len : Nat) (lo hi : Int) : Option Int :=
  if len = 0 then none
  else leastInt (starts.filterMap (fun x =>
    if x < lo then some x else if x + len - 1 > hi then some (max x (hi + 1)) else none))

/-- The checks of one side. -/
def sideTrap (stash : Nat) (global : Bool) (v : Word) (len rows : Nat) (stride : Int) : Option Trap :=
  let starts := rowStarts (ptrAddr v) stride rows
  if global then
    if (Fmt.ofCode (ptrFmt v)).isNone || blkReserved (ptrBlk v) then some ⟨.fmt, v⟩
    else (rowsOutside starts len 0 (2 ^ 56 - 1)).map (fun x => ⟨.ptrovf, wordOfInt x⟩)
  else (rowsOutside starts len stash 0x7DFFF).map (fun x => ⟨.localbound, wordOfInt x⟩)

/-- The command that CPY or CPYX describes; `shape` is the shape word of CPYX. -/
def copyCmd (kind : CopyKind) (dst src ctl : Word) (shape : Option Word) : CopyCmd :=
  let c := ctl.toNat
  let sh := (shape.map (·.toNat)).getD (2 ^ 48)
  ⟨kind, src, dst, bits c 0 32, bits sh 48 16, signed 24 (bits sh 24 24), signed 24 (bits sh 0 24), bits c 56 8,
    bit c 55, ⟨bits c 52 3 % 8, Nat.mod_lt _ (by decide)⟩, shape.isSome⟩

/-- The checks of a command, in order. -/
def copyTrap (stash : Nat) (m : CopyCmd) (ctl : Word) (shape : Option Word) : Option Trap :=
  if bits ctl.toNat 32 20 != 0 then some ⟨.resfield, ctl⟩
  else if m.rows = 0 then some ⟨.resfield, shape.getD 0⟩
  else match sideTrap stash (srcGlobal m.kind) m.src m.len m.rows m.sstr with
    | some t => some t
    | none => sideTrap stash (dstGlobal m.kind) m.dst m.len m.rows m.dstr

/-- A copy command checked and pushed; it waits while q2 is full. -/
def State.pushCopy (s : State) (i : Instr) (kind : CopyKind) (dst src ctl : Word) (shape : Option Word) : Out :=
  let m := copyCmd kind dst src ctl shape
  match copyTrap s.me.arch.stashSize m ctl shape with
  | some t => s.takeTrap t
  | none => s.boundary (fun s =>
      if s.me.q2.length >= 2 then s.blocked i 0 0 none
      else (s.setMe { s.me with q2 := s.me.q2 ++ [m] }).finish id)

/-- CPY. -/
def execCpy (kind : CopyKind) (d a b : XReg) (s : State) : Out :=
  s.pushCopy (.cpy kind d a b) kind (s.x d) (s.x a) (s.x b) none

/-- CPYX. -/
def execCpyx (kind : CopyKind) (d a b e : XReg) (s : State) : Out :=
  s.pushCopy (.cpyx kind d a b e) kind (s.x d) (s.x a) (s.x b) (some (s.x e))

/-! ### Carrying out a command (R281, R287 to R291) -/

/-- Whether a core's engines may act: not in reset, frozen or put away. -/
def Core.enginesRun (k : Core) : Bool := k.run == .running || k.run == .held || k.run == .halted

/-- Whether the core waits in HALT (R292). -/
def Core.halting (k : Core) : Bool :=
  match k.wait with
  | some w => w.instr == .halt
  | none => false

/-- Whether a completion may enter a completion queue, or be discarded because the core waits in HALT (R292). -/
def Core.room (k : Core) (q : List Word) : Bool := q.length < 4 || k.halting

/-- A completion element pushed into q3, or discarded. -/
def Core.complete3 (k : Core) (v : Word) : Core :=
  if k.halting && k.arch.q3.length >= 4 then k else k.everywhere (fun a => { a with q3 := a.q3 ++ [v] })

/-- COPY_COMMAND: the engine takes the oldest command once q3 has room. -/
def execCopyCommand (c : CoreId) (s : State) : Out :=
  let k := s.core c
  match k.q2, k.copy with
  | m :: ms, none =>
    if k.enginesRun && k.room k.arch.q3 then
      .next (s.setCore c { k with q2 := ms, copy := some ⟨m, 0, [], [], false⟩ })
    else .next s
  | _, _ => .next s

/-- Bytes of a whole command. -/
def CopyCmd.total (m : CopyCmd) : Nat := m.len * m.rows

/-- The source address of byte i of a command, in row order. -/
def CopyCmd.srcAt (m : CopyCmd) (i : Nat) : Nat :=
  ((ptrAddr m.src : Int) + (i / m.len : Nat) * m.sstr + (i % m.len : Nat)).toNat

/-- The destination address of byte i. -/
def CopyCmd.dstAt (m : CopyCmd) (i : Nat) : Nat :=
  ((ptrAddr m.dst : Int) + (i / m.len : Nat) * m.dstr + (i % m.len : Nat)).toNat

/-- The number of a byte of row r; below the row's start, its first. -/
def CopyCmd.byteNo (m : CopyCmd) (r : Nat) (off : Int) : Nat := r * m.len + off.toNat

/-- The byte of a command that stands last at a destination address: the later row's bytes remain (R287). -/
def CopyCmd.lastTo (m : CopyCmd) (a : Nat) : Option Nat :=
  ((List.range m.rows).reverse).findSome? (fun (r : Nat) =>
    let b := (ptrAddr m.dst : Int) + (r : Int) * m.dstr
    if b <= a && (a : Int) < b + m.len then some (m.byteNo r (a - b)) else none)

/-- The first byte of a command that goes to an aligned destination dword. -/
def CopyCmd.firstIn (m : CopyCmd) (d : Nat) : Option Nat :=
  (List.range m.rows).findSome? (fun (r : Nat) =>
    let b := (ptrAddr m.dst : Int) + (r : Int) * m.dstr
    if b < (8 * d + 8 : Nat) && ((8 * d : Nat) : Int) < b + m.len then some (m.byteNo r ((8 * d : Nat) - b)) else none)

/-- What bytes [pos, pos + n) of a command write, as (destination address, byte of the command): whole aligned dwords,
each with the segment that holds its first byte, so that a dword is old or new (R287). -/
def CopyCmd.writes (m : CopyCmd) (pos n : Nat) : List (Nat × Nat) :=
  let ds := ((List.range n).map (fun i => (pos + i, m.dstAt (pos + i) / 8))).filter (fun x => m.firstIn x.2 == some x.1)
  (ds.map (fun x => (List.range 8).filterMap (fun b => (m.lastTo (8 * x.2 + b)).map (fun i => (8 * x.2 + b, i))))).flatten

/-- The longest piece of at most n bytes from pos on that writes at most 4 KiB (R291). -/
def CopyCmd.fit (m : CopyCmd) (pos : Nat) : Nat → Nat
  | 0 => 0
  | n + 1 => if (m.writes pos (n + 1)).length <= 4096 then n + 1 else m.fit pos n

/-- Bytes of the segment at pos. -/
def CopyCmd.segment (m : CopyCmd) (pos : Nat) : Nat := m.fit pos (min 4096 (m.total - pos))

/-- All bytes of the aligned dwords that hold some addresses. -/
def wholeDwords (as : List Nat) : List Nat := (((as.map (· / 8)).eraseDups).map (fun d => (List.range 8).map (8 * d + ·))).flatten

/-- Whether a later segment reads from an aligned source dword again. -/
def CopyCmd.needsLater (m : CopyCmd) (pos d : Nat) : Bool :=
  (List.range (m.total - pos)).any (fun i => m.srcAt (pos + i) / 8 == d)

/-- The source bytes that a segment has read and that stand in dwords which a later segment reads again, by address:
they are copied as they were at the first read (R287). -/
def CopyCmd.latched (m : CopyCmd) (pos : Nat) (is : List Nat) : List Nat :=
  (wholeDwords (is.map m.srcAt)).filter (fun a => m.needsLater pos (a / 8))

/-- A byte of an association list. -/
def keptAt (l : List (Nat × Byte)) (a : Nat) : Option Byte := (l.find? (fun e => e.1 == a)).map (·.2)

/-- A fault met by an engine: its class, how its address is read, the address. -/
abbrev EngineFault := FaultClass × Place × Word

/-- The physical address of a global byte that an engine of core c reads or writes. -/
def State.enginePa (s : State) (c : CoreId) (va : Nat) (w : Bool) : Except EngineFault Nat :=
  match s.translate c (s.core c).part va w with
  | .error f => .error (f, .global, BitVec.ofNat 64 va)
  | .ok pa => if !w && s.homeBad pa then .error (.memErr, .global, BitVec.ofNat 64 va) else .ok pa

/-- Source byte i: as it was before the command wrote over it. -/
def State.copyByte (s : State) (c : CoreId) (r : CopyRun) (i : Nat) : Except EngineFault Byte :=
  let a := r.cmd.srcAt i
  if srcGlobal r.cmd.kind then
    match s.enginePa c a false with
    | .error f => .error f
    | .ok pa => .ok ((keptAt r.keptG pa).getD (s.physByte pa))
  else
    let k := s.core c
    match k.poisoned a 1 with
    | some d => .error (.memErr, .core, coreAddr c (d * 8))
    | none => .ok ((keptAt r.keptL a).getD (memGet k.committed.spad a))

/-- The outcomes of a list of reads: the first fault, or all values. -/
def allOk {ε α : Type} : List (Except ε α) → Except ε (List α)
  | [] => .ok []
  | .error e :: _ => .error e
  | .ok a :: r =>
    match allOk r with
    | .error e => .error e
    | .ok as => .ok (a :: as)

/-- The completion element (R290). -/
def copyDone (m : CopyCmd) (status rows : Nat) : Word :=
  BitVec.ofNat 64 (m.tag * 2 ^ 56 + status * 2 ^ 52 + b2n m.x * 2 ^ 48 + rows * 2 ^ 32 + m.len)

/-- COPY_COMPLETION: the ring advances, the element enters q3, the engine is free. -/
def State.copyComplete (s : State) (c : CoreId) (r : CopyRun) (gateErr : Bool) : State :=
  let k := s.core c
  let m := r.cmd
  let full := (k.committed.rings[m.ring]).full
  let status := if gateErr then 3 else if m.adv && full then 1 else if r.corrected then 2 else 0
  let k := if m.adv && !gateErr && !full then
      k.everywhere (fun a => a.setRing m.ring (a.rings[m.ring].advTail 1)) else k
  let k := k.complete3 (copyDone m status (if gateErr then r.pos / m.len else m.rows))
  (s.setCore c { k with copy := none, progress := s.time }).engineDone c

/-- Old values added for bytes about to be overwritten. -/
def keepOld (kept : List (Nat × Byte)) (old : Nat → Byte) (as : List Nat) : List (Nat × Byte) :=
  as.foldl (fun l a => if (keptAt l a).isSome then l else (a, old a) :: l) kept

/-- A run moved on by n bytes, complete at its end. -/
def State.copyAdvance (s : State) (c : CoreId) (r : CopyRun) (n : Nat) : State :=
  let r := { r with pos := r.pos + n }
  if r.cmd.total <= r.pos then s.copyComplete c r false
  else s.onCore c (fun k => { k with copy := some r, progress := s.time })

/-- The run with the source bytes kept that this segment's read fixes for later ones. -/
def State.latch (s : State) (c : CoreId) (r : CopyRun) (n : Nat) (is : List Nat) : CopyRun :=
  let as := r.cmd.latched (r.pos + n) is
  if srcGlobal r.cmd.kind then
    { r with keptG := keepOld r.keptG s.physByte (as.filterMap (fun a => match s.enginePa c a false with
        | .ok pa => some pa
        | .error _ => none)) }
  else { r with keptL := keepOld r.keptL (memGet (s.core c).committed.spad) as }

/-- A write of the engine into its own core's scratchpad (R287, R288); where the command reads from it later, the dwords
are kept whole as they were. -/
def State.copyLocal (s : State) (c : CoreId) (r : CopyRun) (n : Nat) (as : List Nat) (bs : List Byte) : State :=
  let r := if r.cmd.kind == .l2l then { r with keptL := keepOld r.keptL (memGet (s.core c).committed.spad) (wholeDwords as) } else r
  let t := (as.zip bs).foldl (fun (t : State) e => t.putSpad c e.1 [e.2]) s
  -- dwords written whole lose their poison
  let t := t.onCore c (fun k => { k with poison := clearMemPoison k.poison as })
  t.copyAdvance c r n

/-- A write of the engine to global memory at its homes. -/
def State.copyGlobal (s : State) (c : CoreId) (r : CopyRun) (n : Nat) (pas : List Nat) (bs : List Byte) : State :=
  let r := if r.cmd.kind == .g2g then { r with keptG := keepOld r.keptG s.physByte (wholeDwords pas) } else r
  (s.putMem (some c) (pas.zip bs)).copyAdvance c r n

/-- The lines of a segment's global bytes, as (global address, physical address). -/
def State.segmentLines (s : State) (c : CoreId) (srcs dsts : List Nat) : List (Nat × Nat) :=
  (srcs.map (·, false) ++ dsts.map (·, true)).filterMap (fun x => match s.enginePa c x.1 x.2 with
    | .ok pa => some (x.1, pa)
    | .error _ => none)

/-- The writes of a segment whose source bytes have been read: at the homes, or in the scratchpad. -/
def State.copyWrite (s : State) (c : CoreId) (r : CopyRun) (n : Nat) (dsts : List Nat) (bs : List Byte) : State :=
  if dstGlobal r.cmd.kind then
    match allOk (dsts.map (fun a => s.enginePa c a true)) with
    | .error (f, p, a) => s.raise c f p a 0
    | .ok pas =>
      if s.heldBack none (addAll (pas.map (· / 64)) []) then s else s.copyGlobal c r n pas bs
  else if dsts.any (fun a => s.spadHeld c a 1 true) then s
  else s.copyLocal c r n dsts bs

/-- COPY_SEGMENT: up to 4 KiB of the command in progress, once their transfers have tokens (20 R358): every source byte
of the segment is read, also one that a later row overwrites (R287, R291); `corrected` says that ECC corrected a soft
error. -/
def execCopySegment (c : CoreId) (corrected : Bool) (s : State) : Out :=
  let k := s.core c
  match k.copy with
  | none => .next s
  | some r0 =>
    let r := { r0 with corrected := r0.corrected || corrected }
    let m := r.cmd
    let n := m.segment r.pos
    let ws := m.writes r.pos n
    let is := (List.range n).map (r.pos + ·) ++ ws.map (·.2)
    let dsts := ws.map (·.1)
    let gsrc := if srcGlobal m.kind then is.map m.srcAt else []
    let gdst := if dstGlobal m.kind then dsts else []
    if !k.enginesRun || s.gateStall k.part ((gsrc ++ gdst).map (fun a => (a, 1))) then .next s
    else match allOk (is.map (s.copyByte c r)) with
      | .error (f, p, a) => .next (s.raise c f p a 0)
      | .ok bs =>
        match s.gateStoreTrap k.part (gdst.map (fun a => (a, 1))) with
        | some t => .next ((s.logRefusal c .global t.tval).copyComplete c r true)
        | none => match s.payLines c 2 (s.segmentLines c gsrc gdst) with
          | (t, true) => .next (t.copyWrite c (s.latch c r n is) n dsts (bs.drop n))
          | (t, false) => .next t

/-! ### Exchange plans (R293 to R295) -/

/-- Whether a core is in stage 3 of SSTEP (09 R191). -/
def Core.inExchange (k : Core) : Bool :=
  match k.wait with
  | some w => w.instr == .sstep && w.stage == 3
  | none => false

/-- PLAN_ENTRY: the next entry of the plan, once every earlier command has completed. -/
def execPlanEntry (c : CoreId) (s : State) : Out :=
  let k := s.core c
  match k.plan[k.planAt]? with
  | none => .next s
  | some e =>
    if !k.inExchange || !k.q2.isEmpty || k.copy.isSome || !k.enginesRun then .next s
    else match k.poisoned e.soff e.len with
      | some d => .next (s.raise c .memErr .core (coreAddr c (d * 8)) 0)
      | none =>
        if s.spadHeld e.dst e.doff e.len true then .next s
        else
          let t := s.putSpad e.dst e.doff (memBytes k.committed.spad e.soff e.len)
          .next (t.onCore c (fun k => { k with planAt := k.planAt + 1, progress := s.time }))

end Sys2Proof.Machine
end

