-- ==== Sys2Proof/Machine/Matrix.lean ====
section
/-!
DEFINITION. The matrix slice (16_matrix_engine.md): MMA and MDRAIN, gangs, K steps, drains, completions, and the slew
limiter of a cluster (R323 to R326).
-/

namespace Sys2Proof.Machine

/-! ### Pairings (R300) -/

/-- A pairing: channels of a K step, tiles of A and of B, whether the tile holds RES elements. -/
structure Pairing where
  e : Nat
  ta : Nat
  tb : Nat
  res : Bool
  deriving DecidableEq, Repr

/-- The pairing of two operand formats. -/
def pairing (fa fb : Fmt) : Option Pairing :=
  match fa, fb with
  | .bf16, .bf16 | .fp16, .fp16 => some ⟨48, 1, 1, false⟩
  | .e4m3, .e4m3 | .e4m3, .e5m2 | .e5m2, .e4m3 | .e5m2, .e5m2 => some ⟨96, 1, 1, false⟩
  | .e2m1, .e2m1 => some ⟨192, 1, 1, false⟩
  | .int8, .int8 => some ⟨96, 1, 1, true⟩
  | .int4, .int4 => some ⟨192, 1, 1, true⟩
  | .int8, .int4 => some ⟨192, 2, 1, true⟩
  | .int4, .int8 => some ⟨192, 1, 2, true⟩
  | _, _ => none

/-- Whether R300 pairs a format with some other. -/
def operandFmt : Fmt → Bool
  | .bf16 | .fp16 | .e4m3 | .e5m2 | .e2m1 | .int8 | .int4 => true
  | _ => false

/-- Whether an operand format accumulates in RES. -/
def resOperand (f : Fmt) : Bool := f == .int8 || f == .int4

/-! ### Issuing (R307, R308, R312, R313) -/

/-- accmode of a tile. -/
def Arch.resTile (a : Arch) (d : Reg8) : Bool := bit a.accmode.toNat d.val

/-- tval of MATRIX: the two formats, 0xFF for none, and the tile's mode. -/
def matrixVal (fa : Nat) (fb : Option Nat) (mode : Bool) : Word :=
  BitVec.ofNat 64 (fa + (fb.getD 0xFF) * 0x100 + b2n mode * 0x10000)

/-- tval of RING: the ring number. -/
def ringVal (n : Reg8) : Word := BitVec.ofNat 64 n.val

/-- The PAGE prefix of an MMA, the word that holds byp and perm (03 R66). -/
def mmaPage (m : MmaMode) : Word :=
  BitVec.ofNat 64 (0xFD80 + b2n m.byp * 8 + b2n m.perm * 4 + b2n m.gang * 2 + b2n m.zero)

/-- The PAGE prefix of an MDRAIN. -/
def drainPage (m : DrainMode) : Word :=
  BitVec.ofNat 64 (0xFD80 + b2n m.byp * 8 + b2n m.nor * 4 + b2n m.sat * 2 + b2n m.clr)

/-- Whether MMA reads B at this core: outside a gang, or at the leader. -/
def readsB (a : Arch) (c : CoreId) (m : MmaMode) : Bool := !m.gang || CoreId.col c == gangOrig a.gang

/-- The checks of MMA, in order (R308). DEDUCED (log 8): where byp = 1 and K is not 1, byp is the offending field, so
tval is the PAGE word whatever the order of the prefixes. -/
def mmaTrap (ar : Arch) (c : CoreId) (d a b : Reg8) (m : MmaMode) (k : Nat) : Option Trap :=
  let ra := ar.rings[a]
  let rb := ar.rings[b]
  let hasB := readsB ar c m
  let fb := if hasB then some rb.fmtCode else none
  let p := if hasB then pairing ra.fmt rb.fmt else none
  let mode := ar.resTile d
  let ta := (p.map (·.ta)).getD 1
  let tb := (p.map (·.tb)).getD 1
  if m.gang && gangWidth ar.gang = 0 then some ⟨.matrix, 0⟩
  else if m.byp && (k != 1 || m.perm) then some ⟨.resfield, mmaPage m⟩
  else if ra.slots = 0 then some ⟨.ring, ringVal a⟩
  else if hasB && rb.slots = 0 then some ⟨.ring, ringVal b⟩
  else if (hasB && p.isNone) || !operandFmt ra.fmt || mode != resOperand ra.fmt
      || (resOperand ra.fmt && (ra.blk != 0 || (hasB && rb.blk != 0))) then
    some ⟨.matrix, matrixVal ra.fmtCode fb mode⟩
  else if !m.byp && (ra.bytes < 3072 || ra.slots < ta) then some ⟨.ring, ringVal a⟩
  else if hasB && (rb.bytes < 3072 || rb.slots < tb) then some ⟨.ring, ringVal b⟩
  else none

/-- A slice command pushed; it waits while q4 is full. -/
def State.pushMat (s : State) (i : Instr) (m : MatCmd) : Out :=
  s.boundary (fun s =>
    if s.me.q4.length >= 2 then s.blocked i 0 0 none
    else (s.setMe { s.me with q4 := s.me.q4 ++ [m] }).finish id)

/-- MMA (R308). -/
def execMma (d a b : Reg8) (m : MmaMode) (k : Nat) (s : State) : Out :=
  match mmaTrap s.me.arch s.turn d a b m k with
  | some t => s.takeTrap t
  | none => s.pushMat (.mma d a b m k) ⟨d, a, .mma b m k⟩

/-- The output formats of MDRAIN (R313). -/
def drainFmt (byp res : Bool) : Fmt → Bool
  | .bf16 | .fp16 | .e4m3 | .e5m2 | .e2m1 | .int8 | .int4 => true
  | .fp32 | .int32 => !byp
  | .res => !byp && res
  | _ => false

/-- The checks of MDRAIN, in order (R313). -/
def drainTrap (ar : Arch) (d a : Reg8) (ctl : Word) (m : DrainMode) : Option Trap :=
  let ra := ar.rings[a]
  let mode := ar.resTile d
  if bits ctl.toNat 32 24 != 0 then some ⟨.resfield, ctl⟩
  else if m.nor && !m.byp then some ⟨.resfield, drainPage m⟩
  else if ra.slots = 0 then some ⟨.ring, ringVal a⟩
  else if !drainFmt m.byp mode ra.fmt then some ⟨.matrix, matrixVal ra.fmtCode none mode⟩
  else if !m.nor && ra.bytes < 128 * ra.fmt.width then some ⟨.ring, ringVal a⟩
  else none

/-- MDRAIN (R313). -/
def execMdrain (d a : Reg8) (b : XReg) (m : DrainMode) (s : State) : Out :=
  let ctl := s.x b
  match drainTrap s.me.arch d a ctl m with
  | some t => s.takeTrap t
  | none => s.pushMat (.mdrain d a b m) ⟨d, a, .drain m (ctl.setWidth 32) (bits ctl.toNat 56 8)⟩

/-! ### Taking a command (R309) -/

/-- Whether a command is an MMA. -/
def MatCmd.isMma (c : MatCmd) : Bool :=
  match c.op with
  | .mma _ _ _ => true
  | .drain _ _ _ => false

/-- Whether the bypass fits ring a (R309). -/
def Core.bypassFits (k : Core) (a : Reg8) : Bool :=
  match k.bypass with
  | none => false
  | some b => b.fmt == (k.committed.rings[a]).fmt && b.blk == (k.committed.rings[a]).blk

/-- The slice with a command in a phase. -/
def Core.withRun (k : Core) (r : SliceRun) : Core := { k with slice := { k.slice with cmd := some r } }

/-- Whether the slice can take the oldest command of q4: it is free, and q5 can take a completion. -/
def Core.canTake (k : Core) : Bool := k.enginesRun && k.slice.cmd.isNone && k.room k.arch.q5

/-- MMA_COMMAND: a gang MMA waits for its gang; another is ready, or ends with NOBYPASS. -/
def execMmaCommand (c : CoreId) (s : State) : Out :=
  let k := s.core c
  match k.q4 with
  | m :: ms =>
    match m.op with
    | .mma _ mode _ =>
      if !k.canTake then .next s
      else
        let ph : Phase := if mode.gang then .joining
          else if mode.byp && !k.bypassFits m.a then .ended 4 else .ready
        .next (s.setCore c ({ k with q4 := ms }.withRun ⟨m, ph, 0, [], false⟩))
    | .drain _ _ _ => .next s
  | [] => .next s

/-! ### Gangs (R317 to R319) -/

/-- The cores that a core's gang register names: of its row, from orig on, the leader first. -/
def Core.gangCores (k : Core) (c : CoreId) : List CoreId :=
  (List.range (gangWidth k.committed.gang)).map (fun i => coreOf (CoreId.row c * 64 + gangOrig k.committed.gang + i))

/-- A core's gang MMA waiting for its gang: the command, its B ring, mode and K. -/
def Core.gangMma (k : Core) : Option (MatCmd × Reg8 × MmaMode × Nat) :=
  match k.slice.cmd with
  | some ⟨m, .joining, _, _, _⟩ =>
    match m.op with
    | .mma b mode n => some (m, b, mode, n)
    | .drain _ _ _ => none
  | _ => none

/-- The format of a member's A: the bypass's, or ring a's. -/
def Core.aFmt (k : Core) (m : MatCmd) (byp : Bool) : Fmt :=
  match (if byp then k.bypass else none) with
  | some b => b.fmt
  | none => (k.committed.rings[m.a]).fmt

/-- Whether a member fails to match the leader's B format, K and perm (R318). -/
def Core.mismatch (k : Core) (fb : Fmt) (perm : Bool) (n : Nat) : Bool :=
  match k.gangMma with
  | none => true
  | some (m, _, mode, n') =>
    match pairing (k.aFmt m mode.byp) fb with
    | none => true
    | some p => n' != n || mode.perm != perm || k.committed.resTile m.d != p.res
        || (!mode.byp && (k.committed.rings[m.a]).slots < p.ta)

/-- The format of the leader's B ring. -/
def Core.bFmt (k : Core) (b : Reg8) : Fmt := (k.committed.rings[b]).fmt

/-- Members of a gang whose bypass check fails (R309). -/
def State.unfit (s : State) (ms : List CoreId) : List CoreId :=
  ms.filter (fun c => match (s.core c).gangMma with
    | some (m, _, mode, _) => mode.byp && !(s.core c).bypassFits m.a
    | none => false)

/-- A core's slice command changed. -/
def Core.onRun (k : Core) (f : SliceRun → SliceRun) : Core :=
  { k with slice := { k.slice with cmd := k.slice.cmd.map f } }

/-- GANG_JOIN: once every member's slice holds a gang MMA of one gang. A member whose bypass is unfit completes NOBYPASS
and leaves the gang; without its leader no member can run (log 10). -/
def execGangJoin (c : CoreId) (s : State) : Out :=
  let k := s.core c
  let ms := k.gangCores c
  if k.gangMma.isNone || !ms.contains c
      || !ms.all (fun d => (s.core d).gangMma.isSome && (s.core d).enginesRun && (s.core d).part == k.part
        && (s.core d).committed.gang == k.committed.gang) then .next s
  else match ms with
    | [] => .next s
    | l :: _ =>
      match (s.core l).gangMma with
      | none => .next s
      | some (_, b, mode, n) =>
        let fb := (s.core l).bFmt b
        if ms.any (fun d => (s.core d).mismatch fb mode.perm n) then
          .next (ms.foldl (fun (t : State) d => t.onCore d (fun k => k.onRun (fun r => { r with phase := .ended 3 }))) s)
        else
          let bad := if (s.unfit ms).contains l then ms else s.unfit ms
          let rest := ms.filter (fun d => !bad.contains d)
          .next (ms.foldl (fun (t : State) d => t.onCore d (fun k => k.onRun (fun r =>
            if bad.contains d then { r with phase := .ended 4 } else { r with phase := .ready, gang := rest }))) s)

/-! ### Operands of a K step (R301, R303, R305, R306, R311) -/

/-- The 96 bytes of operand row r of the tile in a slot, as one number. -/
def rowNat (m : List Host.Cell) (slot r : Nat) : Nat := memRead m (slot + 96 * r) 96

/-- The code of element j of row r: channels from the second tile on take the next slot. -/
def Ring.elem (g : Ring) (m : List Host.Cell) (r j : Nat) : Nat :=
  let w := g.fmt.width
  let per := 96 * 8 / w
  bits (rowNat m (g.slotAt (g.head.toNat + j / per)) r) (w * (j % per)) w

/-- The offset of the container of channel j of row r (R297, R301). -/
def Ring.scaleOff (g : Ring) (r j : Nat) : Nat :=
  g.scaleAt g.head.toNat + 4 * ((96 * r * 8 / g.fmt.width + j) / (blkLen g.blk).getD 1)

/-- The scale of channel j of row r, exact; 1 without blocks. -/
def Ring.scaleOf (g : Ring) (m : List Host.Cell) (r j : Nat) : Num :=
  match blkLen g.blk with
  | none => .ofInt 1
  | some _ => Fmt.s24.layout.value (memRead m (g.scaleOff r j) 4)

/-- The value of channel j of row r: element pi(j) under the scale of channel j (R303, R305). -/
def Ring.channel (g : Ring) (m : List Host.Cell) (perm : Nat → Nat) (r j : Nat) : Num :=
  scaled (g.scaleOf m r j) (g.fmt.value (g.elem m r (perm j)))

/-- The value of bypass element (r, j) (R311). -/
def Bypass.channel (b : Bypass) (r j : Nat) : Num :=
  let scale := match blkLen b.blk with
    | none => .ofInt 1
    | some l => Fmt.s24.layout.value (b.scales.getD ((32 * r + j) / l) 0).toNat
  scaled scale (b.fmt.value (bits b.elems.toNat (b.fmt.width * (32 * r + j)) b.fmt.width))

/-- Element e of a tile. -/
def Tile.at (z : Tile) (e : Nat) : Nat := bits z.toNat (32 * e) 32

/-- One element after a K step. -/
def kElem (res : Bool) (z : Nat) (n : Nat) (a b : Nat → Num) : Nat :=
  let ps := (List.range n).map (fun j => (a j).mul (b j))
  if res then resMap2 (· + ·) z (resOfInt ((ps.map (Num.toInt .rtz)).foldl (· + ·) 0))
  else Fmt.fp32.round .rne (sumExact .rne (Fmt.fp32.value z :: ps))

/-- A tile after a K step. -/
def kTile (res : Bool) (z : Tile) (n : Nat) (a b : Nat → Nat → Num) : Tile :=
  BitVec.ofNat 32768 (lanesNat 32 (fun e => kElem res (Tile.at z e) n (a (e / 32)) (b (e % 32))) 1024)

/-- pi_E of an MMA (R303). -/
def Arch.channelPerm (a : Arch) (perm : Bool) (e j : Nat) : Nat :=
  if perm && bit a.perm.toNat 32 then permIdx (some (a.permT.toList.map (·.toNat))) e j else j

/-- What a member's MMA needs for a step: its own core, command, mode, pairing with B, and the leader's core and B
ring. -/
structure Step where
  core : CoreId
  cmd : MatCmd
  mode : MmaMode
  n : Nat
  p : Pairing
  leader : CoreId
  b : Reg8
  deriving DecidableEq, Repr

/-- The leader of a command: the first of its gang, or the core itself. -/
def SliceRun.leader (r : SliceRun) (c : CoreId) : CoreId := (r.gang.head?).getD c

/-- The step of core c's MMA. -/
def State.stepOf (s : State) (c : CoreId) : Option Step :=
  match (s.core c).slice.cmd with
  | none => none
  | some r =>
    match r.cmd.op with
    | .drain _ _ _ => none
    | .mma b mode n =>
      let l := r.leader c
      let lb := match (s.core l).slice.cmd with
        | some q => (match q.cmd.op with
          | .mma lb _ _ => lb
          | .drain _ _ _ => b)
        | none => b
      (pairing ((s.core c).aFmt r.cmd mode.byp) ((s.core l).bFmt lb)).map (fun p => ⟨c, r.cmd, mode, n, p, l, lb⟩)

/-- Channels that take part: 32 when A comes from the bypass. -/
def Step.channels (t : Step) : Nat := if t.mode.byp then 32 else t.p.e

/-- Ring a of a step. -/
def State.ringA (s : State) (t : Step) : Ring := (s.core t.core).committed.rings[t.cmd.a]
/-- The B ring of a step. -/
def State.ringB (s : State) (t : Step) : Ring := (s.core t.leader).committed.rings[t.b]

/-- Whether a step's tiles are present (R309, R319). -/
def State.tilesHere (s : State) (t : Step) : Bool :=
  (t.mode.byp || t.p.ta <= (s.ringA t).count) && t.p.tb <= (s.ringB t).count

/-- Bytes of a ring that a step reads: its tiles and the containers of the channels that take part. -/
def Ring.ranges (g : Ring) (tiles n : Nat) : List (Nat × Nat) :=
  (List.range tiles).map (fun i => (g.slotAt (g.head.toNat + i), 3072))
  ++ (if g.blk = 0 then [] else (List.range 32).map (fun r =>
    (g.scaleOff r 0, g.scaleOff r (n - 1) + 4 - g.scaleOff r 0)))

/-- What a step reads: (core, offset, bytes). -/
def State.stepReads (s : State) (t : Step) : List (CoreId × Nat × Nat) :=
  (if t.mode.byp then [] else ((s.ringA t).ranges t.p.ta t.channels).map (fun r => (t.core, r.1, r.2)))
  ++ ((s.ringB t).ranges t.p.tb t.channels).map (fun r => (t.leader, r.1, r.2))

/-- The first uncorrectable dword among reads. -/
def State.badRead (s : State) (rs : List (CoreId × Nat × Nat)) : Option (CoreId × Nat) :=
  rs.findSome? (fun r => ((s.core r.1).poisoned r.2.1 r.2.2).map (fun d => (r.1, d)))

/-- The first uncorrectable row of a tile, with the core that holds it (R320). -/
def State.badTile (s : State) (ts : List (CoreId × Reg8)) : Option (CoreId × Reg8 × Nat) :=
  ts.findSome? (fun t => ((List.range 32).find? (fun r => (s.core t.1).errs.acc.contains (32 * t.2.val + r))).map
    (fun r => (t.1, t.2, r)))

/-- The core address of a row of a tile (R320). -/
def tileAddr (c : CoreId) (z : Reg8) (row : Nat) : Word := coreAddr c (0x7F000 + 128 * z.val + 4 * row)

/-- The MEMERR of an operation that reads scratchpads and tiles (R320): none where all it reads is correct. -/
def State.readFault (s : State) (rs : List (CoreId × Nat × Nat)) (ts : List (CoreId × Reg8)) : Option State :=
  match s.badRead rs with
  | some (d, w) => some (s.raise d .memErr .core (coreAddr d (w * 8)) 0)
  | none => (s.badTile ts).map (fun b => s.raise b.1 .memErr .accStore (tileAddr b.1 b.2.1 b.2.2) 0)

/-- Whether a ring's containers of a step include one that R38 rejects. -/
def Ring.badScale (g : Ring) (m : List Host.Cell) (n : Nat) : Bool :=
  g.blk != 0 && (List.range 32).any (fun r => (List.range n).any (fun j => s24Bad (memRead m (g.scaleOff r j) 4)))

/-- Whether a step reads a rejected container (R310). -/
def State.stepBad (s : State) (t : Step) : Bool :=
  (!t.mode.byp && (s.ringA t).badScale (s.core t.core).committed.spad t.channels)
  || (s.ringB t).badScale (s.core t.leader).committed.spad t.channels

/-- The tile that a step leaves. -/
def State.stepTile (s : State) (t : Step) : Tile :=
  let k := s.core t.core
  let pi := k.committed.channelPerm t.mode.perm t.p.e
  let a := match (if t.mode.byp then k.bypass else none) with
    | some y => y.channel
    | none => (s.ringA t).channel k.committed.spad pi
  let b := (s.ringB t).channel (s.core t.leader).committed.spad pi
  kTile t.p.res k.z[t.cmd.d] t.channels a b

/-- The slice of a core has run (23 R398). -/
def Core.slicedAt (k : Core) (now : Word) : Core := { k with slice := { k.slice with ran := some now } }

/-- A step's effects at its member: the tile, ring a's head, the bypass, the steps retired. -/
def Core.stepDone (k : Core) (t : Step) (z : Tile) (now : Word) : Core :=
  let k := if t.mode.byp then { k with bypass := none }
    else k.everywhere (fun a => a.setRing t.cmd.a (a.rings[t.cmd.a].advHead t.p.ta))
  Core.slicedAt { k.onRun (fun r => { r with k := r.k + 1 }) with z := k.z.set t.cmd.d z, progress := now } now

/-- The B ring's head moved on at the leader. -/
def Core.stepB (k : Core) (t : Step) : Core := k.everywhere (fun a => a.setRing t.b (a.rings[t.b].advHead t.p.tb))

/-- Members of a running command. -/
def SliceRun.members (r : SliceRun) (c : CoreId) : List CoreId := if r.gang.isEmpty then [c] else r.gang

/-- Whether a core's MMA is running and has steps left. -/
def Core.stepping (k : Core) : Bool :=
  k.enginesRun && (match k.slice.cmd with
    | some ⟨m, .running, n, _, _⟩ => (match m.op with
      | .mma _ _ total => n < total
      | .drain _ _ _ => false)
    | _ => false)

/-- K_STEP: one step of every member of a gang, or of one core. -/
def execKStep (c : CoreId) (s : State) : Out :=
  match (s.core c).slice.cmd with
  | none => .next s
  | some r =>
    let ms := r.members c
    let ts := ms.filterMap s.stepOf
    if !ms.all (fun d => (s.core d).stepping) || ts.length != ms.length || !ts.all s.tilesHere then .next s
    else
      let rs := (ts.map s.stepReads).flatten
      if rs.any (fun r => s.spadHeld r.1 r.2.1 r.2.2 false) then .next s
      else match s.readFault rs (ts.map (fun t => (t.core, t.cmd.d))) with
        | some t => .next t
        | none =>
          let s := rs.foldl (fun (u : State) r => u.touchSpad r.1 r.2.1 r.2.2 false) s
          if ts.any s.stepBad then
            .next (ms.foldl (fun (u : State) d => u.onCore d (fun k => k.onRun (fun r => { r with phase := .ended 5 }))) s)
          else
            let zs := ts.map (fun t => (t, s.stepTile t))
            let u := zs.foldl (fun (u : State) e => u.onCore e.1.core (fun k => k.stepDone e.1 e.2 s.time)) s
            .next (match ts with
              | [] => u
              | t :: _ => u.onCore t.leader (fun k => k.stepB t))

/-! ### Completions (R315, R316) -/

/-- A completion element of q5. -/
def matDone (tag status : Nat) (drain : Bool) (z : Reg8) (member count : Nat) : Word :=
  BitVec.ofNat 64 (tag * 2 ^ 56 + status * 2 ^ 52 + b2n drain * 2 ^ 51 + z.val * 2 ^ 48 + member * 2 ^ 44 + count)

/-- The slice freed and the element pushed into q5, or discarded (R292). `ran` says that the command drew current. -/
def Core.complete5 (k : Core) (v : Word) (ran : Bool) (now : Word) : Core :=
  let k := { k with slice := { k.slice with cmd := none, endedNow := k.slice.endedNow || ran }, progress := now }
  if k.halting && k.arch.q5.length >= 4 then k else k.everywhere (fun a => { a with q5 := a.q5 ++ [v] })

/-- The status of an MMA that has ended, none while it has not. -/
def SliceRun.status (r : SliceRun) (total : Nat) (corrected : Bool) : Option Nat :=
  match r.phase with
  | .ended st => some st
  | .running => if total <= r.k then some (if corrected then 2 else 0) else none
  | _ => none

/-- The arrival that a completion makes: a release at the group's scope (R316, 13 R261). -/
def State.arriveAt (s : State) (c : CoreId) (n : Reg8) : State :=
  if bmEn (s.core c).arch.bm[n] then
    (s.groupRelease c n).arrive c n
  else s

/-- MMA_COMPLETION: with done it waits while the core's earlier arrival on the line is open. -/
def execMmaCompletion (c : CoreId) (corrected : Bool) (s : State) : Out :=
  let k := s.core c
  match k.slice.cmd with
  | none => .next s
  | some r =>
    match r.cmd.op with
    | .drain _ _ _ => .next s
    | .mma _ mode total =>
      match r.status total (corrected || r.corrected) with
      | none => .next s
      | some st =>
        if !k.enginesRun || (mode.done && bmEn k.arch.bm[mode.line] && k.pend.getLsbD mode.line.val) then .next s
        else
          let t := if mode.done then s.arriveAt c mode.line else s
          let member := if mode.gang then CoreId.col c - gangOrig k.committed.gang else 0
          let v := matDone mode.tag.val st false r.cmd.d member r.k
          .next ((t.onCore c (fun k => k.complete5 v (st != 3 && st != 4) t.time)).lendStep c)

/-! ### MDRAIN at the slice (R314) -/

/-- The exact value of tile element e times the multiplier. -/
def drainVal (res : Bool) (z : Tile) (mult : Lane) (e : Nat) : Num :=
  let v := if res then Num.ofInt (resToInt (Tile.at z e)) else Fmt.fp32.value (Tile.at z e)
  v.mul (Fmt.fp32.value mult.toNat)

/-- One unscaled output element. -/
def drainElem (f : Fmt) (sat : Bool) (v : Num) : Nat :=
  if f.isFloating then (f.convFloat .rne sat v).val
  else wrap f.width (convToRange .rne (f.intRange false).1 (f.intRange false).2 v).1

/-- The scale of block g of the output. -/
def drainScale (f : Fmt) (l : Nat) (v : Nat → Num) (g : Nat) : Nat :=
  quantScale f ((List.range l).map (fun i => v (l * g + i)))

/-- What a drain yields: 1024 elements of the format, and its block scales. -/
def drainOut (res : Bool) (z : Tile) (mult : Lane) (sat : Bool) (f : Fmt) (blk : Nat) : Nat × List Lane :=
  let v := drainVal res z mult
  if f == .res then (z.toNat, [])
  else match blkLen blk with
    | none => (lanesNat f.width (fun e => drainElem f sat (v e)) 1024, [])
    | some l =>
      let ss := (List.range (1024 / l)).map (drainScale f l v)
      (lanesNat f.width (fun e => quantOf f (ss.getD (e / l) 0) (v e)) 1024, ss.map (BitVec.ofNat 32))

/-- Whether a drain can start: it writes no ring, or its ring has room (R325). -/
def Core.drainRoom (k : Core) (m : MatCmd) (mode : DrainMode) : Bool := mode.nor || !(k.committed.rings[m.a]).full

/-- The core after a drain but for the ring's bytes. -/
def Core.drained (k : Core) (m : MatCmd) (mode : DrainMode) (tag : Nat) (out : Nat × List Lane) (corrected : Bool) (now : Word) : Core :=
  let g := k.committed.rings[m.a]
  let k := if mode.nor then k else k.everywhere (fun a => a.setRing m.a (a.rings[m.a].advTail 1))
  let k := { k with
    bypass := if mode.byp then some ⟨BitVec.ofNat 16384 out.1, out.2, g.fmt, g.blk⟩ else k.bypass
    z := if mode.clr then k.z.set m.d 0 else k.z }
  (k.slicedAt now).complete5 (matDone tag (if corrected then 2 else 0) true m.d 0 32) true now

/-- The running drain of a core carried out. -/
def State.drain (s : State) (c : CoreId) (m : MatCmd) (mode : DrainMode) (mult : Lane) (tag : Nat) (corrected : Bool) : State :=
  let k := s.core c
  let g := k.committed.rings[m.a]
  let out := drainOut (k.committed.resTile m.d) k.z[m.d] mult mode.sat g.fmt g.blk
  let t := if mode.nor then s else
    let t := s.putSpad c (g.slotAt g.tail.toNat) (numBytes (128 * g.fmt.width) out.1)
    t.putSpad c (g.scaleAt g.tail.toNat) ((out.2.map (fun x => numBytes 4 x.toNat)).flatten)
  (t.onCore c (fun k => k.drained m mode tag out corrected t.time)).lendStep c

/-- MDRAIN_COMMAND: the slice takes the drain; once it runs, it is carried out and completes. -/
def execMdrainCommand (c : CoreId) (corrected : Bool) (s : State) : Out :=
  let k := s.core c
  match k.slice.cmd with
  | none =>
    match k.q4 with
    | m :: ms =>
      if m.isMma || !k.canTake then .next s
      else .next (s.setCore c ({ k with q4 := ms }.withRun ⟨m, .ready, 0, [], false⟩))
    | [] => .next s
  | some r =>
    match r.cmd.op with
    | .mma _ _ _ => .next s
    | .drain mode mult tag =>
      let g := k.committed.rings[r.cmd.a]
      let held := !mode.nor && (s.spadHeld c (g.slotAt g.tail.toNat) (128 * g.fmt.width) true
        || s.spadHeld c (g.scaleAt g.tail.toNat) g.scaleBytes true)
      if r.phase != .running || !k.enginesRun || held then .next s
      else match s.readFault [] [(c, r.cmd.d)] with
        | some t => .next t
        | none => .next (s.drain c r.cmd mode mult tag corrected)

/-! ### The slew limiter (R323 to R325) -/

/-- Whether a slice is ready: its command can start (R325). -/
def State.sliceReady (s : State) (c : CoreId) : Bool :=
  match (s.core c).slice.cmd with
  | some ⟨m, .ready, _, gang, _⟩ =>
    (s.core c).enginesRun && (match m.op with
      | .drain mode _ _ => (s.core c).drainRoom m mode
      | .mma _ _ _ =>
        let ms := if gang.isEmpty then [c] else gang
        let ts := ms.filterMap s.stepOf
        ts.length == ms.length && ts.all s.tilesHere)
  | _ => false

/-- Whether a slice's command runs: until it completes, also once a bad container has ended its steps (R310, R323). -/
def Core.slewRuns (k : Core) : Bool :=
  match k.slice.cmd with
  | some r => r.phase == .running || r.phase == .ended 5
  | none => false

/-- Whether a slice's command is granted or running. -/
def Core.drawing (k : Core) : Bool :=
  k.slewRuns || (match k.slice.cmd with
    | some r => r.phase == .granted
    | none => false)

/-- The lane groups of a cluster bound in its last cycle (08 R185, R323). -/
def State.lanesBound (s : State) (cl : Nat) : Nat :=
  ((tabGet (Vector.replicate 4 none) s.groups cl).toList.filter Option.isSome).length

/-- D of a cluster, given the lane groups bound. -/
def State.draw (s : State) (cs : List CoreId) (lanes : Nat) : Nat :=
  8 * (cs.filter (fun c => (s.core c).drawing || (s.core c).slice.filling || (s.core c).slice.endedNow)).length + 2 * lanes

/-- band(D) (R323). -/
def band (d : Nat) : Nat := min (d / 8) 9

/-- An entry of the ramp table at a band. -/
def rampAt (t : Vector (Fin 73) 10) (d : Nat) : Nat := (t[band d]?.getD 0).val

/-- A slice's command granted: it starts at the end of the boundary (steps 1 and 5). -/
def Core.grant (k : Core) : Core :=
  { k.onRun (fun r => { r with phase := .granted }) with slice :=
    { (k.onRun (fun r => { r with phase := .granted })).slice with endedNow := false, filling := false } }

/-- Steps 1 and 2: ended and filling slices start their next command, are released, or fill. -/
def State.slewDown (s : State) (cs : List CoreId) (dp : Nat) : State :=
  let ended := cs.filter (fun c => (s.core c).slice.endedNow || (s.core c).slice.filling)
  let s1 := (ended.filter s.sliceReady).foldl (fun (t : State) c => t.onCore c Core.grant) s
  let e := ended.filter (fun c => !s.sliceReady c)
  let ordered := e.filter (fun c => (s.core c).slice.filling) ++ e.filter (fun c => !(s.core c).slice.filling)
  let k := min e.length (rampAt s.rampDown dp / 8)
  ordered.foldl (fun (t : State) c => t.onCore c (fun q =>
    { q with slice := { q.slice with endedNow := false, filling := !(ordered.take k).contains c } })) s1

/-- Inserts a core by how long its wake has been raised, after equals. -/
def insertWake (s : State) (c : CoreId) : List CoreId → List CoreId
  | [] => [c]
  | d :: ds =>
    if ((s.core c).power.wake.map (·.since.toNat)).getD 0 < ((s.core d).power.wake.map (·.since.toNat)).getD 0 then c :: d :: ds
    else d :: insertWake s c ds

/-- Cores with a raised wake, oldest first. -/
def State.wakes (s : State) (cs : List CoreId) : List CoreId :=
  (cs.filter (fun c => (s.core c).power.wake.isSome)).reverse.foldr (insertWake s) []

/-- A wake granted: the current level becomes the target level, and a held core may run (10 R203, 08 R173). -/
def Core.woken (k : Core) : Core :=
  Core.leaveHeld { k with power := { k.power with wake := none, cur := k.target.getD gatedLevel } }

/-- Step 4: wakes, given what is left of G. -/
def State.slewWakes (low : Bool) : List CoreId → State → Int → State × Int
  | [], s, g => (s, g)
  | c :: cs, s, g =>
    match (s.core c).power.wake with
    | none => State.slewWakes low cs s g
    | some w =>
      if w.seen >= 15 || (low && g >= 4) then State.slewWakes low cs (s.onCore c Core.woken) (g - 4)
      else State.slewWakes low cs
        (s.onCore c (fun k => { k with power := { k.power with wake := some { w with seen := w.seen + 1 } } })) g

/-- Step 5: ready slices granted in slot order while 8 units of G remain. -/
def State.slewGrants : List CoreId → State → Int → State
  | [], s, _ => s
  | c :: cs, s, g =>
    if s.sliceReady c && g >= 8 then State.slewGrants cs (s.onCore c Core.grant) (g - 8)
    else State.slewGrants cs s g

/-- A granted command starts; an MMA with zero clears its tile before its first step (R309). -/
def Core.startSlice (k : Core) : Core :=
  match k.slice.cmd with
  | some ⟨m, .granted, n, gang, cr⟩ =>
    let clears := n = 0 && (match m.op with
      | .mma _ mode _ => mode.zero
      | .drain _ _ _ => false)
    let k := if clears then k.zeroTile m.d else k
    k.withRun ⟨m, .running, n, gang, cr⟩
  | _ => k

/-- Whether a core's command is granted. -/
def Core.granted (k : Core) : Bool :=
  match k.slice.cmd with
  | some ⟨_, .granted, _, _, _⟩ => true
  | _ => false

/-- Step 6: granted slices start; a gang once every member holds its grant. -/
def State.slewStarts (s : State) (cs : List CoreId) : State :=
  cs.foldl (fun (t : State) c =>
    match (t.core c).slice.cmd with
    | some r =>
      let ms := r.members c
      if ms.all (fun d => (t.core d).granted) then ms.foldl (fun (u : State) d => u.onCore d Core.startSlice) t else t
    | none => t) s

/-! ### The slew record (17 R328) -/

/-- The slots of a cluster's cores for which a test holds, ascending. -/
def slotsWhere (cs : List CoreId) (f : CoreId → Bool) : List Nat :=
  (List.range 8).filter (fun n => cs.any (fun c => slotOf c == n && f c))

/-- The line of a boundary: `s` before it, `s1` after steps 1 and 2, `s2` after the wakes, `s3` after the grants, `t`
at its end. -/
def slewLine (s s1 s2 s3 t : State) (cs : List CoreId) (lanes : Nat) : SlewLine :=
  let ended := cs.filter (fun c => (s.core c).slice.endedNow || (s.core c).slice.filling)
  let e := ended.filter (fun c => !s.sliceReady c)
  let dp := s.draw cs lanes
  { time := s.time
    dp := dp
    band := band dp
    lanes := lanes
    g := rampAt s1.rampUp (s1.draw cs lanes)
    k := if e.isEmpty then none else some (min e.length (rampAt s.rampDown dp / 8))
    ready := slotsWhere cs s.sliceReady
    ended := slotsWhere cs (fun c => (s.core c).slice.endedNow)
    grant := slotsWhere cs (fun c => (s3.core c).granted && !(s2.core c).granted)
    start := slotsWhere cs (fun c => (t.core c).slewRuns && !(s.core c).slewRuns)
    release := slotsWhere e (fun c => !(s1.core c).slice.filling)
    fill := slotsWhere cs (fun c => (t.core c).slice.filling || (t.core c).granted)
    wake := slotsWhere cs (fun c => (s1.core c).power.wake.isSome && (s2.core c).power.wake.isNone)
    d := t.draw cs lanes }

/-- Whether a boundary is eventful. -/
def SlewLine.eventful (l : SlewLine) : Bool :=
  l.ready.any (fun n => !l.start.contains n) || !l.grant.isEmpty || !l.start.isEmpty || !l.release.isEmpty
  || !l.fill.isEmpty || !l.wake.isEmpty

/-- A cluster's line of a boundary at which another cluster's has started gang members in it: what the cluster itself
has granted, released and counted stands, for a start changes no draw (R323). -/
def SlewLine.withStarts (l m : SlewLine) : SlewLine :=
  { l with start := addAll m.start l.start, fill := l.fill.filter (fun n => !m.start.contains n) }

/-- A line added to a record: a boundary has one line, made by `join` of the old and the new one, and the last 64 stay.
-/
def addLine (join : SlewLine → SlewLine → SlewLine) (ls : List SlewLine) (l : SlewLine) : List SlewLine :=
  match ls.getLast? with
  | some o => if o.time == l.time then ls.dropLast ++ [join o l] else newest 64 (ls ++ [l])
  | none => [l]

/-- A boundary's line kept, if it is eventful and the debugger is attached to a launch on the cluster. -/
def State.keepSlew (s : State) (join : SlewLine → SlewLine → SlewLine) (cl : Nat) (cs : List CoreId) (l : SlewLine) : State :=
  if l.eventful && cs.any (fun c => (s.core c).launch.isSome && s.attachedTo c) then
    { s with slewLog := tabPut s.slewLog cl (addLine join (tabGet [] s.slewLog cl) l) }
  else s

/-- The records of some cores' clusters dropped. -/
def State.dropSlew (s : State) (cs : List CoreId) : State :=
  { s with slewLog := s.slewLog.filter (fun e => !cs.any (fun c => clusterOf c == e.1)) }

/-- The cores of the machine in a cluster. -/
def State.inCluster (s : State) (cl : Nat) : List CoreId :=
  s.cores.filterMap (fun e => if clusterOf (coreOf e.1) = cl then some (coreOf e.1) else none)

/-- The other clusters in which a boundary has started gang members: `s` before the starts, `t` after them (R325 step
6). -/
def startedElsewhere (s t : State) (cl : Nat) : List Nat :=
  ((t.cores.filter (fun e => e.2.slewRuns && !(s.core (coreOf e.1)).slewRuns)).map (fun e => clusterOf (coreOf e.1))).eraseDups.filter
    (fun n => n != cl)

/-- The gang members that a boundary of another cluster starts in cluster n, which has taken no step of its own in it:
`s` before the starts, `t` after them. -/
def State.keepStarts (s t u : State) (n : Nat) : State :=
  let cs := s.inCluster n
  u.keepSlew SlewLine.withStarts n cs { slewLine s s s s t cs (s.lanesBound n) with k := none, release := [] }

/-- The number of a cluster's next boundary: time is four times it then, and each boundary comes once (R323). -/
def State.nextBoundary (s : State) (cl : ClusterId) : Nat :=
  max ((s.time.toNat + 3) / 4) (((tabFind s.slewAt cl.val).map (· + 1)).getD 0)

/-- SLEW_BOUNDARY: steps 1 to 6 at the next multiple of 4. -/
def execSlewBoundary (cl : ClusterId) (s : State) : Out :=
  let cs := (clusterCores cl).filter (fun c => (tabFind s.cores c.val).isSome)
  let n := s.nextBoundary cl
  let s : State := { s with time := BitVec.ofNat 64 (n * 4), slewAt := tabPut s.slewAt cl.val n }
  let lanes := s.lanesBound cl.val
  let s1 := s.slewDown cs (s.draw cs lanes)
  let d := s1.draw cs lanes
  let (s2, g) := State.slewWakes (band d <= 8) (s1.wakes cs) s1 (rampAt s1.rampUp d)
  let s3 := State.slewGrants cs s2 g
  let t := s3.slewStarts cs
  let u := t.keepSlew (fun l m => m.withStarts l) cl.val cs (slewLine s s1 s2 s3 t cs lanes)
  .next ((startedElsewhere s3 t cl.val).foldl (s3.keepStarts t) u)

end Sys2Proof.Machine
end

