-- ==== Sys2Proof/Machine/Router.lean ====
section
/-!
DEFINITION. The router (23_fabric_collectives.md R381 to R397): RTSET, RTMARK and RTSEND, stream entries, combining,
and collectives that leave the package.
-/

namespace Sys2Proof.Machine

/-! ### RTSET, RTMARK (R386, R387, R393, R394) -/

/-- Whether a control word has a res bit. -/
def ctlRes (w : Word) : Bool := bits w.toNat 27 3 != 0 || bits w.toNat 4 4 != 0 || bit w.toNat 1
/-- Whether a port-set word has a res bit. -/
def portRes (w : Word) : Bool := bits w.toNat 28 4 != 0 || bits w.toNat 21 3 != 0 || bits w.toNat 5 11 != 0

/-- en of a control word. -/
def ctlEn (w : Word) : Bool := bit w.toNat 0
/-- dbase of a control word. -/
def ctlBase (w : Word) : Nat := bits w.toNat 8 19
/-- last of a control word. -/
def ctlLast (w : Word) : Nat := bits w.toNat 2 2

/-- op of a port-set word. -/
def portOp (w : Word) : Nat := bits w.toNat 24 4
/-- in mask of a port-set word. -/
def portIn (w : Word) : Nat := bits w.toNat 0 5
/-- out mask of a port-set word. -/
def portOut (w : Word) : Nat := bits w.toNat 16 5
/-- count of a port-set word. -/
def portCount (w : Word) : Nat := bits w.toNat 32 32

/-- Whether an entry is idle (R387). -/
def StreamEntry.idle (e : StreamEntry) : Bool := e.cur == 0 && e.buf.isEmpty && e.sent == 0

/-- The state word of an entry (R387). -/
def StreamEntry.stateWord (e : StreamEntry) : Word := BitVec.ofNat 64 (e.cur.val + b2n e.idle * 4)

/-- entry of a selector. -/
def selEntry (w : Word) : Fin 64 := ⟨w.toNat % 64, Nat.mod_lt _ (by decide)⟩

/-- A view's word. -/
def View.word (v : View) (sel : Nat) : Word := if h : sel < 4 then v.ports[sel] else v.ctl

/-- A view's word written. -/
def View.write (v : View) (sel : Nat) (w : Word) : View :=
  if h : sel < 4 then { v with ports := v.ports.set sel w }
  else if ctlEn w then { v with ctl := w, gen := v.gen + 1 }
  else { v with ctl := w, gen := v.gen + 1, offs := v.offs + 1, offCtl := w }

/-- The trap of a new word (R393). -/
def rtsetTrap (stash sel : Nat) (w : Word) : Option Trap :=
  if sel < 4 then
    if portRes w || portOp w >= 12 || portIn w = 0 then some ⟨.resfield, w⟩ else none
  else if ctlRes w || bits w.toNat 30 2 = 3 || (Fmt.fp32.value (bits w.toNat 32 32)).isNan then some ⟨.resfield, w⟩
  else if ctlBase w < stash || ctlBase w > 0x7DFC0 then some ⟨.localbound, BitVec.ofNat 64 (ctlBase w)⟩
  else none

/-- RTSET. -/
def execRtset (d a b : XReg) (rd : Bool) (s : State) : Out :=
  let x := s.x a
  let sel := bits x.toNat 8 3
  let e := selEntry x
  let v := s.me.arch.views[e]
  if bits x.toNat 11 53 != 0 || bits x.toNat 6 2 != 0 || sel >= 6 then s.trap .resfield x
  else if rd then s.doneX d (if sel = 5 then (s.me.entries[e]).stateWord else v.word sel)
  else if sel = 5 then s.trap .rdonly x
  else match rtsetTrap s.me.arch.stashSize sel (s.x b) with
    | some t => s.takeTrap t
    | none =>
      let c := { s.me.arch with views := s.me.arch.views.set e (v.write sel (s.x b)) }
      s.done (c.setX d (v.word sel))

/-- RTMARK. -/
def execRtmark (e : Fin 64) (s : State) : Out := s.done { s.me.arch with mark := s.me.arch.mark ||| (1#64 <<< e.val) }

/-! ### RTSEND (R395) -/

/-- Elements of npk packets of scaled elements, in bytes of the source and number of scales. -/
def scaledBytes (p : Word) (npk : Nat) : Nat × Nat :=
  let w := ((Fmt.ofCode (ptrFmt p)).getD .raw).width
  (npk * 16 * w / 8, (npk * 16 + (blkLen (ptrBlk p)).getD 1 - 1) / (blkLen (ptrBlk p)).getD 1)

/-- The lowest byte that one of two ranges has outside S to 0x7_DFFF. -/
def rangesOutside (stash lo1 n1 lo2 n2 : Nat) : Option Nat :=
  minOpt (badOffset stash lo1 n1) (badOffset stash lo2 n2)

/-- The checks of RTSEND, in order. -/
def rtsendTrap (stash : Nat) (x p ctl : Word) : Option Trap :=
  let c := ctl.toNat
  let npk := bits c 0 16
  let sbase := bits c 32 19
  let blk := ptrBlk p
  if bits x.toNat 48 16 != 0 || bits x.toNat 6 26 != 0 then some ⟨.resfield, x⟩
  else if bits c 51 5 != 0 || (blk = 0 && sbase != 0) then some ⟨.resfield, ctl⟩
  else if tagBad (ptrFmt p) blk then some ⟨.fmt, p⟩
  else if blk = 0 && ptrAddr p % 64 != 0 then some ⟨.align, p⟩
  else if blk != 0 && sbase % 4 != 0 then some ⟨.align, ctl⟩
  else
    let n := if blk = 0 then (64 * npk, 0) else scaledBytes p npk
    (rangesOutside stash (ptrAddr p) n.1 sbase (4 * n.2)).map (fun o => ⟨.localbound, BitVec.ofNat 64 o⟩)

/-- The command that RTSEND pushes. -/
def rtCmd (a : Arch) (x p ctl : Word) : RtCmd :=
  ⟨selEntry x, BitVec.ofNat 16 (bits x.toNat 32 16), p, bits ctl.toNat 32 19, bits ctl.toNat 0 16, bits ctl.toNat 16 16,
    bits ctl.toNat 56 8, bit a.mark.toNat (selEntry x).val, false⟩

/-- RTSEND. -/
def execRtsend (d a b : XReg) (s : State) : Out :=
  match rtsendTrap s.me.arch.stashSize (s.x d) (s.x a) (s.x b) with
  | some t => s.takeTrap t
  | none => s.boundary (fun s =>
      if s.me.q6.length >= 2 then s.blocked (.rtsend d a b) 0 0 none
      else
        let m := rtCmd s.me.arch (s.x d) (s.x a) (s.x b)
        (s.setMe { s.me with q6 := s.me.q6 ++ [m], lostCids := s.me.lostCids.filter (· != m.cid) }).finish
          (fun c => { c with mark := c.mark &&& ~~~(1#64 <<< m.entry.val) }))

/-! ### Injection -/

/-- Packets that one port of an entry buffers at most: not architectural (R382, log 14). -/
def portRoom : Nat := 8

/-- Packets of a port of an entry, in arrival order. -/
def StreamEntry.queue (e : StreamEntry) (p : Fin 5) : List Packet :=
  e.buf.filterMap (fun x => if x.1 == p then some x.2 else none)

/-- Whether a port of an entry can take a packet: each entry has buffers and credits of its own (R382). -/
def Core.roomAt (k : Core) (e : Fin 64) (p : Fin 5) : Bool := ((k.entries[e]).queue p).length < portRoom

/-- A packet put into a port's buffer. -/
def StreamEntry.put (e : StreamEntry) (p : Fin 5) (x : Packet) : StreamEntry := { e with buf := e.buf ++ [(p, x)] }

/-- An entry of a core changed. -/
def Core.onEntry (k : Core) (e : Fin 64) (f : StreamEntry → StreamEntry) : Core :=
  { k with entries := k.entries.set e (f k.entries[e]) }

/-- The source bytes of packet i: (offset, bytes) of its elements, and of its scales. -/
def RtCmd.reads (m : RtCmd) (i : Nat) : List (Nat × Nat) :=
  if ptrBlk m.p = 0 then [(ptrAddr m.p + 64 * i, 64)]
  else
    let w := ((Fmt.ofCode (ptrFmt m.p)).getD .raw).width
    let l := (blkLen (ptrBlk m.p)).getD 1
    [(ptrAddr m.p + 2 * i * w, 2 * w), (m.sbase + 4 * (16 * i / l), 4 * ((16 * i + 15) / l + 1 - 16 * i / l))]

/-- One scaled element of a packet: under the NaN scale for a rejected container (R38, R39). -/
def scaledElem (f : Fmt) (code scale : Nat) : Nat :=
  if s24Bad scale then Fmt.fp32.layout.nan else dequantElem f .fp32 code scale

/-- The body of packet i. -/
def RtCmd.body (m : RtCmd) (sp : List Host.Cell) (i : Nat) : Body :=
  if ptrBlk m.p = 0 then BitVec.ofNat 512 (memRead sp (ptrAddr m.p + 64 * i) 64)
  else
    let f := (Fmt.ofCode (ptrFmt m.p)).getD .raw
    let l := (blkLen (ptrBlk m.p)).getD 1
    let src := memRead sp (ptrAddr m.p + 2 * i * f.width) (2 * f.width)
    BitVec.ofNat 512 (lanesNat 32 (fun j =>
      scaledElem f (bits src (f.width * j) f.width) (memRead sp (m.sbase + 4 * ((16 * i + j) / l)) 4)) 16)

/-- ROUTER_COMMAND: the router takes the oldest command, or injects the next packet or the marker of the one in
progress. -/
def execRouterCommand (c : CoreId) (s : State) : Out :=
  let k := s.core c
  if !k.enginesRun then .next s
  else match k.rcmd with
    | none =>
      match k.q6 with
      | m :: ms => .next (s.setCore c { k with q6 := ms, rcmd := some ⟨m, 0, false⟩ })
      | [] => .next s
    | some r =>
      let m := r.cmd
      if m.lost || !k.roomAt m.entry 0 then .next s
      else if r.sent < m.npk then
        match (m.reads r.sent).findSome? (fun x => k.poisoned x.1 x.2) with
        | some d => .next (s.raise c .memErr .core (coreAddr c (d * 8)) 0)
        | none =>
          let x : Packet := ⟨false, m.cid, r.sent, m.body k.committed.spad r.sent, false⟩
          .next (s.setCore c { k.onEntry m.entry (fun e => e.put 0 x) with rcmd := some { r with sent := r.sent + 1 } })
      else if m.mark && !r.marked then
        .next (s.setCore c { k.onEntry m.entry (fun e => e.put 0 ⟨true, m.cid, m.npk, 0, false⟩) with
          rcmd := some { r with marked := true } })
      else .next s

/-! ### Combining (R390) -/

/-- Lane i of w bits of a body. -/
def bodyLane (b : Body) (w i : Nat) : Nat := bits b.toNat (w * i) w

/-- A body of n lanes of w bits. -/
def bodyOf (w n : Nat) (f : Nat → Nat) : Body := BitVec.ofNat 512 (lanesNat w f n)

/-- One pair of maxi: (value, index). -/
def maxiPair (a b : Nat × Nat) : Nat × Nat :=
  let x := Fmt.fp32.value a.1
  let y := Fmt.fp32.value b.1
  if x.isNan && y.isNan then (nan32, min a.2 b.2)
  else if x.isNan then (nan32, a.2)
  else if y.isNan then (nan32, b.2)
  else if x.ltz y then b
  else if y.ltz x then a
  else (a.1, min a.2 b.2)

/-- What tmerge merges under: an entry's p and fam (R386). -/
def entryCtx (ctl : Word) : TmCtx := ⟨bits ctl.toNat 32 32, bits ctl.toNat 30 2, true, 0, 0, [], 0, 0, []⟩

/-- Triple j of a body. -/
def bodyTotal (b : Body) (j : Nat) : Total := ⟨bits b.toNat (96 * j) 32, bits b.toNat (96 * j + 32) 32, bits b.toNat (96 * j + 64) 32⟩

/-- The lane of a count that would reach 2^32. -/
def Total.ovf : Total := ⟨nan32, nan32, 0xFFFFFFFF⟩

/-- One merged lane, and whether its count would reach 2^32. -/
def mergeLane (ctl : Word) (a b : Total) : Total × Bool :=
  match (entryCtx ctl).merge a b with
  | .ok t _ => (t, false)
  | _ => (Total.ovf, true)

/-- A total as a number of 96 bits. -/
def Total.bits (t : Total) : Nat := t.m + t.s * 2 ^ 32 + t.n * 2 ^ 64

/-- Two packets' bodies combined under tmerge. -/
def mergeBodies (ctl : Word) (a b : Body × Bool) : Body × Bool :=
  let ls := (List.range 5).map (fun j => mergeLane ctl (bodyTotal a.1 j) (bodyTotal b.1 j))
  (bodyOf 96 5 (fun j => ((ls.map (fun l => Total.bits l.1)).getD j 0)), a.2 || b.2 || ls.any (·.2))

/-- Lanes combined one by one. -/
def mapLanes (w n : Nat) (f : Nat → Nat → Nat) (a b : Body) : Body := bodyOf w n (fun i => f (bodyLane a w i) (bodyLane b w i))

/-- Two bodies combined by an op of lanes; badd16 and tmerge stand apart. -/
def combine2 (op : Nat) (a b : Body) : Body :=
  match op with
  | 1 => mapLanes 32 16 (fun x y => (x + y) % 2 ^ 32) a b
  | 2 => mapLanes 64 8 (fun x y => (x + y) % 2 ^ 64) a b
  | 3 => mapLanes 32 16 (resMap2 (· + ·)) a b
  | 4 => mapLanes 32 16 (Fmt.fp32.add .rne) a b
  | 6 => mapLanes 32 16 Fmt.fp32.fmax a b
  | 7 => mapLanes 32 16 Fmt.fp32.fmin a b
  | 8 => mapLanes 32 16 (fun x y => if signed 32 x >= signed 32 y then x else y) a b
  | 9 => mapLanes 32 16 (fun x y => if signed 32 x <= signed 32 y then x else y) a b
  | 10 => bodyOf 64 8 (fun j =>
      let r := maxiPair (bits (bodyLane a 64 j) 0 32, bits (bodyLane a 64 j) 32 32)
        (bits (bodyLane b 64 j) 0 32, bits (bodyLane b 64 j) 32 32)
      r.1 + r.2 * 2 ^ 32)
  | _ => a

/-- badd16: sums in FP32 in port order, rounded once to BF16. -/
def badd16 (bs : List Body) : Body :=
  bodyOf 16 32 (fun i =>
    match bs.map (fun b => Fmt.fp32.round .rne (Fmt.bf16.value (bodyLane b 16 i))) with
    | [] => 0
    | x :: xs => Fmt.bf16.round .rne (Fmt.fp32.value (xs.foldl (Fmt.fp32.add .rne) x)))

/-- Whether a body holds the lane of a count that would have reached 2^32 (R390). -/
def bodyOvf (b : Body) : Bool := (List.range 5).any (fun j => bodyTotal b j == Total.ovf)

/-- The bodies of one emission combined in port order; one that stands alone and passes unchanged keeps its COUNT
lanes. -/
def combine (op : Nat) (ctl : Word) : List (Body × Bool) → Body × Bool
  | [] => (0, false)
  | x :: xs =>
    if op = 5 then (badd16 (x.1 :: xs.map (·.1)), false)
    else if op = 11 then xs.foldl (mergeBodies ctl) (bodyOf 480 1 (fun _ => x.1.toNat % 2 ^ 480), x.2)
    else if op = 3 then ((xs.map (·.1)).foldl (combine2 3) (mapLanes 32 16 (resMap2 (· + ·)) x.1 0), false)
    else ((xs.map (·.1)).foldl (combine2 op) x.1, xs.isEmpty && x.2)

/-! ### Emission (R381, R384, R388, R396) -/

/-- The neighbour of a router through W, N, E or S, and the port at which it receives. -/
def neighbour (c : CoreId) (p : Fin 5) : Option (CoreId × Fin 5) :=
  let x := CoreId.col c
  let y := CoreId.row c
  match p with
  | 0 => none
  | 1 => if x = 0 then none else some (coreOf (c.val - 1), 3)
  | 2 => if y = 0 then none else some (coreOf (c.val - 64), 4)
  | 3 => if x = 63 then none else some (coreOf (c.val + 1), 1)
  | 4 => if y = 63 then none else some (coreOf (c.val + 64), 2)

/-- The attach router and port of a Cobalt link (R384). -/
def linkPort (l : Fin 18) : CoreId × Fin 5 :=
  let xs := fun (i : Nat) => [6, 19, 32, 45, 58].getD i 0
  let ys := fun (i : Nat) => [8, 24, 40, 56].getD i 0
  if l.val < 5 then (coreOf (xs l.val), 2)
  else if l.val < 9 then (coreOf (ys (l.val - 5) * 64 + 63), 3)
  else if l.val < 14 then (coreOf (63 * 64 + xs (l.val - 9)), 4)
  else (coreOf (ys (l.val - 14) * 64), 1)

/-- The Cobalt link that attaches at a port of a router. -/
def linkAt (c : CoreId) (p : Fin 5) : Option (Fin 18) := (List.finRange 18).find? (fun l => linkPort l == (c, p))

/-- Whether a Cobalt link attaches at a port of a router (R384). -/
def attached (c : CoreId) (p : Fin 5) : Bool := (linkAt c p).isSome

/-- The neighbour within the core's partition (20 R353, log 14). -/
def State.peer (s : State) (c : CoreId) (p : Fin 5) : Option (CoreId × Fin 5) :=
  match neighbour c p with
  | none => none
  | some (d, q) => if (s.core d).part == (s.core c).part then some (d, q) else none

/-- Whether a core stands still: frozen by a fault, or put away. -/
def Core.still (k : Core) : Bool := k.run == .frozen || k.run == .stopped

/-- Ports of a mask, in port order. -/
def maskPorts (m : Nat) : List (Fin 5) := (List.finRange 5).filter (fun p => bit m p.val)

/-- Whether a packet belongs to a collective that a LOST notice has named at a core: nothing of it is written through L
(R396). -/
def State.lost (s : State) (c : CoreId) (x : Packet) : Bool := (s.core c).lostCids.contains x.cid

/-- Whether a packet can leave through a port: towards L unless a core with priority holds the write back; a port
without a neighbour never takes one (log 14). -/
def State.canEmit (s : State) (c : CoreId) (e : Fin 64) (x : Packet) (p : Fin 5) : Bool :=
  if p = 0 then x.marker || s.lost c x || !s.spadHeld c (ctlBase ((s.core c).entries[e]).words.ctl + 64 * x.idx) 64 true
  else match s.peer c p with
    | some (d, q) => (s.core d).roomAt e q
    | none => attached c p

/-- Whether a body may be written at L: inside S to 0x7_DFFF, at a core that accepts remote writes (12 R243). -/
def State.emitBad (s : State) (c : CoreId) (e : Fin 64) (x : Packet) : Bool :=
  let lo := ctlBase ((s.core c).entries[e]).words.ctl + 64 * x.idx
  !x.marker && !s.lost c x && ((badOffset (s.core c).arch.stashSize lo 64).isSome || (s.core c).run == .inReset)

/-- One packet emitted to one port. -/
def State.emit1 (s : State) (c : CoreId) (e : Fin 64) (x : Packet) (p : Fin 5) : State :=
  if p = 0 then
    if x.marker || s.lost c x then s
    else
      let lo := ctlBase ((s.core c).entries[e]).words.ctl + 64 * x.idx
      (s.putSpad c lo (bodyBytes x.body 64)).onCore c (fun k => k.onEntry e (fun n => { n with results := n.results ++ [x.ovf] }))
  else match s.peer c p with
    | some (d, q) => s.onCore d (fun k => k.onEntry e (fun n => n.put q x))
    | none => match linkAt c p with
      | some l => { s with gone := s.gone ++ [⟨l, c, p, e, x⟩] }
      | none => s

/-- A packet emitted to every port of a mask. -/
def State.emit (s : State) (c : CoreId) (e : Fin 64) (x : Packet) (out : Nat) : State :=
  (maskPorts out).foldl (fun (t : State) p => t.emit1 c e x p) s

/-- Takes the oldest packet of a port out of a buffer. -/
def takePort (p : Fin 5) : List (Fin 5 × Packet) → List (Fin 5 × Packet)
  | [] => []
  | x :: xs => if x.1 == p then xs else x :: takePort p xs

/-- The oldest packet of each port of a mask, where it is of a kind. -/
def StreamEntry.heads (e : StreamEntry) (inp : Nat) : List (Fin 5 × Packet) :=
  (maskPorts inp).filterMap (fun p => ((e.queue p).head?).map (fun x => (p, x)))

/-- The next packet that fwd emits: the first in arrival order among data packets at the head of their ports. -/
def StreamEntry.fwdNext (e : StreamEntry) (inp : Nat) : Option (Fin 5 × Packet) :=
  e.buf.find? (fun x => bit inp x.1.val && !x.2.marker && (e.queue x.1).head? == some x.2
    && !(e.queue x.1).isEmpty && (e.heads inp).contains x)

/-- The next emission of the set in force: the packet, and the ports it consumes from. A marker ends a set of count 0.
-/
def StreamEntry.nextEmission (e : StreamEntry) : Option (Packet × List (Fin 5)) :=
  let w := e.words.ports[e.cur]
  let hs := e.heads (portIn w)
  let all := hs.length == (maskPorts (portIn w)).length
  if !ctlEn e.words.ctl || portIn w = 0 then none
  else if portCount w = 0 && all && hs.all (fun h => h.2.marker) then
    (hs.head?).map (fun h => (h.2, hs.map (·.1)))
  else if portOp w = 0 then (e.fwdNext (portIn w)).map (fun x => (x.2, [x.1]))
  else if all && hs.all (fun h => !h.2.marker) then
    (hs.head?).map (fun h =>
      let r := combine (portOp w) e.words.ctl (hs.map (fun x => (x.2.body, x.2.ovf)))
      ({ h.2 with body := r.1, ovf := r.2 }, hs.map (·.1)))
  else none

/-- An entry after an emission (R388). -/
def StreamEntry.after (e : StreamEntry) (x : Packet) (ports : List (Fin 5)) : StreamEntry :=
  let w := e.words.ports[e.cur]
  let ends := x.marker || (portCount w != 0 && e.sent + 1 = portCount w)
  let next : Fin 4 := if e.cur.val = ctlLast e.words.ctl then 0 else e.cur + 1
  { e with
    buf := ports.foldl (fun b p => takePort p b) e.buf
    cur := if ends then next else e.cur
    sent := if ends then 0 else e.sent + 1 }

/-- The external switch returns a packet through a Cobalt link (R396); it holds a COUNT lane where its body does (R390).
Nothing returns of a lost collective, and none to a stopped or frozen core (log 14). -/
def State.returned (s : State) (c : CoreId) (e : Fin 64) (x : ExtPacket) : State :=
  match linkAt c x.port with
  | none => s
  | some l =>
    if (s.core c).lostCids.contains x.cid || (s.core c).still then s
    else { s with
      gone := s.gone.filter (fun o => !(o.core == c && o.packet.cid == x.cid && o.packet.idx == x.idx
        && o.packet.marker == x.marker))
      back := s.back ++ [⟨l, c, x.port, e, ⟨x.marker, x.cid, x.idx, x.body, !x.marker && bodyOvf x.body⟩⟩] }

/-- A returned packet enters its port's buffer, where there is room and the core is not stopped. -/
def State.receive (s : State) (c : CoreId) (e : Fin 64) : State :=
  if (s.core c).still then s
  else match s.back.find? (fun o => o.core == c && o.entry == e && (s.core c).roomAt e o.port) with
  | none => s
  | some o => { s.onCore c (fun k => k.onEntry e (fun n => n.put o.port o.packet)) with back := s.back.erase o }

/-- Tokens for the flits that an emission sends over Cobalt links: none where the core's function must wait for one (20
R358). -/
def State.payFlits (s : State) (c : CoreId) : List (Fin 5) → Option State
  | [] => some s
  | p :: ps =>
    if (s.peer c p).isSome || !attached c p then s.payFlits c ps
    else match s.vfOf (s.core c).part with
      | none => s.payFlits c ps
      | some vf => match s.spendToken vf cobaltTokens with
        | none => none
        | some t => t.payFlits c ps

/-- STREAM_PACKET: a returned packet is taken in, and the set in force makes one emission. -/
def execStreamPacket (c : CoreId) (turn : StreamTurn) (s0 : State) : Out :=
  let e := turn.entry
  let s1 := match turn.ext with
    | none => s0
    | some x => s0.returned c e x
  let s := s1.receive c e
  let n := (s.core c).entries[e]
  match n.nextEmission with
  | none => .next s
  | some (x, ports) =>
    let out := portOut n.words.ports[n.cur]
    if (s.core c).still || !(maskPorts out).all (s.canEmit c e x) then .next s
    else if bit out 0 && s.emitBad c e x then
      .next (s.raise c .violation .core (coreAddr c (ctlBase n.words.ctl + 64 * x.idx)) 0)
    else match s.payFlits c (maskPorts out) with
      | none => .next s
      | some t => .next ((t.onCore c (fun k => k.onEntry e (fun n => n.after x ports))).emit c e x out)

/-- ENTRY_UPDATE: the committed words reach an idle entry (R389); those that disable an entry have reached it when they
committed. At a frozen core the entries stay disabled (R397). A control word written with en = 1 starts the result count
at 0 (R395). -/
def execEntryUpdate (c : CoreId) (e : Fin 64) (s : State) : Out :=
  let k := s.core c
  let n := k.entries[e]
  let v := k.committed.views[e]
  if v == n.words || !n.idle || k.run == .frozen then .next s
  else
    let results := if v.gen != n.words.gen && ctlEn v.ctl then [] else n.results
    .next (s.setCore c (k.onEntry e (fun n => { n with words := v, results := results })))

/-! ### Completion (R395, R396) -/

/-- A completion element pushed into q7, or discarded (R292). -/
def Core.complete7 (k : Core) (v : Word) : Core :=
  if k.halting && k.arch.q7.length >= 4 then k else k.everywhere (fun a => { a with q7 := a.q7 ++ [v] })

/-- A completion element of q7. -/
def rtDone (m : RtCmd) (status : Nat) : Word :=
  BitVec.ofNat 64 (m.tag * 2 ^ 56 + status * 2 ^ 52 + m.cid.toNat * 2 ^ 32 + m.nres * 2 ^ 16 + m.npk)

/-- The first pending command whose collective is lost, and the core without it. -/
def Core.takeLost (k : Core) : Option (RtCmd × Core) :=
  match k.rcmd with
  | some r =>
    if r.cmd.lost then some (r.cmd, { k with rcmd := none })
    else (k.q6.find? (·.lost)).map (fun m => (m, { k with q6 := k.q6.erase m }))
  | none => (k.q6.find? (·.lost)).map (fun m => (m, { k with q6 := k.q6.erase m }))

/-- Whether the router can push a completion. -/
def Core.canComplete7 (k : Core) : Bool := k.enginesRun && k.room k.arch.q7

/-- A lost command completes, whatever the count and wherever it stands, as soon as q7 has room (R395). -/
def State.completeLost (s : State) (c : CoreId) : State :=
  match (if (s.core c).canComplete7 then (s.core c).takeLost else none) with
  | none => s
  | some (m, k) => s.setCore c { k.complete7 (rtDone m 1) with progress := s.time }

/-- The results that a command awaited have all come: nothing more of its collective is outstanding at its core. -/
def State.cameBack (s : State) (c : CoreId) (m : RtCmd) : State :=
  { s with gone := s.gone.filter (fun o => !(m.nres != 0 && o.core == c && o.packet.cid == m.cid)) }

/-- RTSEND_COMPLETION: a lost command, or every packet injected and nres results counted; q7 has room. -/
def execRtsendCompletion (c : CoreId) (corrected : Bool) (s : State) : Out :=
  let k := s.core c
  if k.takeLost.isSome then .next (s.completeLost c)
  else match k.rcmd with
    | none => .next s
    | some r =>
      let m := r.cmd
      let n := k.entries[m.entry]
      if !k.canComplete7 || !(r.sent = m.npk && (!m.mark || r.marked) && m.nres <= n.results.length) then .next s
      else
        let status := if (n.results.take m.nres).any id then 3 else if corrected then 2 else 0
        let k := k.onEntry m.entry (fun n => { n with results := n.results.drop m.nres })
        .next ((s.setCore c { k.complete7 (rtDone m status) with rcmd := none, progress := s.time }).cameBack c m)

/-- The packets of a collective dropped from the entries of a core. -/
def Core.dropCid (k : Core) (cid : BitVec 16) : Core :=
  { k with entries := k.entries.map (fun e => { e with buf := e.buf.filter (fun x => x.2.cid != cid) }) }

/-- The partial results of a collective, which wait in the entries of a partition's cores, dropped (R396). -/
def State.dropPartial (s : State) (part : Option Nat) (cid : BitVec 16) : State :=
  { s with cores := s.cores.map (fun e => if e.2.part == part then (e.1, e.2.dropCid cid) else e) }

/-- A collective lost at one core: its pending commands will complete LOST, nothing more of it is written through L
there, the switch returns nothing more of it, and its partial results are discarded. -/
def State.markLost (s : State) (c : CoreId) (cid : BitVec 16) : State :=
  let lose := fun (m : RtCmd) => if m.cid == cid then { m with lost := true } else m
  { (s.dropPartial (s.core c).part cid).onCore c (fun k => { k with
      rcmd := k.rcmd.map (fun r => { r with cmd := lose r.cmd })
      q6 := k.q6.map lose
      lostCids := if k.lostCids.contains cid then k.lostCids else k.lostCids ++ [cid] }) with
    gone := s.gone.filter (fun o => !(o.core == c && o.packet.cid == cid))
    back := s.back.filter (fun o => !(o.core == c && o.packet.cid == cid)) }

/-- A LOST notice at one core: its pending commands of the collective, at most three, complete at once (R395). -/
def State.loseCid (s : State) (c : CoreId) (cid : BitVec 16) : State :=
  (((s.markLost c cid).completeLost c).completeLost c).completeLost c

/-- LOST_NOTICE (R396). -/
def execLostNotice (c : CoreId) (cid : BitVec 16) (s : State) : Out := .next (s.loseCid c cid)

/-- LINK_FAILURE: a lost access or barrier phase is a LINK fault of the partition, a lost collective a LOST notice
(R385, R396). -/
def execLinkFailure (loss : LinkLoss) (s : State) : Out :=
  match loss with
  | .access c a => .next (s.raise c .link .global (a.setWidth 64) 0)
  | .barrier c => .next (s.raise c .link .none 0 0)
  | .collective c cid => .next (s.loseCid c cid)

end Sys2Proof.Machine
end

