-- ==== Sys2Proof/Machine/Shares.lean ====
section
/-!
DEFINITION. SHPARK and SHUNPARK (10 R223, R224) and the events of Amber, the level machines, the governor, the links
and the regulators (10 R203, R212 to R222, 23 R398).
-/

namespace Sys2Proof.Machine

/-! ### SHPARK and SHUNPARK -/

/-- An instruction that waits only while an earlier entry can still trap; what the entries read decides that, and
belongs to their chunks' reads from now on (log 6). -/
def State.onceSafe (s : State) (f : State → Out) : Out :=
  let x := s.future
  if x.risky then s.stall else f (s.readEarly x)

/-- SHPARK: at least 2 shares stay usable. -/
def execShpark (d a : XReg) (s : State) : Out :=
  s.onceSafe (fun s =>
    let n := min (s.x a).toNat (s.me.power.own - s.me.arch.sparked - 2)
    s.done ({ s.me.arch with sparked := s.me.arch.sparked + n }.setX d (BitVec.ofNat 64 n)))

/-- SHUNPARK: what the governor has taken of the shares asked for comes back at the end of its cycle (R219). -/
def execShunpark (d a : XReg) (s : State) : Out :=
  s.onceSafe (fun s =>
    let n := min (s.x a).toNat s.me.arch.sparked
    s.done ({ s.me.arch with sparked := s.me.arch.sparked - n }.setX d (BitVec.ofNat 64 n)))

/-! ### Levels (R202, R203, R215) -/

/-- The level a core steps toward: what it pays for once it has given back what is due. -/
def Core.stepGoal (k : Core) : Option Nat := levelFor (min 24 (k.holding - k.power.dueSum))

/-- A core's current level changed. -/
def Core.setCur (k : Core) (l : Nat) : Core := { k with power := { k.power with cur := l } }

/-- LEVEL_STEP: one step of 64 ns completes. A step up needs the shares that pay for it; a step down gives up the
difference. -/
def execLevelStep (c : CoreId) (s : State) : Out :=
  let k := s.core c
  let cur := k.power.cur
  if cur == gatedLevel || !(k.power.mode == .run || k.power.mode == .recalling) then .next s
  else match k.stepGoal with
    | some g =>
      if cur < g then .next (s.setCore c (k.setCur (cur + 1)))
      else if g < cur then .next ((s.setCore c (k.setCur (cur - 1))).settle c)
      else .next (s.settle c)
    | none =>
      if cur = 0 then .next ((s.setCore c (k.setCur gatedLevel)).settle c)
      else .next ((s.setCore c (k.setCur (cur - 1))).settle c)

/-! ### Amber (R212 to R218) -/

/-- The two ends of a message. -/
def Amber.ends : Amber → Holder × Holder
  | .lend a b _ _ _ => (a, b)
  | .recallMsg a b _ _ _ _ => (a, b)
  | .ret a b _ _ _ => (a, b)
  | .notice d _ _ => (.core d, .core d)

/-- Message i, if no earlier one travels between the same ends, and the messages without it. -/
def State.amberAt (s : State) (i : Nat) : Option (Amber × State) :=
  match s.amber[i]? with
  | none => none
  | some m =>
    if (s.amber.take i).any (fun n => n.ends == m.ends) then none
    else some (m, { s with amber := s.amber.eraseIdx i })

/-- Whether a contribution is the one that a message names. -/
def Contrib.is (b : Contrib) (sender origin : Holder) (hop : Nat) : Bool :=
  b.sender == sender && b.origin == origin && b.hop == hop

/-- A contribution raised by an amount, or added. -/
def addContrib (cs : List Contrib) (sender origin : Holder) (hop amt : Nat) : List Contrib :=
  if cs.any (fun b => b.is sender origin hop) then
    cs.map (fun b => if b.is sender origin hop then { b with here := b.here + amt, live := origin.isCore } else b)
  else cs ++ [⟨sender, origin, hop, amt, 0, 0, 0, origin.isCore⟩]

/-- A pool changed and split anew. -/
def State.onPool (s : State) (key : Nat) (f : Pool → Pool) : State :=
  { s with pools := tabPut s.pools key (f (s.pool key)) }.poolSplit (keyLine key) key

/-- A core's inbound contributions changed. -/
def State.onInb (s : State) (c : CoreId) (f : List Contrib → List Contrib) : State :=
  s.onCore c (fun k => { k with power := { k.power with inb := f k.power.inb } })

/-- A lend reaches a core: it parks, pays for the core's level, or is sent on; at its own origin it reveals a cycle. -/
def State.lendAt (s : State) (c : CoreId) (src origin : Holder) (hop amt : Nat) : State :=
  let s := s.onInb c (fun cs => addContrib cs src origin hop amt)
  let k := s.core c
  if origin == .core c then
    if k.power.mode == .lend then { s with amber := s.amber ++ [.notice c c hop] } else s
  else match (if k.power.mode == .lend then k.edgeDest c else none) with
    | some d =>
      let before := (s.amber.length : Nat)
      let t := s.forward c d false
      -- a contribution with no room goes on as a notice
      if hop < 8 && (origin.isCore || origin != d) && !(t.amber.drop before).any (fun m => match m with
          | .lend _ _ o h _ => o == origin && h == hop + 1
          | _ => false)
      then { t with amber := t.amber ++ [.lend (.core c) d origin (hop + 1) 0] } else t
    | none => s.setCore c ((s.core c).raiseWake s.time)

/-- LEND. -/
def execLend (i : Nat) (s : State) : Out :=
  match s.amberAt i with
  | some (.lend src (.core c) origin hop amt, t) => .next (t.lendAt c src origin hop amt)
  | some (.lend src (.pool key) origin hop amt, t) =>
    .next (t.onPool key (fun p => { p with inb := pruneInb (addContrib p.inb src origin hop amt), held := p.held + amt }))
  | _ => .next s

/-- A recall reaches a core: it gives back what it holds, and what it sent on is recalled in turn (R215). -/
def State.recallAt (s : State) (c : CoreId) (src origin : Holder) (hop amt : Nat) (last : Bool) : State :=
  let k := s.core c
  match k.power.inb.find? (fun b => b.is src origin hop) with
  | none => s
  | some b =>
    let m := min amt (b.here + b.sent + b.gov - b.due)
    let fromHere := min m (b.here - b.due)
    let rest := min (m - fromHere) b.sent
    let s := s.onInb c (fun cs => cs.map (fun d =>
      if d.is src origin hop then { d with due := d.due + m, live := d.live && !last } else d))
    let s := match (if k.power.mode == .lend && (rest != 0 || last) then k.edgeDest c else none) with
      | some d => if !b.mayForward (.core c) d then s else { s with amber := s.amber ++ [Amber.recallMsg (.core c) d origin (hop + 1) rest last] }
      | none => s
    let s := s.settle c
    s.onInb c pruneInb

/-- RECALL. -/
def execRecall (i : Nat) (s : State) : Out :=
  match s.amberAt i with
  | some (.recallMsg src (.core c) origin hop amt last, t) => .next (t.recallAt c src origin hop amt last)
  | some (.recallMsg src (.pool key) origin hop amt last, t) =>
    .next (t.onPool key (fun p => { p with inb := pruneInb (p.inb.map (fun b =>
      if b.is src origin hop then { b with due := b.due + min amt (b.here - b.due), live := b.live && !last } else b)) }))
  | _ => .next s

/-- Returned shares credited in order to the contributions of an origin and hop, each up to what `want` says; yields
what is left. -/
def creditSome (want : Contrib → Nat) (origin : Holder) (hop : Nat) : Nat → List Contrib → List Contrib × Nat
  | amt, [] => ([], amt)
  | amt, b :: bs =>
    let m := if b.origin == origin && b.hop + 1 == hop then min amt (min (want b) b.sent) else 0
    let r := creditSome want origin hop (amt - m) bs
    ({ b with sent := b.sent - m, here := b.here + m } :: r.1, r.2)

/-- Returned shares credited to the contributions of their origin: first to those that a recall asks back and whose
shares are not here, and then to any that has shares out (R215). -/
def creditInb (origin : Holder) (hop amt : Nat) (cs : List Contrib) : List Contrib :=
  let r := creditSome (fun b => b.due - b.here) origin hop amt cs
  (creditSome (·.sent) origin hop r.2 r.1).1

/-- After a return: the recall is over once nothing is out; shares of a lending core go on (R213). -/
def State.afterReturn (s : State) (c : CoreId) : State :=
  let k := s.core c
  match k.power.mode with
  | .recalling =>
    let k := if k.power.out = 0 then { k with power := { k.power with mode := .run } } else k
    s.setCore c (k.raiseWake s.time)
  | .lend =>
    match k.edgeDest c with
    | some d => s.forward c d false
    | none => s
  | .run => s.setCore c (k.raiseWake s.time)
  | _ => s

/-- A return reaches a core: its own shares, or a contribution's on the way back. Own shares of a halted core go on to
the governor (R205). -/
def State.returnAt (s : State) (c : CoreId) (origin : Holder) (hop amt : Nat) : State :=
  if origin == .core c && hop == 1 then
    let gone := (s.core c).power.mode == .halted || (s.core c).power.mode == .dark
    let s := s.onCore c (fun k => { k with power := { k.power with sentOwn := k.power.sentOwn - amt } })
    if gone then { s with governor := s.governor + amt } else s.afterReturn c
  else
    let s := s.onInb c (creditInb origin hop amt)
    ((s.settle c).afterReturn c).onInb c pruneInb

/-- RETURN. -/
def execReturnMsg (i : Nat) (s : State) : Out :=
  match s.amberAt i with
  | some (.ret _ (.core c) origin hop amt, t) => .next (t.returnAt c origin hop amt)
  | some (.ret (.core m) (.pool key) _ _ amt, t) =>
    .next (t.onPool key (fun p => { p with
      held := p.held + amt
      given := p.given.map (fun g => if g.1 == m then (g.1, g.2.1 - amt, g.2.2 - amt) else g) }))
  | _ => .next s

/-- tval of WCYCLE (R218). -/
def wcycleVal (len : Nat) (origin target : CoreId) : Word :=
  BitVec.ofNat 64 (len * 0x1000000 + origin.val * 0x1000 + target.val)

/-- Whether a waiting core's event has already come: a served take, a message on its channel. -/
def Core.satisfied (k : Core) : Bool :=
  match k.wait with
  | none => true
  | some w =>
    match w.instr with
    | .recv _ ch => k.chans[ch].count != 0
    | .fetake _ _ => w.stage == 3
    | _ => false

/-- CYCLE_NOTICE: a waiting member passes the notice on and, unless nocyc is 1, takes WCYCLE at its waiting
instruction. -/
def execCycleNotice (i : Nat) (s : State) : Out :=
  match s.amberAt i with
  | some (.notice c origin len, t) =>
    let k := t.core c
    match k.power.mode, k.power.edge with
    | .lend, some (.core tgt) =>
      if k.satisfied then .next t
      else
        let u := if tgt == origin then t else { t with amber := t.amber ++ [.notice tgt origin len] }
        if bit k.arch.waitcfg.toNat 1 then .next u
        else .next ((u.dropWait c).enterTrap c k.arch.pc k.arch.pc ⟨.wcycle, wcycleVal len origin tgt⟩)
    | _, _ => .next t
  | _ => .next s

/-! ### The governor, the links and the regulators (R219, R222, 23 R398) -/

/-- Time set to the next multiple of a period. -/
def State.toPeriod (s : State) (n : Nat) : State :=
  { s with time := BitVec.ofNat 64 ((s.time.toNat / n + 1) * n) }

/-- Own shares that the governor owes a core and that are asked for: those it took beyond what is parked now. -/
def Core.owed (k : Core) : Nat := k.power.gov - k.arch.sparked

/-- What the governor repays at one core: contributions it has taken and a recall asks for, and own shares; those of a
core that lends join what it lends (R213). -/
def State.repayAt (s : State) (c : CoreId) : State :=
  let k := s.core c
  let pay := fun (b : Contrib) => min b.due b.gov
  let sum := (k.power.inb.map pay).foldl (· + ·) 0
  let own := k.owed
  let rets := k.power.inb.filterMap (fun b => if pay b = 0 then none else some (Amber.ret (.core c) b.sender b.origin b.hop (pay b)))
  let k : Core := { k with power := { k.power with
    inb := pruneInb (k.power.inb.map (fun b => { b with due := b.due - pay b, gov := b.gov - pay b }))
    gov := k.power.gov - own } }
  let t : State := { s.setCore c (k.raiseWake s.time) with governor := s.governor - sum - own, amber := s.amber ++ rets }
  match (if k.power.mode == .lend && own != 0 then k.edgeDest c else none) with
  | none => t
  | some d => t.forward c d false

/-- The width one step down. -/
def Width.down : Width → Width
  | .full => .narrow
  | _ => .standby

/-- The width one step up. -/
def Width.up : Width → Width
  | .standby => .narrow
  | _ => .full

/-- Shares of a width. -/
def Width.shares : Width → Nat
  | .standby => 16
  | .narrow => 96
  | .full => 288

/-- A link at the end of the governor's cycle: a step by its traffic of the cycle, unless a change is in progress. -/
def Link.decide (l : Link) (traffic : Nat) : Link :=
  if l.change.isSome then l
  else
    let w := if traffic = 0 then l.width.down else if traffic = 1 then l.width else l.width.up
    if w == l.width then l else { l with change := some w }

/-- GOVERNOR_CYCLE. -/
def execGovernorCycle (s : State) : Out :=
  let s := s.toPeriod 1700
  let s := s.cores.foldl (fun (t : State) e => t.repayAt (coreOf e.1)) s
  .next { s with links := Vector.ofFn fun i => s.links[i].decide (Config.linkUse s.fresh i) }

/-- The clusters whose matrix slices run, or have run since the start of the governor's previous cycle, ascending. -/
def State.sliceClusters (s : State) : List Nat :=
  let from_ := (s.time.toNat / 1700 - 1) * 1700
  (List.range 512).filter (fun n => s.cores.any (fun e => clusterOf (coreOf e.1) == n && (match e.2.slice.ran with
    | none => false
    | some t => from_ <= t.toNat)))

/-- Shares given to the vector-unit domains of some clusters, as evenly as they divide; to none, where no slice ran (log
11). -/
def giveVec (n : Nat) (cls : List Nat) (t : Tab Nat) : Tab Nat :=
  if cls.isEmpty then tabPut t 512 (tabGet 0 t 512 + n)
  else ((List.range cls.length).zip cls).foldl (fun t e =>
    tabPut t e.2 (tabGet 0 t e.2 + n / cls.length + if e.1 < n % cls.length then 1 else 0)) t

/-- Shares taken back from the domains that have some, in ascending order (log 11). -/
def takeVec : Nat → Tab Nat → Tab Nat
  | _, [] => []
  | n, (c, h) :: t => if n < h then (c, h - n) :: t else takeVec (n - h) t

/-- LINK_WIDTH_CHANGE: the change completes, and the shares it frees or needs are traded with the vector-unit domains.
-/
def execLinkWidthChange (l : Fin 18) (s : State) : Out :=
  match s.links[l].change with
  | none => .next s
  | some w =>
    let old := s.links[l].width.shares
    .next { s with
      links := s.links.set l ⟨w, none⟩
      vecTrade := if w.shares <= old then giveVec (old - w.shares) s.sliceClusters s.vecTrade else takeVec (w.shares - old) s.vecTrade }

/-- Takes an amount of shares from contributions, the last first; yields what is left to take. DESIGN CHOICE (log 11):
R219 does not say which lenders' shares are the parked ones that pass to the governor. -/
def takeParked : Nat → List Contrib → Nat × List Contrib
  | n, [] => (n, [])
  | n, b :: bs =>
    let r := takeParked n bs
    let m := min r.1 b.here
    (r.1 - m, { b with here := b.here - m, gov := b.gov + m } :: r.2)

/-- Shares parked by SHPARK that are at the core. -/
def Core.sparkHere (k : Core) : Nat := min k.arch.sparked k.power.own - k.power.gov

/-- PARKED_SHARE_TIMEOUT: what is parked at a core passes to the governor and stays owed; so do the shares that SHPARK
has parked and the shares at a halted core; at a stopped core nothing is parked (R220). Own shares are at most 24, so
what is parked beyond them was lent (R208). -/
def execParkedShareTimeout (c : CoreId) (s : State) : Out :=
  let k := s.core c
  let r := takeParked k.parked k.power.inb
  if k.run == .stopped then .next s
  else .next { s.setCore c { k with power := { k.power with inb := r.2, gov := k.power.gov + k.sparkHere } } with
    governor := s.governor + (k.parked - r.1) + k.sparkHere }

/-- Physical columns of a die in the order of its logical ones (24 R406, R410), by the table: the columns that are
neither Slate columns nor spares, with the remap list applied. -/
def tableColumns (t : BootTable) (die : Nat) : List Nat :=
  let plain := (List.range 36).filter (fun c => !t.slateColumns.contains (die, c) && !t.spareColumns.contains (die, c))
  plain.map (fun c => ((tabFind t.remap (die * 36 + c)).map (· % 36)).getD c)

/-- The physical column of a core. -/
def State.physColumn (s : State) (c : CoreId) : Nat × Nat :=
  match s.boot.table with
  | none => (dieOf c, CoreId.col c % 32)
  | some t => (dieOf c, (tableColumns t (dieOf c))[CoreId.col c % 32]?.getD (CoreId.col c % 32))

/-- REGULATOR_FAILURE: the domain goes dark, what it holds passes to the governor, the launch faults, and the column is
recorded (24 R410). -/
def execRegulatorFailure (c : CoreId) (s : State) : Out :=
  let k := s.core c
  if k.power.mode == .dark then .next s
  else
    let p := { k.power with
      mode := .dark, cur := gatedLevel, edge := none, wake := none, own := 0, gov := 0
      inb := k.power.inb.map (fun b => { b with here := 0, gov := b.gov + b.here }) }
    let t : State := { s.setCore c { k with power := p } with
      governor := s.governor + (k.power.own - k.power.gov - k.power.sentOwn) + k.power.inHere
      boot := { s.boot with columnFaults := s.boot.columnFaults ++ [s.physColumn c] } }
    .next (if k.launch.isSome then t.raise c .power .idCore (BitVec.ofNat 64 c.val) 0
      else t.onCore c (fun k => { k with run := .frozen }))

end Sys2Proof.Machine
end

