-- ==== Sys2Proof/Machine/Gates.lean ====
section
/-!
DEFINITION. Gates (20 R358 to R372): the gate instructions and requests, token accounts, buckets, and what Slate does to
a gate.
-/

namespace Sys2Proof.Machine

/-! ### Token periods (R358) -/

/-- The accounts of all resources refilled at the starts of some periods, one after the other. -/
def State.refillAll : Nat → State → State
  | 0, s => s
  | n + 1, s => State.refillAll n ((List.finRange 5).foldl State.refillTokens s)

/-- Time set to the next multiple of a period, unless one has come that `last` does not count. -/
def State.toNext (s : State) (n last : Nat) : State := if last < s.time.toNat / n then s else s.toPeriod n

/-- TOKEN_PERIOD: the start of each period of 10 us, 17,000 reference cycles, once each. -/
def execTokenPeriod (s : State) : Out :=
  let t := s.toNext 17000 s.tokensAt
  .next { State.refillAll (t.time.toNat / 17000 - s.tokensAt) t with tokensAt := t.time.toNat / 17000 }

/-! ### Gate state (R361, R364) -/

/-- A gate that Slate has not set up. -/
def Gate.unset : Gate := ⟨.unset, [], [], 0, 0, none, 0, 0, .unset⟩

/-- The key of a gate. -/
def gateKey (g : GateId) : Nat := g.pkg.val * 1024 + g.idx.val

/-- A gate. -/
def State.gate (s : State) (key : Nat) : Gate := tabGet Gate.unset s.gates key

/-- A gate replaced. -/
def State.setGate (s : State) (key : Nat) (g : Gate) : State := { s with gates := tabPut s.gates key g }

/-- The code of a gate state. -/
def GateState.code : GateState → Nat
  | .unset => 0 | .run => 1 | .error => 2 | .migrating => 3 | .closed => 4

/-- The peer status of a partition (R364). -/
def State.peerStatus (s : State) (part : Nat) : Nat :=
  match tabFind s.parts part with
  | none => 1
  | some p =>
    if p.faulted then 4
    else if p.wasReset then 2
    else if p.migrating then 3
    else match p.stop with
      | .stopped | .resuming _ => 5
      | _ => 1

/-- The incarnation of a partition's function (R364). -/
def State.incOf (s : State) (part : Nat) : BitVec 16 :=
  match tabFind s.parts part with
  | none => 0
  | some p => (s.vfs[p.vf]).inc

/-! ### Requests (R360, R368 to R370) -/

/-- The gate instructions. -/
inductive GateOp where
  | post | take | stat (sel : GSel) | err | rearm
  deriving DecidableEq, Repr

/-- Whether an entry has the right that an operation needs (R367). -/
def GateOp.allowed (o : GateOp) (e : GateEntry) : Bool :=
  match o with
  | .post => e.post
  | .take => e.take
  | _ => true

/-- The result word (R369). -/
def gateWord (n : Nat) (inc : BitVec 16) (ent status : Nat) : Word :=
  BitVec.ofNat 64 (n % 2 ^ 32 * 2 ^ 32 + inc.toNat * 2 ^ 16 + ent * 256 + status)

/-- The result of an operation that did not end in OK, or of GERR and GREARM. -/
def gatePlain (ent status : Nat) : Word := gateWord 0 0 ent status

/-- An entry's bucket after an operation that ended in OK: a rate of 0 means no limit. -/
def Gate.spend (g : Gate) (ent : Nat) : Gate :=
  { g with slots := g.slots.modify ent (fun sl => if sl.entry.rate = 0 then sl else { sl with bucket := sl.bucket - 1 }) }

/-- Whether an entry's bucket is empty. -/
def GateSlot.dry (sl : GateSlot) : Bool := sl.entry.rate != 0 && sl.bucket = 0

/-- What GSTAT returns (R370). -/
def State.gstat (s : State) (g : Gate) (ent : Nat) (sel : GSel) : Word :=
  match sel with
  | .posts => g.posts
  | .takes => g.takes
  | .idx => g.idx.setWidth 64
  | .peers => BitVec.ofNat 64 (lanesNat 4 (fun j => match g.slots[j]? with
      | none => 0
      | some sl => if sl.entry.v then s.peerStatus sl.entry.part else 0) 8)
  | .status =>
    BitVec.ofNat 64 ((match g.window with
      | none => 0
      | some w => w.size.val) * 2 ^ 32 + g.recBy % 8 * 2 ^ 24 + ent % 8 * 2 ^ 16 + g.queue.length % 32 * 256 + g.state.code)

/-- What the gate answers: its state, the result word, and a payload taken. -/
structure Reply where
  gate : Gate
  word : Word
  taken : Option Body
  deriving DecidableEq, Repr

/-- The procedure of R368 for a listed caller: its entry number and slot, its incarnation, the payload and the index. -/
def State.gateReply (s : State) (g : Gate) (ent : Nat) (sl : GateSlot) (o : GateOp) (payload : Body) (idx : Lane) : Reply :=
  let fail := fun (st : Nat) => Reply.mk g (gatePlain ent st) none
  match o with
  | .stat sel => ⟨g, s.gstat g ent sel, none⟩
  | _ =>
    if g.state == .closed then fail 6
    else if g.state == .migrating then fail 2
    else match o with
      | .post =>
        if g.state == .error then fail 5
        else if sl.dry then fail 1
        else if g.queue.length = 16 then fail 3
        else
          let inc := s.incOf sl.entry.part
          let n := g.posts + 1
          ⟨{ g.spend ent with posts := n, queue := g.queue ++ [⟨payload, n, ent, inc⟩] }, gateWord n.toNat inc ent 0, none⟩
      | .take =>
        if g.state == .error then fail 5
        else if sl.dry then fail 1
        else match g.queue with
          | [] => fail 4
          | p :: ps => ⟨{ g.spend ent with takes := g.takes + 1, queue := ps }, gateWord p.n.toNat p.inc p.ent 0, some p.payload⟩
      | .err => if g.state == .error then fail 5 else ⟨{ g with state := .error, idx := idx, recBy := ent }, gatePlain ent 0, none⟩
      | _ =>
        if g.state == .run then fail 7
        else if g.recBy != ent then fail 8
        else ⟨{ g with state := .run, idx := idx }, gatePlain ent 0, none⟩

/-- Whether a chunk has read or written a line of a gate's window (R366). -/
def Chunk.hitsWindow (ch : Chunk) (w : WindowSpec) : Bool :=
  (ch.rd ++ ch.wr).any (fun l => w.base / 64 <= l && l < (w.base + winBytes w.size.val) / 64)

/-- Whether a core that runs with priority holds a GERR back (13 R251). -/
def State.windowHeld (s : State) (g : Gate) (o : GateOp) : Bool :=
  match o, g.window with
  | .err, some w => s.cores.any (fun e => e.2.prio && e.2.chunks.any (fun ch => ch.hitsWindow w))
  | _, _ => false

/-- A GERR counts as a write to every line of the window (R366). -/
def State.windowWritten (s : State) (old new : Gate) : State :=
  match new.window with
  | none => s
  | some w =>
    if new.state == .error && old.state != .error then
      { s with cores := s.cores.map (fun e => (e.1, e.2.markChunks (fun ch => ch.hitsWindow w))) }
    else s

/-- The gate that an address names: inside the region, on a package of the domain (R360). -/
def State.gateNamed (s : State) (va : Nat) : Option Nat :=
  if !inGateRegion va then none
  else
    let o := va - gateRegion
    if s.domain.any (fun p => p.val == o / 0x10000) then some (o / 0x10000 * 1024 + o % 0x10000 / 64) else none

/-- The function of the executing core's partition. -/
def State.myVf (s : State) : Option (Fin 16) := (s.me.part.bind (tabFind s.parts)).map (·.vf)

/-- A request reaches its gate, once its function has a token: the reply completes the instruction (R368). `i` is the
instruction, `off` the local offset of a payload taken. -/
def State.gateRequest (s : State) (i : Instr) (d : XReg) (o : GateOp) (addr : Word) (payload : Body) (off : Nat) (idx : Lane) : Out :=
  let va := ptrAddr addr
  match s.gateNamed va with
  | none => s.faultMe .violation .global (BitVec.ofNat 64 va)
  | some key =>
    let g := s.gate key
    match s.me.part.bind g.slotFor with
    | none => s.faultMe .violation .global (BitVec.ofNat 64 va)
    | some (ent, sl) =>
      if !o.allowed sl.entry then s.faultMe .violation .global (BitVec.ofNat 64 va)
      else match (match s.myVf with
          | none => some s
          | some v => s.spendToken v gateTokens) with
        | none => s.blocked i 1 payload none
        | some t =>
          if s.windowHeld g o then s.blocked i 1 payload none
          else
            let r := s.gateReply g ent sl o payload idx
            let u := ((t.gateOrder t.turn key).setGate key r.gate).windowWritten g r.gate
            let u := match r.taken with
              | none => u
              | some b => u.putSpad u.turn off (bodyBytes b 64)
            u.finish (fun a => a.setX d r.word)

/-- The checks that a gate instruction makes before anything leaves the core (R368). -/
def State.gateTrap (s : State) (addr : Word) (buffer : Option Word) : Option Trap :=
  if ptrAddr addr % 64 != 0 then some ⟨.align, addr⟩
  else match buffer with
    | none => none
    | some b => payloadTrap s.me.arch.stashSize b 64

/-- A gate instruction from its start, or from the wait for a token (stage 1). -/
def State.gateExec (s : State) (i : Instr) (d : XReg) (o : GateOp) (addr : Word) (buffer : Option Word) (idx : Lane) : Out :=
  let off := (buffer.getD 0).toNat
  if s.stage = 1 then s.gateRequest i d o addr s.payload off idx
  else match s.gateTrap addr buffer with
    | some t => s.takeTrap t
    | none => s.boundary (fun s =>
        if o == .post then
          match s.me.poisoned off 64 with
          | some p => s.faultMe .memErr .core (coreAddr s.turn (p * 8))
          | none => s.gateRequest i d o addr (s.me.arch.bodyAt off 64) off idx
        else s.gateRequest i d o addr 0 off idx)

/-- GPOST. -/
def execGpost (d a b : XReg) (s : State) : Out := s.gateExec (.gpost d a b) d .post (s.x a) (some (s.x b)) 0
/-- GTAKE. -/
def execGtake (d a b : XReg) (s : State) : Out := s.gateExec (.gtake d a b) d .take (s.x a) (some (s.x b)) 0
/-- GSTAT. -/
def execGstat (d a : XReg) (sel : GSel) (s : State) : Out := s.gateExec (.gstat d a sel) d (.stat sel) (s.x a) none 0
/-- GERR. -/
def execGerr (d a b : XReg) (s : State) : Out := s.gateExec (.gerr d a b) d .err (s.x a) none ((s.x b).setWidth 32)
/-- GREARM. -/
def execGrearm (d a b : XReg) (s : State) : Out := s.gateExec (.grearm d a b) d .rearm (s.x a) none ((s.x b).setWidth 32)

/-- A gate instruction that waits for a token tries again. -/
def State.gateRetry (s : State) : Out :=
  match s.me.wait with
  | some w =>
    match w.instr with
    | .gpost d a b => execGpost d a b s
    | .gtake d a b => execGtake d a b s
    | .gstat d a sel => execGstat d a sel s
    | .gerr d a b => execGerr d a b s
    | .grearm d a b => execGrearm d a b s
    | _ => .next s
  | none => .next s

/-! ### What Slate and time do to gates (R361 to R363) -/

/-- An entry's bucket n whole microseconds later. -/
def GateSlot.refill (sl : GateSlot) (n : Nat) : GateSlot :=
  { sl with bucket := min sl.entry.burst (sl.bucket + n * sl.entry.rate) }

/-- BUCKET_REFILL: each whole microsecond once. -/
def execBucketRefill (s : State) : Out :=
  let t := s.toNext 1700 s.bucketsAt
  let n := t.time.toNat / 1700 - s.bucketsAt
  .next { t with
    gates := t.gates.map (fun e => (e.1, { e.2 with slots := e.2.slots.map (·.refill n) }))
    bucketsAt := t.time.toNat / 1700 }

/-- Whether Slate accepts an access list, given by entry number: within the layout of R361, and of the entries in use,
wr only with rd and no partition twice. -/
def entriesOk (es : List GateEntry) : Bool :=
  let used := es.filter (·.v)
  es.length <= 8
  && used.all (fun e => e.part < 2 ^ 16 && e.rate < 256 && 1 <= e.burst && e.burst < 256 && (!e.wr || e.rd))
  && (used.map (·.part)).eraseDups.length == used.length

/-- Whether two ranges of n and m bytes meet. -/
def rangesMeet (a n b m : Nat) : Bool := a < b + m && b < a + n

/-- Whether a window fits a gate: DRAM of its package; mapped into each partition with
rd and no other, at an aligned address of its space where no other window stands (R361, R362). -/
def State.windowOk (s : State) (g : GateId) (es : List GateEntry) (w : WindowSpec) : Bool :=
  let n := winBytes w.size.val
  w.size != 0 && w.base % n = 0 && bits w.base 45 7 == g.pkg.val && !bit w.base 44
  && s.populated w.base && s.populated (w.base + n - 1)
  && w.maps.all (fun m => es.any (fun e => e.v && e.part == m.1 && e.rd) && m.2 % n = 0 && m.2 + n <= gateRegion
    && (s.windows (some m.1)).all (fun o => !rangesMeet m.2 n o.va o.size))
  && es.all (fun e => !e.v || !e.rd || w.maps.any (fun m => m.1 == e.part))

/-- A window's bytes as Slate zeroes them before its gate leaves UNSET (22 R377, log 17). -/
def State.zeroWindow (s : State) (w : WindowSpec) : State :=
  let inside := fun (a : Nat) => w.base <= a && a < w.base + winBytes w.size.val
  let t := s.putMem none ((s.mem.filter (fun e => inside e.1)).map (fun e => (e.1, 0)))
  let u := (t.showAll (fun e => inside (e.line * 64))).keepLines (fun l => !inside (l.line * 64))
  { u with memPoison := u.memPoison.filter (fun d => !inside (d * 8)) }

/-- GATE_SETUP: from UNSET to RUN, empty, with full buckets and a zero window. -/
def execGateSetup (g : GateId) (es : List GateEntry) (w : Option WindowSpec) (s : State) : Out :=
  let fits := match w with
    | none => true
    | some w => s.windowOk g es w
  if (s.gate (gateKey g)).state != .unset || !entriesOk es || !fits || !s.domain.contains g.pkg then .next s
  else
    let t := match w with
      | none => s
      | some w => s.zeroWindow w
    .next { t.setGate (gateKey g) ⟨.run, es.map (fun e => ⟨e, e.burst⟩), [], 0, 0, w, 0, 0, .run⟩ with
      bucketsAt := if s.gates.isEmpty then s.time.toNat / 1700 else s.bucketsAt }

/-- GATE_CLOSE: any state but UNSET; the window is unmapped. -/
def execGateClose (g : GateId) (s : State) : Out :=
  let q := s.gate (gateKey g)
  if q.state == .unset then .next s else .next (s.setGate (gateKey g) { q with state := .closed })

/-- GATE_RELEASE: CLOSED to UNSET, the access list cleared. -/
def execGateRelease (g : GateId) (s : State) : Out :=
  if (s.gate (gateKey g)).state == .closed then .next { s with gates := tabDel s.gates (gateKey g) } else .next s

end Sys2Proof.Machine
end

