-- ==== Sys2Proof/Machine/Events.lean ====
section
/-!
DEFINITION. What the device writes for the host and for management: events and event queues (24 R400 to R403), and
the merged nodes of partitions (20 R352, R353).
-/

namespace Sys2Proof

/-! ### Nodes (20 R352, R353) -/

/-- Rows of clusters of a node. -/
def Node.rows (n : Node) : Nat := Machine.nodeRows n.order / 2
/-- Columns of clusters of a node. -/
def Node.cols (n : Node) : Nat := Machine.nodeCols n.order / 4

/-- Whether a node is named as R352 asks: its order exists and its origin is aligned to it. -/
def Node.ok (n : Node) : Bool :=
  n.order < 10 && n.origin < 512 && n.origin % 16 % n.cols == 0 && n.origin / 16 % n.rows == 0

/-- Whether a cluster lies in a node. -/
def Node.hasCluster (n : Node) (pkg c : Nat) : Bool :=
  n.pkg == pkg && n.origin % 16 <= c % 16 && c % 16 < n.origin % 16 + n.cols
  && n.origin / 16 <= c / 16 && c / 16 < n.origin / 16 + n.rows

/-- Whether a cluster lies in some node of a list. -/
def inNodes (ns : List Node) (pkg c : Nat) : Bool := ns.any (fun n => n.hasCluster pkg c)

/-- Whether two nodes meet. Buddy nodes that meet lie one in the other. -/
def Node.meets (m n : Node) : Bool := m.hasCluster n.pkg n.origin || n.hasCluster m.pkg m.origin

/-- Whether a node lies within another. -/
def Node.within (m n : Node) : Bool := m.order <= n.order && n.hasCluster m.pkg m.origin

/-- The parent of a node. -/
def Node.parent (n : Node) : Node :=
  let p : Node := { n with order := n.order + 1 }
  { p with origin := n.origin / 16 / p.rows * p.rows * 16 + n.origin % 16 / p.cols * p.cols }

end Sys2Proof

namespace Sys2Proof.Machine

/-! ### Functions -/

/-- A partition changed, if it exists. -/
def State.onPart (s : State) (id : Nat) (f : Part → Part) : State :=
  match tabFind s.parts id with
  | none => s
  | some p => { s with parts := tabPut s.parts id (f p) }

/-- Entries of the submission queue (R400). -/
def Vf.sqSize (v : Vf) : Nat := 2 ^ bits v.qsize.toNat 0 4

/-- Entries of the event queue (R400). -/
def Vf.eqSize (v : Vf) : Nat := 2 ^ bits v.qsize.toNat 8 4

/-! ### Events (R402) -/

/-- The 64 bytes of an event. -/
def eventBody (dseq hseq : Word) (launch code kind payload : Nat) : Body :=
  BitVec.ofNat 512 (dseq.toNat + hseq.toNat * 2 ^ 64
    + (launch % 2 ^ 32 * 2 ^ 32 + code % 256 * 256 + kind % 256) * 2 ^ 128 + payload % 2 ^ 256 * 2 ^ 256)

/-- dseq of an event. -/
def eventSeq (b : Body) : Word := b.extractLsb' 0 64

/-- Whether the event queue is full: one place stays empty (log 22). -/
def Vf.eqFull (v : Vf) : Bool := (v.eqwrite + 1) % v.eqSize == v.eqhead.toNat % v.eqSize

/-- The larger of two sequence numbers. -/
def laterSeq (a b : Word) : Word := if a.toNat < b.toNat then b else a

/-- The next dseq of a function. -/
def Vf.nextSeq (v : Vf) : Word := (v.held.foldl (fun d b => laterSeq d (eventSeq b)) v.dseq) + 1

/-- An event written into the queue in host memory. -/
def State.writeEvent (s : State) (vf : Fin 16) (b : Body) : State :=
  let v := s.vfs[vf]
  { s.onVf vf (fun v => { v with
      eqwrite := (v.eqwrite + 1) % v.eqSize
      dseq := laterSeq v.dseq (eventSeq b) }) with
    host := s.host.set vf (memPutBytes s.host[vf] (v.eqbase.toNat + 64 * v.eqwrite) (bodyBytes b 64)) }

/-- Held events written while there is room. -/
def State.flushEvents (vf : Fin 16) : List Body → State → State
  | [], s => s.onVf vf (fun v => { v with held := [] })
  | b :: bs, s =>
    if (s.vfs[vf]).eqFull then s.onVf vf (fun v => { v with held := b :: bs })
    else State.flushEvents vf bs (s.writeEvent vf b)

/-- An event sent: written, or held behind held ones while the queue is full. -/
def State.sendEvent (s : State) (vf : Fin 16) (b : Body) : State :=
  State.flushEvents vf ((s.vfs[vf]).held ++ [b]) s

/-- A new event of a function: numbered, retained (R403), and sent. -/
def State.event (s : State) (vf : Fin 16) (hseq : Word) (launch code kind payload : Nat) : State :=
  let d := (s.vfs[vf]).nextSeq
  let b := eventBody d hseq launch code kind payload
  (s.onVf vf (fun v => { v with retained := newest 1024 (v.retained ++ [(d, b)]) })).sendEvent vf b

/-- REFUSE with a code (R404). -/
def State.refuseEvent (s : State) (vf : Fin 16) (hseq : Word) (code : Nat) : State := s.event vf hseq 0 code 3 0

/-! ### Packets for Slate cores (24 R407) -/

/-- Whether the firewall of a Slate core lets a packet of a logical core pass (24 R407): its gate request, which goes to
the unit that holds the gate it names, and a report for the front end of its own function. -/
def State.firewallPass (s : State) (c : CoreId) (p : SlatePacket) : Bool :=
  match p with
  | .gate => true
  | .report vf => s.vfOf (s.core c).part == some vf
  | .other => false

/-- Whether a core's partition only waits for gate replies before it is put away (20 R371): the core stands still then,
but for a gate instruction that it waits in. -/
def State.settling (s : State) (k : Core) : Bool :=
  match k.part.bind (tabFind s.parts) with
  | some p => p.stop == .settling
  | none => false

/-- GATE_REQUEST: a packet for a Slate core passes its firewall, and the request of a waiting core reaches its gate; a
packet that does not pass is dropped and recorded with class 0. -/
def execGateRequest (x : SlateSend) (s : State) : Out :=
  let c := x.core
  let p := x.packet
  if !s.firewallPass c p then .next (s.logRefusal c .none 0)
  else if p == .gate && (s.core c).wait.isSome && ((s.core c).run == .running || s.settling (s.core c)) then ({ s with turn := c } : State).gateRetry
  else .next s

/-! ### Merged form (20 R353) -/

/-- Siblings of one order that may merge replaced by their parent. -/
def mergeOrder (busy : Node → Bool) (k : Nat) (ns : List Node) : List Node :=
  let joins := fun (n : Node) => n.order == k && !busy n
    && ns.any (fun m => m != n && m.order == k && m.parent == n.parent && !busy m)
  (ns.map (fun n => if joins n then n.parent else n)).foldl (fun t n => if t.contains n then t else t ++ [n]) []

/-- The merged form of nodes: siblings stand as their parent unless a node is busy (R353). -/
def mergeNodes (busy : Node → Bool) (ns : List Node) : List Node :=
  (List.range 9).foldl (fun t k => mergeOrder busy k t) ns

/-- The core of a cluster and a slot. -/
def coreAt (cl slot : Nat) : CoreId := coreOf ((cl / 16 * 2 + slot / 4) * 64 + cl % 16 * 4 + slot % 4)

/-- Whether a core of this package lies in some node of a list. -/
def State.coreIn (s : State) (ns : List Node) (c : CoreId) : Bool := inNodes ns s.pkg.val (clusterOf c)

/-- The cores of a node in rank order (08 R170). -/
def nodeCores (n : Node) : List CoreId :=
  let w := nodeCols n.order
  (List.range (nodeRows n.order * w)).map (fun k =>
    coreOf ((n.origin / 16 * 2 + k / w) * 64 + n.origin % 16 * 4 + k % w))

/-- Launches of a partition in some state. -/
def State.launchesOf (s : State) (part : Nat) (st : LaunchState) : List (Nat × Launch) :=
  s.launches.filter (fun e => e.2.part == part && e.2.state == st)

/-- Whether a running launch of a partition stands on a node. -/
def State.runsOn (s : State) (part : Nat) (n : Node) : Bool :=
  (s.launchesOf part .running).any (fun e => e.2.node.meets n)

/-- A partition's nodes merged as its launches allow: a node on which one runs stands as it is (R353). -/
def State.mergePart (s : State) (part : Nat) : State :=
  s.onPart part (fun p => { p with nodes := mergeNodes (s.runsOn part) p.nodes })

/-- The nodes that cover a set of clusters, in merged form: nodes with a launch stand as they are. -/
def State.nodesFor (s : State) (part : Nat) (p : Part) (pkgs : List Nat) (has : Nat → Nat → Bool) : List Node :=
  let whole := fun (n : Node) => (List.range 512).all (fun c => !n.hasCluster n.pkg c || has n.pkg c)
  let held := p.nodes.filter (fun n => s.runsOn part n && whole n)
  let doms := ((s.launchesOf part .running).map (fun e => e.2.node)).filter (fun d => !held.any (fun n => d.within n) && whole d)
  let keep := held ++ doms
  let cells := (pkgs.map (fun g => (List.range 512).filterMap (fun c =>
    if has g c && !inNodes keep g c then some (Node.mk g 0 c) else none))).flatten
  mergeNodes (fun n => keep.contains n) (keep ++ cells)

/-- The listed cores that belong to a partition. -/
def State.coresOf (s : State) (part : Nat) : List CoreId :=
  s.cores.filterMap (fun e => if e.2.part == some part then some (coreOf e.1) else none)

/-- The cores of a list changed. -/
def State.onCores (s : State) (cs : List CoreId) (f : Core → Core) : State :=
  cs.foldl (fun (t : State) c => t.onCore c f) s

end Sys2Proof.Machine
end

