-- ==== Sys2Proof/Machine/Stops.lean ====
section
/-!
DEFINITION. Faults (19 R338 to R344), and the synchronised stop, resume, slices and migration of a partition (19 R345
to R351, 20 R357, 23 R399).
-/

namespace Sys2Proof.Machine

/-! ### Shares of a whole partition (10 R205, R220, 19 R338) -/

/-- A core's own shares that the governor does not hold: of a halted or dark core, those still out. -/
def Core.circulating (k : Core) : Nat :=
  if k.power.mode == .halted || k.power.mode == .dark then k.power.sentOwn
  else k.power.own - k.power.gov

/-- Shares lent to a core that the governor has taken. -/
def Core.govHeld (k : Core) : Nat := (k.power.inb.map (·.gov)).foldl (· + ·) 0

/-- Shares of the cores that Slate has saved of a partition and whose places others use (10 R201). -/
def State.awayShares (s : State) (part : Nat) (saved : List (CoreId × Core)) : Nat :=
  ((saved.filter (fun e => (s.core e.1).part != some part)).map (fun e => e.2.circulating)).foldl (· + ·) 0

/-- A sum over cores. -/
def State.sumCores (s : State) (cs : List CoreId) (f : Core → Nat) : Nat := (cs.map (fun c => f (s.core c))).foldl (· + ·) 0

/-- The partition of a pool's key, plus one. -/
def keyPart (key : Nat) : Nat := key / 0x800000

/-- Whether an end of a message lies in a partition. -/
def Holder.inPart (cs : List CoreId) (part : Nat) : Holder → Bool
  | .core c => cs.contains c
  | .pool key => keyPart key == part + 1

/-- Amber and the pools without what concerns a partition. -/
def State.withoutLoans (s : State) (cs : List CoreId) (part : Nat) : State :=
  { s with
    amber := s.amber.filter (fun m => !(m.ends.1.inPart cs part || m.ends.2.inPart cs part))
    pools := s.pools.filter (fun e => keyPart e.1 != part + 1) }

/-- A core with no loans and no own shares, gated. -/
def Core.noShares (k : Core) : Core :=
  let mode : PMode := if k.power.mode == .halted || k.power.mode == .dark then k.power.mode else .run
  { k with power := { Power.reset with mode := mode } }

/-- Every loan of a partition dissolved; all its shares pass to the governor, with those that Slate has saved. -/
def State.dissolve (s : State) (cs : List CoreId) (part : Nat) : State :=
  let saved := ((tabFind s.parts part).map (·.saved)).getD []
  let n := s.governor + s.sumCores cs Core.circulating + s.awayShares part saved - s.sumCores cs Core.govHeld
  { (s.withoutLoans cs part).onCores cs Core.noShares with governor := n }

/-- A core that regains all its own shares, with no edge (R220). -/
def Core.regain (k : Core) : Core :=
  { k with power := { k.power with
      mode := if k.power.mode == .halted || k.power.mode == .dark then k.power.mode else .run
      cur := gatedLevel, sentOwn := 0, edge := none, inb := [], gov := min k.power.gov k.arch.sparked, wake := none } }

/-- Every loan of a partition recalled at once: halted cores' shares go to the governor, which repays what it owes
(R220). -/
def State.recallLoans (s : State) (cs : List CoreId) (part : Nat) : State :=
  let back := s.sumCores cs (fun k => if k.power.mode == .halted || k.power.mode == .dark then k.power.sentOwn else 0)
  let owed := s.sumCores cs (fun k => k.govHeld + k.owed)
  { (s.withoutLoans cs part).onCores cs Core.regain with governor := s.governor + back - owed }

/-- The core reset of R27: stores keep their contents, and with them their uncorrectable words. Loans to the core,
and own shares that are still on their way back to the governor, are not the core's to drop. -/
def Core.toReset (k : Core) : Core :=
  { Core.reset k.istore k.arch.spad with
    poison := k.poison
    errs := ⟨k.errs.istore, [], [], []⟩
    part := k.part
    power := { Power.reset with
      inb := k.power.inb, sentOwn := k.power.sentOwn
      mode := if k.power.mode == .dark then .dark else if k.power.sentOwn = 0 then .run else .halted } }

/-! ### FAULT (R338 to R341) -/

/-- An entry disabled, with its packets dropped (23 R397). -/
def StreamEntry.disable (e : StreamEntry) : StreamEntry :=
  { e with words := { e.words with ctl := e.words.ctl &&& ~~~1 }, buf := [] }

/-- A core's engine work and queued commands discarded. -/
def Core.noEngines (k : Core) : Core :=
  { k with
    q2 := [], copy := none, q4 := [], slice := ⟨none, false, false, none⟩, q6 := [], rcmd := none
    entries := k.entries.map StreamEntry.disable, saveBuf := [] }

/-- A core frozen: its uncommitted chunks squashed, its wait withdrawn, its engines idle and its router's packets
dropped; the breakpoints of its launch end (21 R374). A core in reset stays so. -/
def State.freeze (s : State) (c : CoreId) : State :=
  ((s.dropWait c).squashAll c).onCore c (fun k =>
    { k.noEngines with run := if k.run == .inReset then .inReset else .frozen, dbg := { k.dbg with brks := [] } })

/-- The launch that a fault's record names: of a later fault, the one that the first fault's record named (R341). -/
def Part.faultedLaunch (p : Part) (d : Detected) : Nat := if p.faulted then p.faultOf else d.launch.getD 0

/-- A partition's running launches end in a fault. -/
def State.faultLaunches (s : State) (part : Nat) : State :=
  { s with launches := s.launches.map (fun e =>
      if e.2.part == part && e.2.state == .running then (e.1, { e.2 with state := .faulted }) else e) }

/-- A partition stopped by its first fault, in a launch: a stop or a release in progress is abandoned, what Slate has
saved holds neither shares nor engine work any more, and its nodes merge as no launch runs on them (R338, R341, 20
R353). -/
def State.stopForFault (s : State) (part launch : Nat) : State :=
  let cs := s.coresOf part
  let s := cs.foldl (fun (t : State) c => t.freeze c) s
  let s := (s.dissolve cs part).faultLaunches part
  let s : State := { s with
    gone := s.gone.filter (fun o => !cs.contains o.core)
    back := s.back.filter (fun o => !cs.contains o.core) }
  (s.onPart part (fun p => { p with
    faulted := true
    faultOf := launch
    saved := if p.stop == .stopped then p.saved.map (fun e => (e.1, e.2.noEngines.noShares)) else []
    stop := if p.stop == .stopped then .stopped else .none })).mergePart part

/-- A record written to the fault log and sent as a FAULT event. -/
def State.report (s : State) (vf : Fin 16) (d : Detected) (launch : Nat) (sec : Bool) : State :=
  let r := faultRecord d (s.vfs[vf]).nextSeq launch s.pkg.val sec
  (s.logRecord vf r).event vf 0 launch 0 4 r.toNat

/-- FAULT: Slate handles the oldest detection. -/
def execFault (s : State) : Out :=
  match s.pendingFaults with
  | [] => .next s
  | d :: ds =>
    let s : State := { s with pendingFaults := ds }
    match d.part with
    | none => .next (s.logOnly d)
    | some id =>
      match tabFind s.parts id with
      | none => .next (s.logOnly d)
      | some p =>
        let l := p.faultedLaunch d
        if p.faulted then .next (s.report p.vf d l true)
        else .next ((s.stopForFault id l).report p.vf d l false)

/-! ### SCRUB_ERROR (R343) -/

/-- SCRUB_ERROR: the line is uncorrectable from now on; every partition that maps it faults, or Slate logs it. -/
def execScrubError (pa : BitVec 52) (s : State) : Out :=
  let s : State := { s with memPoison := addAll [pa.toNat / 8] s.memPoison }
  let ds := s.lineFaults 0 pa.toNat
  .next (if ds.any (·.part.isNone) then ds.foldl State.logOnly s else { s with pendingFaults := s.pendingFaults ++ ds })

/-! ### WATCHDOG (R344) -/

/-- The watchdog interval of a core's launch in reference cycles. -/
def State.watchdogCycles (s : State) (k : Core) : Option Nat :=
  match k.launch.bind (tabFind s.launches) with
  | some l => if l.state == .running then some (l.interval * 1700) else none
  | none => none

/-- WATCHDOG: no progress for the interval; paused while halted, held by the debugger, or stopped. -/
def execWatchdog (c : CoreId) (s : State) : Out :=
  let k := s.core c
  match s.watchdogCycles k with
  | none => .next s
  | some w =>
    if (k.run == .running || k.run == .held) && !k.dbg.hold && w <= s.time.toNat - k.progress.toNat then
      .next (s.raise c .watchdog .pc (k.arch.pc.setWidth 64) 0)
    else .next s

/-! ### The synchronised stop (R345 to R349) -/

/-- SYNCHRONISED_STOP: Slate requests a stop at a time at least 1,700 cycles ahead. -/
def execSynchronisedStop (part : Nat) (t : Word) (s : State) : Out :=
  match tabFind s.parts part with
  | none => .next s
  | some p =>
    if p.stop != .none || p.faulted || t.toNat < s.time.toNat + 1700 then .next s
    else .next (s.onPart part (fun p => { p with stop := .requested t }))

/-- A meaning's next state; where it has none, the state before. -/
def Out.orElse (s : State) (o : Out) : State :=
  match o with
  | .next t => t
  | _ => s

/-- A remote operation or a request that waits for its reply tried again; the rest of R347's waits end. -/
def State.settleWait (s : State) (c : CoreId) : State :=
  match (s.core c).wait with
  | none => s
  | some w =>
    let at_ : State := { s with turn := c }
    let back := fun (o : Out) => { Out.orElse at_ o with turn := s.turn }
    match w.instr with
    | .sstep | .send _ _ _ _ => s
    | .fetake d a => if w.stage = 3 then back (execFetake d a at_) else s.dropWait c
    | .feput d a b => back (execFeput d a b at_)
    | .fepeek d a b => back (execFepeek d a b at_)
    | .atoml d a b aop ty => back (execAtoml d a b aop ty at_)
    | .gpost _ _ _ | .gtake _ _ _ | .gstat _ _ _ | .gerr _ _ _ | .grearm _ _ _ =>
      if w.stage = 1 then back at_.gateRetry else s.dropWait c
    | _ => s.dropWait c

/-- Whether a core waits for a gate's reply. -/
def Core.atGate (k : Core) : Bool :=
  match k.wait with
  | some ⟨.gpost _ _ _, _, _, _, _⟩ | some ⟨.gtake _ _ _, _, _, _, _⟩ | some ⟨.gstat _ _ _, _, _, _, _⟩
  | some ⟨.gerr _ _ _, _, _, _, _⟩ | some ⟨.grearm _ _ _, _, _, _, _⟩ => true
  | _ => false

/-- Whether an MMA's steps have all retired: only its completion remains. -/
def SliceRun.spent (r : SliceRun) : Bool :=
  r.phase == .running && (match r.cmd.op with
    | .mma _ _ total => total <= r.k
    | .drain _ _ _ => false)

/-- A slice command with steps left put back to the point where it waits for the limiter (16 R326). -/
def SliceRun.pause (r : SliceRun) : SliceRun :=
  match r.phase with
  | .granted | .running => if r.spent then r else { r with phase := .ready }
  | _ => r

/-- Engine work already begun finishes: a running drain, completions that are due (R346 item 4). -/
def State.settleEngines (s : State) (c : CoreId) : State :=
  let s := Out.orElse s (execRtsendCompletion c false s)
  let s := Out.orElse s (execMmaCompletion c false s)
  let s := match (s.core c).slice.cmd with
    | some r => if r.phase == Phase.running && !r.cmd.isMma then Out.orElse s (execMdrainCommand c false s) else s
    | none => s
  s.onCore c (fun k => { k.onRun SliceRun.pause with
    slice := { (k.onRun SliceRun.pause).slice with endedNow := false, filling := false } })

/-- The phases of some cores whose members have all arrived. -/
def State.phasesDone (s : State) (cs : List CoreId) : List (CoreId × Reg8) :=
  (cs.map (fun c => ((List.finRange 8).filter (s.phaseDone c)).map (c, ·))).flatten

/-- Releases of phases whose members had all arrived (item 5). -/
def State.settleLines (s : State) (ps : List (CoreId × Reg8)) : State :=
  ps.foldl (fun (t : State) p => Out.orElse t (execBarrierRelease p.1 p.2 t)) s

/-- Collectives that have left the package and of which some packet has not returned are lost (23 R397). -/
def State.loseOutside (s : State) (cs : List CoreId) : State :=
  let cids := (s.gone.filter (fun o => cs.contains o.core)).map (·.packet.cid)
  let s := cids.foldl (fun (t : State) cid => cs.foldl (fun (u : State) c => u.markLost c cid) t) s
  { s with gone := s.gone.filter (fun o => !cs.contains o.core) }

/-- Whether a core waits for the reply of a remote FEPEEK that no uncommitted instruction precedes. -/
def Core.peeksFirst (k : Core) : Bool :=
  k.chunks.all (·.n = 0) && (match k.wait with
    | some ⟨.fepeek _ _ _, _, _, _, _⟩ => true
    | _ => false)

/-- Item 1 of R346: a core's chunks squashed. Of a core that waits in a FEPEEK nothing is undone where nothing precedes
it: it stays blocked, and completes before the save (R347, log 18). -/
def State.settleSquash (s : State) (c : CoreId) : State :=
  if (s.core c).peeksFirst then s.onCore c Core.endChunk else s.squashAll c

/-- Items 1 and 2 of R346. -/
def State.settleCores (s : State) (part : Nat) : State :=
  let cs := s.coresOf part
  cs.foldl State.settleWait (cs.foldl State.settleSquash s)

/-- Items 3 to 5 of R346. A completion of item 4 completes no phase that item 5 releases. -/
def State.stopCores (s : State) (part : Nat) : State :=
  let cs := s.coresOf part
  let s := s.recallLoans cs part
  let done := s.phasesDone cs
  let s := cs.foldl State.settleEngines s
  let s := s.settleLines done
  -- a completion or a release may have left messages of its own
  let s := (s.loseOutside cs).withoutLoans cs part
  (s.onCores cs (fun k => { k with flushed := false })).onPart part (fun p => { p with stop := .sweeping })

/-- The cores of a partition that wait for a gate's reply at T: their instructions complete before the save (20 R371).
-/
def State.atGates (s : State) (part : Nat) : List CoreId := (s.coresOf part).filter (fun c => (s.core c).atGate)

/-- The wait for gate replies begins: every core stands still, so that no engine starts anything (R345), and what the
cores were doing is noted. -/
def State.beginSettling (s : State) (part : Nat) : State :=
  let cs := s.coresOf part
  (s.onCores cs (fun k => if k.run == .inReset then k else { k with run := .stopped })).onPart part
    (fun p => { p with stop := .settling, saved := cs.map (fun c => (c, s.core c)) })

/-- The wait for gate replies is over. -/
def State.endSettling (s : State) (part : Nat) (p : Part) : State :=
  (p.saved.foldl (fun (t : State) e => t.onCore e.1 (fun k => { k with run := e.2.run })) s).onPart part
    (fun p => { p with saved := [] })

/-- Item 7 and the save: modified lines go home, and Slate holds every core (R348). A write-back that finds an
uncorrectable line abandons the stop before anything is saved (R341, R343). -/
def State.saveCores (s : State) (part : Nat) : State :=
  let cs := s.coresOf part
  let saved := cs.map (fun c => (c, s.core c))
  let s := s.keepLines (fun l => !cs.contains l.core)
  if s.pendingFaults.any (fun d => d.part == some part) then s
  else (s.onCores cs (fun k => if k.run == .inReset then k else { k with run := .stopped })).onPart part
    (fun p => { p with stop := .stopped, saved := saved })

/-- STOP_AT_T: at T the cores stop and their work settles; once the routers are swept, the state is saved. A fault
detected meanwhile is handled first (R341). -/
def execStopAtT (part : Nat) (s : State) : Out :=
  match tabFind s.parts part with
  | none => .next s
  | some p =>
    if s.pendingFaults.any (fun d => d.part == some part) then .next s
    else match p.stop with
      | .requested t =>
        if s.time.toNat < t.toNat then .next s
        else
          let u := s.settleCores part
          .next (if (u.atGates part).isEmpty then u.stopCores part else u.beginSettling part)
      | .settling =>
        if (s.atGates part).isEmpty then .next ((s.endSettling part p).stopCores part) else .next s
      | .sweeping =>
        if (s.coresOf part).all (fun c => (s.core c).flushed) then .next (s.saveCores part) else .next s
      | _ => .next s

/-- The packets of a router in its save buffer, by entry and in arrival order per port (R349). -/
def Core.sweep (k : Core) : Core :=
  { k with
    flushed := true
    saveBuf := k.saveBuf ++ ((List.finRange 64).map (fun e => ((k.entries[e]).buf.map (fun b => (e, b.1, b.2))))).flatten
    entries := k.entries.map (fun e => { e with buf := [] }) }

/-- Whether the partition of a core is being swept. -/
def State.sweeping (s : State) (k : Core) : Bool :=
  match k.part.bind (tabFind s.parts) with
  | some p => p.stop == .sweeping
  | none => false

/-- Packets that a switch has returned to a router and that found no room yet: they arrive ahead of the tokens, and are
swept behind the buffered ones (R349, 23 R397). -/
def State.sweepBack (s : State) (c : CoreId) : State :=
  { s.onCore c (fun k => { k with
      saveBuf := k.saveBuf ++ (s.back.filter (fun o => o.core == c)).map (fun o => (o.entry, o.port, o.packet)) }) with
    back := s.back.filter (fun o => o.core != c) }

/-- FLUSH_TOKEN: the tokens reach a router. -/
def execFlushToken (c : CoreId) (s : State) : Out :=
  let k := s.core c
  if s.sweeping k && !k.flushed then .next ((s.setCore c k.sweep).sweepBack c) else .next s

/-! ### Resume (R350, R351) and slices (20 R357) -/

/-- Partitions that share a node in time with a partition: nodes of two partitions meet only so (20 R352). -/
def State.sharers (s : State) (part : Nat) (p : Part) : List (Nat × Part) :=
  s.parts.filter (fun e => e.1 != part && e.2.nodes.any (fun x => p.nodes.any (fun y => x.meets y)))

/-- Whether the nodes of a partition are free for it: every other sharer is put away, or has nothing running. -/
def State.hasSlice (s : State) (part : Nat) (p : Part) : Bool :=
  (s.sharers part p).all (fun e => e.2.stop == .stopped || (s.launchesOf e.1 .running).isEmpty)

/-- The last to have begun a slice, if one has. -/
def lastBegun : List (Nat × Part) → Option (Nat × Part)
  | [] => none
  | e :: es =>
    match e.2.begun, lastBegun es with
    | none, r => r
    | some _, none => some e
    | some n, some f => if f.2.begun.getD 0 < n then some e else some f

/-- A partition begins its slice now. -/
def Part.beginSlice (p : Part) (s : State) : Part := { p with since := s.time, begun := some s.fresh }

/-- A router's saved packets back in their entries, ahead of later traffic. -/
def Core.reinject (k : Core) : Core :=
  { k.saveBuf.foldl (fun (q : Core) b => q.onEntry b.1 (fun n => n.put b.2.1 b.2.2)) k with saveBuf := [], flushed := false }

/-- A saved core put back: it holds its own shares, no loan, and waits for T2. -/
def Core.putBack (k : Core) : Core :=
  if k.run == .inReset then k else { Core.reinject k.regain with run := .stopped }

/-- A saved core put back where the domain has gone dark: it keeps what a squash would restore, and is lost (10 R222).
-/
def Core.putDark (k : Core) (live : Power) : Core :=
  { k.putBack with run := if k.run == .inReset then .inReset else .frozen, power := { live with own := 0, edge := none } }

/-- One saved core put back. The shares of one whose place has gone dark meanwhile pass to the governor (10 R222). -/
def State.restoreCore (part : Nat) (s : State) (e : CoreId × Core) : State :=
  let live := s.core e.1
  if live.power.mode == .dark then
    { s.setCore e.1 (e.2.putDark live.power) with
      governor := s.governor + (if live.part == some part then 0 else e.2.circulating) }
  else s.setCore e.1 e.2.putBack

/-- Whether no loan is left at the places of saved cores that others have used: what they had lent and what was lent to
them has come back. -/
def State.quiet (s : State) (part : Nat) (saved : List (CoreId × Core)) : Bool :=
  saved.all (fun e => (s.core e.1).part == some part || ((s.core e.1).power.sentOwn = 0 && (s.core e.1).power.inb.isEmpty))

/-- A partition restored, with T2 chosen. -/
def State.restorePart (s : State) (part : Nat) (t2 : Word) (p : Part) : State :=
  let s := p.saved.foldl (State.restoreCore part) s
  s.onPart part (fun p => { p with stop := .resuming t2 })

/-- The saved cores of a partition that a fault has frozen: they stay so (R338). -/
def State.restoreFrozen (s : State) (part : Nat) (p : Part) : State :=
  (p.saved.foldl (fun (t : State) e => t.onCore e.1 (fun live => { e.2 with
      run := if e.2.run == .inReset then .inReset else .frozen
      power := if live.power.mode == .dark then live.power else e.2.power })) s).onPart part
    (fun p => { p with stop := .none, saved := [] })

/-- One core released: its watchdog starts afresh, it asks for its wake, and its wait forms its edge. -/
def State.releaseCore (s : State) (e : CoreId × Core) : State :=
  let t := s.onCore e.1 (fun k => { k with run := if k.power.mode == .dark then k.run else e.2.run, progress := s.time })
  (t.onCore e.1 (fun k => k.raiseWake s.time)).lendStep e.1

/-- RESUME_RELEASE: at T2 every core of the partition runs on. -/
def execResumeRelease (part : Nat) (s : State) : Out :=
  match tabFind s.parts part with
  | none => .next s
  | some p =>
    match p.stop with
    | .resuming t2 =>
      if s.time.toNat < t2.toNat then .next s
      else
        let s := p.saved.foldl State.releaseCore s
        .next (s.onPart part (fun p => Part.beginSlice { p with stop := .none, saved := [] } s))
    | _ => .next s

/-- The least of some numbers. -/
def leastNat : List Nat → Option Nat
  | [] => none
  | x :: xs =>
    match leastNat xs with
    | none => some x
    | some y => some (min x y)

/-- A partition's slice in reference cycles; one that no entry has given a length is 100,000 us (log 17). -/
def Part.sliceCycles (p : Part) : Nat := (leastNat (p.shared.map (·.slice))).getD 100000 * 1700

/-- The end of a partition's slice, if it shares a node, runs and has not been asked to stop. -/
def State.sliceEndAt (s : State) (part : Nat) (p : Part) : Option Nat :=
  if p.stop != .none || p.faulted || (s.sharers part p).isEmpty || (s.launchesOf part .running).isEmpty then none
  else some (p.since.toNat + p.sliceCycles)

/-- Whether Slate asks now for the stop that ends a slice: 1,700 cycles before its end, or as soon after as a turn comes
(19 R345). -/
def State.sliceEnds (s : State) (part : Nat) (p : Part) : Bool :=
  match s.sliceEndAt part p with
  | none => false
  | some t => t <= s.time.toNat + 1700

/-- SLICE_END: a partition that shares nodes is put away by a stop whose T is the end of its slice, and at least 1,700
cycles ahead (19 R345, log 17). -/
def execSliceEnd (part : Nat) (s : State) : Out :=
  match tabFind s.parts part with
  | none => .next s
  | some p =>
    match s.sliceEndAt part p with
    | none => .next s
    | some t =>
      if s.sliceEnds part p then .next (s.onPart part (fun p => { p with stop := .requested (BitVec.ofNat 64 (max t (s.time.toNat + 1700))) }))
      else .next s

/-! ### Migration (23 R399) -/

/-- Where a core of a node goes: the same position within another node of the same shape. -/
def moveCore (moves : List (Node × Node)) (c : CoreId) : CoreId :=
  match moves.find? (fun e => e.1.hasCluster e.1.pkg (clusterOf c)) with
  | none => c
  | some (a, b) =>
    coreOf ((CoreId.row c - a.origin / 16 * 2 + b.origin / 16 * 2) * 64 + (CoreId.col c - a.origin % 16 * 4 + b.origin % 16 * 4))

/-- A core's state moved: what names cores by their place in the partition follows it. -/
def Core.moved (f : CoreId → CoreId) (k : Core) : Core :=
  { k with
    plan := k.plan.map (fun e => { e with dst := f e.dst })
    slice := { k.slice with cmd := k.slice.cmd.map (fun r => { r with gang := r.gang.map f }) } }

/-- A node moved with the node that holds it. -/
def moveNode (moves : List (Node × Node)) (n : Node) : Node :=
  match moves.find? (fun e => n.within e.1) with
  | none => n
  | some (a, b) =>
    { n with
      pkg := b.pkg
      origin := (n.origin / 16 - a.origin / 16 + b.origin / 16) * 16 + (n.origin % 16 - a.origin % 16 + b.origin % 16) }

/-- Whether a partition holds a cluster once a migration has moved its nodes: where the cluster's source is still one
of its own, or it is one of its own that does not move. -/
def Part.movedHas (p : Part) (g c : Nat) : Bool :=
  p.dest.any (fun e => e.2.hasCluster g c && inNodes p.nodes e.1.pkg
    ((c / 16 - e.2.origin / 16 + e.1.origin / 16) * 16 + (c % 16 - e.2.origin % 16 + e.1.origin % 16)))
  || (inNodes p.nodes g c && !p.dest.any (fun e => e.1.hasCluster g c))

/-- The nodes that a partition holds or is about to hold. -/
def Part.allNodes (p : Part) : List Node := p.nodes ++ p.dest.map (·.2)

/-- Cores that join a partition's nodes, reset. The places of cores that Slate has saved of it wait for their resume. -/
def State.joinNodes (s : State) (part : Nat) (nodes : List Node) : State :=
  let saved := ((tabFind s.parts part).map (·.saved)).getD []
  let cs := (s.cores.filterMap (fun e =>
    if e.2.part.isNone && !saved.any (·.1.val == e.1) then some (coreOf e.1) else none)).filter (s.coreIn nodes)
  s.onCores cs (fun k => { k.toReset with part := some part })

/-- Whether a migration may begin: the partition is put away, and the destination has the same shapes, lies on this
package, is disjoint, and meets no other partition's nodes, nor the destination of one that migrates. -/
def State.mayMigrate (s : State) (part : Nat) (p : Part) (dst : List Node) : Bool :=
  p.stop == .stopped && !p.migrating && !p.faulted
  && dst.map (·.order) == p.nodes.map (·.order)
  && dst.all (fun n => n.ok && n.pkg == s.pkg.val)
  && (List.range dst.length).all (fun i => (List.range i).all (fun j =>
      match dst[i]?, dst[j]? with
      | some a, some b => !a.meets b
      | _, _ => true))
  && s.parts.all (fun e => e.1 == part || e.2.allNodes.all (fun n => dst.all (fun m => !m.meets n)))

/-- Whether a gate lists a partition. -/
def Gate.lists (g : Gate) (part : Nat) : Bool := (g.slotFor part).isSome

/-- MIGRATION: every gate that lists the partition enters MIGRATING; the saved state moves until CUTOVER. -/
def execMigration (part : Nat) (dst : List Node) (s : State) : Out :=
  match tabFind s.parts part with
  | none => .next s
  | some p =>
    if !s.mayMigrate part p dst then .next s
    else
      let gates := s.gates.map (fun e =>
        if e.2.lists part && (e.2.state == .run || e.2.state == .error) then
          (e.1, { e.2 with prior := e.2.state, state := .migrating })
        else e)
      let s := s.onPart part (fun p => { p with
        migrating := true, dest := p.nodes.zip dst })
      .next { s with gates := gates }

/-- The saved cores of a migrating partition at the places to which they move. -/
def Part.movedSaved (p : Part) : List (CoreId × Core) :=
  p.saved.map (fun e => (moveCore p.dest e.1, e.2.moved (moveCore p.dest)))

/-- CUTOVER: the gates return to their prior state, and the partition resumes on its new nodes, in merged form (20
R353); one that a reset has emptied meanwhile has cores in reset there. -/
def execCutover (part : Nat) (s : State) : Out :=
  match tabFind s.parts part with
  | none => .next s
  | some p =>
    if !p.migrating || !s.quiet part p.movedSaved then .next s
    else
      let gates := s.gates.map (fun e =>
        if e.2.lists part && e.2.state == .migrating then (e.1, { e.2 with state := e.2.prior }) else e)
      let launches := s.launches.map (fun e =>
        if e.2.part == part then (e.1, { e.2 with node := moveNode p.dest e.2.node }) else e)
      let s := s.onCores (s.coresOf part) (fun k => { k.noShares.toReset with part := none })
      let s : State := { s with gates := gates, launches := launches }
      let nodes := s.nodesFor part { p with nodes := p.dest.map (·.2) ++ p.nodes } (s.domain.map (·.val)) p.movedHas
      let s := s.onPart part (fun p => { p with
        migrating := false, nodes := nodes, dest := [], saved := p.movedSaved
        shared := p.shared.map (fun x => { x with node := moveNode p.dest x.node }) })
      let s := s.joinNodes part nodes
      match tabFind s.parts part with
      | none => .next s
      | some p =>
        .next (if p.stop != .stopped then s else if p.faulted then s.restoreFrozen part p else s.restorePart part s.time p)

end Sys2Proof.Machine
end

