-- ==== Sys2Proof/Machine/Tenancy.lean ====
section
/-!
DEFINITION. Partitions and virtual functions: RESIZE, reconfiguration commands, resets, and the settings that the
hypervisor writes through Slate (20 R352 to R359, R364, 10 R205, 04 R88, 12 R233, 16 R324).
-/

namespace Sys2Proof.Machine

/-! ### A partition's cores put into the state of R27 -/

/-- Cores reset. -/
def State.resetCores (s : State) (cs : List CoreId) : State :=
  { s.onCores cs Core.toReset with
    stash := s.stash.filter (fun l => !cs.contains l.core)
    gone := s.gone.filter (fun o => !cs.contains o.core)
    back := s.back.filter (fun o => !cs.contains o.core) }

/-- A partition reset: RESETPART, or a reset of its function. Launches that were on its cores are gone; accepted ones
that have not started stay. -/
def State.resetPart (s : State) (part : Nat) : State :=
  let cs := s.coresOf part
  let s := ((cs.foldl State.dropWait s).dissolve cs part).resetCores cs
  let s : State := { s with
    launches := s.launches.filter (fun e => !(e.2.part == part && e.2.state != .waiting))
    pendingFaults := s.pendingFaults.filter (fun d => d.part != some part) }
  let s := s.onPart part (fun p => { p with faulted := false, wasReset := true, stop := .none, saved := [] })
  (s.joinNodes part (((tabFind s.parts part).map (·.nodes)).getD [])).mergePart part

/-! ### VF_ENABLE and VF_RESET (R364, 24 R409) -/

/-- Whether the table in force gives some Slate core the role of a function's front end (24 R406): roles 0 to 15 are
the functions' front ends, 16 monitor, 17 management, 18 boot (log 22). A machine that no table describes has one for
each. -/
def Boot.hasFrontEnd (b : Boot) (vf : Fin 16) : Bool :=
  match b.table with
  | none => true
  | some t => t.roles.any (fun r => r.2 == vf.val)

/-- VF_ENABLE: a policy version that has been loaded; the incarnation is 1 from the first enabling on. -/
def execVfEnable (vf : Fin 16) (policy : Nat) (s : State) : Out :=
  let v := s.vfs[vf]
  if v.enabled || !s.boot.done || !s.boot.policies.contains policy || !s.boot.hasFrontEnd vf then .next s
  else .next (s.onVf vf (fun v => { v with enabled := true, policy := policy, inc := if v.inc = 0 then 1 else v.inc }))

/-- The newest policy image. -/
def Boot.newestPolicy (b : Boot) : Nat := b.policies.foldl max 0

/-- VF_RESET. -/
def execVfReset (vf : Fin 16) (s : State) : Out :=
  if !(s.vfs[vf]).enabled then .next s
  else
    let ps := (s.parts.filter (fun e => e.2.vf == vf)).map (·.1)
    let s := ps.foldl State.resetPart s
    .next (s.onVf vf (fun v => { v with inc := v.inc + 1, policy := s.boot.newestPolicy }))

/-! ### Changing nodes (R353, R354) -/

/-- Everything lent to a core goes back to its lenders; shares that it has sent on and that are not back yet follow as
they come. -/
def State.returnLoans (s : State) (c : CoreId) : State :=
  let k := s.core c
  let s1 := s.onInb c (fun cs => (cs.filter (·.sent != 0)).map (fun b => { b with here := 0, gov := 0, due := b.sent, live := false }))
  { s1 with
    governor := s.governor - k.govHeld
    amber := s.amber ++ k.power.inb.map (fun b => .ret (.core c) b.sender b.origin b.hop (b.here + b.gov)) }

/-- Cores that leave a partition's nodes, reset and unassigned. -/
def State.leaveNodes (s : State) (part : Nat) (nodes : List Node) : State :=
  let cs := (s.coresOf part).filter (fun c => !s.coreIn nodes c)
  ((cs.foldl State.returnLoans s).resetCores cs).onCores cs (fun k => { k with part := none })

/-- A partition's nodes replaced. -/
def State.setNodes (s : State) (part : Nat) (nodes : List Node) : State :=
  ((s.leaveNodes part nodes).joinNodes part nodes).onPart part (fun p => { p with nodes := nodes })

/-- RESIZE: the event reaches the partition's scheduler, behind those it has not yet applied. One that would leave no
cluster names no partition (R352, log 17). -/
def execResize (part : Nat) (masks : List (Nat × BitVec 512)) (s : State) : Out :=
  if !masks.all (fun m => s.domain.any (fun g => g.val == m.1)) || masks.all (fun m => m.2 == 0) then .next s
  else .next (s.onPart part (fun p => { p with resize := p.resize ++ [masks] }))

/-- Whether masks hold a cluster. -/
def maskHas (masks : List (Nat × BitVec 512)) (g c : Nat) : Bool := masks.any (fun m => m.1 == g && m.2.getLsbD c)

/-- The clusters that a resize changes, by package. -/
def State.resizeChanges (s : State) (p : Part) (masks : List (Nat × BitVec 512)) : List (Nat × Nat) :=
  (s.domain.map (fun g => (List.range 512).filterMap (fun c =>
    if maskHas masks g.val c != inNodes p.nodes g.val c then some (g.val, c) else none))).flatten

/-- The RESIZED events of one package: two halves of its mask (24 R402). -/
def State.resized (s : State) (vf : Fin 16) (m : Nat × BitVec 512) : State :=
  (s.event vf 0 0 m.1 7 (m.2.extractLsb' 0 256).toNat).event vf 0 0 (128 + m.1) 7 (m.2.extractLsb' 256 256).toNat

/-- RESIZE_APPLY: the oldest event at the first moment when no launch of the partition runs on a cluster that changes;
a cluster that another partition holds, or a migration, must be waited for (log 17). A partition that is put away keeps
what Slate saved of the cores that stay. -/
def execResizeApply (part : Nat) (s : State) : Out :=
  match tabFind s.parts part with
  | none => .next s
  | some p =>
    match p.resize with
    | [] => .next s
    | ms :: rest =>
      let ch := s.resizeChanges p ms
      let busy := (s.launchesOf part .running).any (fun e => ch.any (fun x => e.2.node.hasCluster x.1 x.2))
      let owned := s.parts.any (fun e => e.1 != part && ch.any (fun x => maskHas ms x.1 x.2 && inNodes e.2.allNodes x.1 x.2))
      if busy || owned || p.migrating then .next s
      else
        let nodes := s.nodesFor part p (s.domain.map (·.val)) (maskHas ms)
        let t := (s.setNodes part nodes).onPart part (fun p => { p with
          resize := rest
          saved := p.saved.filter (fun e => s.coreIn nodes e.1) })
        .next (ms.foldl (fun (u : State) m => u.resized p.vf m) t)

/-! ### Reconfiguration commands (R355) -/

/-- A partition that Slate forms: log 17 names what no rule states. -/
def Part.fresh (vf : Fin 16) : Part where
  vf := vf
  nodes := []
  shared := []
  root := 0
  allot := none
  loadBase := 0
  loadSize := 0
  faulted := false
  faultOf := 0
  wasReset := false
  migrating := false
  stop := .none
  since := 0
  begun := none
  saved := []
  resize := []
  dest := []
  attached := false

/-- Whether a partition holds every cluster of a node. -/
def Part.holds (p : Part) (n : Node) : Bool :=
  (List.range 512).all (fun c => !n.hasCluster n.pkg c || inNodes p.nodes n.pkg c)

/-- The function of an entry. -/
def entryVf (e : ReconfEntry) : Fin 16 := ⟨e.vf % 16, Nat.mod_lt _ (by decide)⟩

/-- The reason for which an entry fails, in the order of the reasons' codes (log 17). An entry with a reserved op names
no operation, so the reasons of one do not apply to it. -/
def State.reconfReason (s : State) (parts : Tab Part) (op : ReOp) (e : ReconfEntry) : Option Nat :=
  let p := tabFind parts e.part
  let holds := match p with
    | none => false
    | some p => p.holds e.node
  let badArg := (match op with
    | .slice => e.arg < 100 || e.arg > 100000
    | _ => e.arg != 0) || !e.resOk
  let wrongVf := !(s.vfs[entryVf e]).enabled || e.vf > 15 || (match p with
    | none => false
    | some p => p.vf != entryVf e)
  if !e.node.ok || !s.domain.any (fun g => g.val == e.node.pkg) then some 1
  else if !e.opOk then (if wrongVf then some 5 else if !e.resOk then some 6 else some 7)
  else if op == .add && parts.any (fun q => q.1 != e.part && q.2.allNodes.any (fun n => n.meets e.node)) then some 2
  else if (op == .remove || op == .unshare || op == .slice) && !holds then some 3
  else if (op == .remove || op == .unshare) && s.runsOn e.part e.node then some 4
  else if wrongVf then some 5
  else if badArg then some 6
  else none

/-- A partition after an entry that passes. A new sharer's slice is 100,000 us until SLICE sets it, and one that runs by
its launch alone is in its slice from its first SHARE on; UNSHARE takes the node from the partition as REMOVE does (log
17). -/
def State.reconfPart (s : State) (op : ReOp) (e : ReconfEntry) (p : Part) : Part :=
  let pkgs := s.domain.map (·.val)
  let n := e.node
  match op with
  | .add => { p with nodes := s.nodesFor e.part p pkgs (fun g c => inNodes p.nodes g c || n.hasCluster g c) }
  | .remove | .unshare =>
    { p with
      nodes := s.nodesFor e.part p pkgs (fun g c => inNodes p.nodes g c && !n.hasCluster g c)
      shared := p.shared.filter (fun x => !x.node.meets n) }
  | .share =>
    { p with
      nodes := s.nodesFor e.part p pkgs (fun g c => inNodes p.nodes g c || n.hasCluster g c)
      shared := if p.shared.any (fun x => x.node == n) then p.shared else p.shared ++ [⟨n, 100000⟩]
      since := if p.shared.isEmpty then s.time else p.since }
  | .slice => { p with shared := p.shared.filter (fun x => x.node != n) ++ [⟨n, e.arg⟩] }

/-- The partitions after an entry: one left without nodes is no partition. -/
def State.reconfApply (s : State) (parts : Tab Part) (op : ReOp) (e : ReconfEntry) : Tab Part :=
  let p := s.reconfPart op e ((tabFind parts e.part).getD (Part.fresh (entryVf e)))
  if p.nodes.isEmpty then tabDel parts e.part else tabPut parts e.part p

/-- The nodes and sharing of a finished command take effect. -/
def State.commitParts (s : State) (parts : Tab Part) : State :=
  let s := s.parts.foldl (fun (t : State) e =>
    if (tabFind parts e.1).isSome then t else { t.leaveNodes e.1 [] with parts := tabDel t.parts e.1 }) s
  parts.foldl (fun (t : State) e =>
    match tabFind t.parts e.1 with
    | none => { t with parts := tabPut t.parts e.1 { e.2 with nodes := [] } }.setNodes e.1 e.2.nodes
    | some _ => (t.setNodes e.1 e.2.nodes).onPart e.1 (fun p => { p with
        shared := e.2.shared, since := e.2.since, saved := p.saved.filter (fun x => s.coreIn e.2.nodes x.1) })) s

/-- The entries of a command checked in order, each against what the entries before it would leave: the partitions then,
or the first failure as (index, reason). -/
def State.reconfRun (s : State) (i : Nat) (parts : Tab Part) : Reconf → Except (Nat × Nat) (Tab Part)
  | [] => .ok parts
  | (op, e) :: es =>
    match s.reconfReason parts op e with
    | some x => .error (i, x)
    | none => s.reconfRun (i + 1) (s.reconfApply parts op e) es

/-- One entry of a command; the last one has the whole command checked and carried out as the machine stands then. An
entry beyond the 64th, or outside a command, is none. -/
def State.reconfigure (s : State) (op : ReOp) (e : ReconfEntry) : Out :=
  match (if e.first then some [] else s.reconf) with
  | none => .next s
  | some r =>
    if r.length >= 64 then .next s
    else if !e.last then .next { s with reconf := some (r ++ [(op, e)]) }
    else
      match s.reconfRun 0 s.parts (r ++ [(op, e)]) with
      | .error f => .next { s with reconf := none, reply := some f }
      | .ok parts => .next ({ s with reconf := none, reply := none }.commitParts parts)

/-- RECONFIGURE_ADD. -/
def execReconfigureAdd (e : ReconfEntry) (s : State) : Out := s.reconfigure .add e
/-- RECONFIGURE_REMOVE. -/
def execReconfigureRemove (e : ReconfEntry) (s : State) : Out := s.reconfigure .remove e
/-- RECONFIGURE_SHARE. -/
def execReconfigureShare (e : ReconfEntry) (s : State) : Out := s.reconfigure .share e
/-- RECONFIGURE_UNSHARE. -/
def execReconfigureUnshare (e : ReconfEntry) (s : State) : Out := s.reconfigure .unshare e
/-- RECONFIGURE_SLICE. -/
def execReconfigureSlice (e : ReconfEntry) (s : State) : Out := s.reconfigure .slice e

/-! ### ALLOTMENT_WRITE and SLATE_SETTING -/

/-- Cores of some nodes. -/
def nodesSize (ns : List Node) : Nat := (ns.map (fun n => 8 * 2 ^ n.order)).foldl (· + ·) 0

/-- A: the share allotment of a partition (10 R205). -/
def Part.allotment (p : Part) : Nat := p.allot.getD (10 * nodesSize p.nodes)

/-- The sum of the other partitions' allotments. -/
def State.otherAllotments (s : State) (part : Nat) : Nat :=
  ((s.parts.filter (fun e => e.1 != part)).map (fun e => e.2.allotment)).foldl (· + ·) 0

/-- Whether some function has a token account. -/
def State.budgeted (s : State) : Bool :=
  (List.finRange 16).any (fun v => (List.finRange 5).any (fun r => ((s.vfs[v]).tokens[r]).allot.isSome))

/-- ALLOTMENT_WRITE: Slate refuses a sum of share allotments above the pool less the governor's reserve. -/
def execAllotmentWrite (w : AllotWrite) (s : State) : Out :=
  match w with
  | .shares part a =>
    if s.otherAllotments part + a > 65536 - s.reserve then .next s
    else .next (s.onPart part (fun p => { p with allot := some a }))
  | .tokens vf res n =>
    let s : State := if s.budgeted then s else { s with tokensAt := s.time.toNat / 17000 }
    .next (s.onVf vf (fun v =>
      let t := v.tokens[res]
      { v with tokens := v.tokens.set res { t with allot := some n, left := if t.allot.isNone then n else t.left } }))

/-- SLATE_SETTING: a load area, a way mask, a ramp table with entries of 8 to 72, or the debugger's attachment. -/
def execSlateSetting (w : SlateWrite) (s : State) : Out :=
  match w with
  | .loadArea part base size => .next (s.onPart part (fun p => { p with loadBase := base, loadSize := size }))
  | .wayMask vf mask => .next (s.onVf vf (fun v => { v with wayMask := mask }))
  | .ramp up down =>
    if up.toList.all (fun x => 8 <= x.val) && down.toList.all (fun x => 8 <= x.val) then
      .next { s with rampUp := up, rampDown := down }
    else .next s
  | .firewall core w => .next { s with firewall := tabPut s.firewall core w }
  | .attach part on =>
    .next ((if on then s else s.dropSlew (s.coresOf part)).onPart part (fun p => { p with attached := on }))

end Sys2Proof.Machine
end

