-- ==== Sys2Proof/Machine/Loader.lean ====
section
/-!
DEFINITION. The loader (04 R76 to R89): it reads a Morup object, chooses a variant, places data sections, applies
relocations, and yields what a launch writes into its cores, or the code of the load failure.
-/

namespace Sys2Proof.Machine

/-! ### Reading an object -/

/-- A little-endian number. -/
def leNat : List Byte → Nat
  | [] => 0
  | b :: bs => b.toNat + 256 * leNat bs

/-- n bytes of an object at a file offset. -/
def objBytes (o : List Byte) (off n : Nat) : List Byte := (o.drop off).take n

/-- They as a number. -/
def objNat (o : List Byte) (off n : Nat) : Nat := leNat (objBytes o off n)

/-- Bytes replaced at an offset. -/
def patchBytes (l : List Byte) (off : Nat) (bs : List Byte) : List Byte := l.take off ++ bs ++ l.drop (off + bs.length)

/-- Codes of load failures (R89). -/
inductive LoadFail where
  | badMagic | badVersion | noVariant | reloc | layout | trSpace | badKpf
  deriving DecidableEq, Repr

/-- Their numbers. -/
def LoadFail.code : LoadFail → Nat
  | .badMagic => 1 | .badVersion => 2 | .noVariant => 3 | .reloc => 4 | .layout => 5 | .trSpace => 6 | .badKpf => 7

/-- A check that fails a load. -/
def check (ok : Bool) (f : LoadFail) : Except LoadFail Unit := if ok then .ok () else .error f

/-- Section kinds in use (R77). -/
inductive SecKind where
  | text | data | spad | xplan | kpf | line
  deriving DecidableEq, Repr

/-- The kind of a code. -/
def secKind (n : Nat) : Option SecKind := [SecKind.text, .data, .spad, .xplan, .kpf, .line][n]?

/-- A section's table entry (R77). -/
structure Sec where
  kind : Nat
  align : Nat
  var : Nat
  size : Nat
  offset : Nat
  addr : Nat
  reloff : Nat
  nrel : Nat
  resOk : Bool
  deriving DecidableEq, Repr

/-- A variant's table entry (R83). -/
structure Variant where
  kind : Nat
  level : Nat
  sec0 : Nat
  nsec : Nat
  features : Nat
  tbase : Nat
  tsize : Nat
  resOk : Bool
  deriving DecidableEq, Repr

/-- A kernel's table entry (R81). Nothing checks a launch against `grid` and `args` (log 19). -/
structure Kernel where
  name : Nat
  grid : Nat × Nat × Nat
  stash : Nat
  nring : Nat
  share : Nat
  xplan : Nat
  args : Nat
  ringoff : Nat
  resOk : Bool
  deriving DecidableEq, Repr

/-- A symbol (R78). -/
structure Sym where
  name : Nat
  value : Nat
  sec : Nat
  bind : Nat
  type : Nat
  deriving DecidableEq, Repr

/-- A relocation (R79). -/
structure Reloc where
  offset : Nat
  sym : Nat
  addend : Int
  type : Nat
  resOk : Bool
  deriving DecidableEq, Repr

/-- Entry i of a table of 32-byte sections. -/
def readSec (o : List Byte) (at_ : Nat) : Sec :=
  let w := objNat o at_ 32
  ⟨bits w 32 8, bits w 48 8, bits w 56 8, bits w 64 32, bits w 96 32, bits w 128 32, bits w 160 32, bits w 192 32,
    bits w 40 8 == 0 && bits w 224 32 == 0⟩

/-- A variant. -/
def readVariant (o : List Byte) (at_ : Nat) : Variant :=
  let w := objNat o at_ 32
  ⟨bits w 0 8, bits w 16 16, bits w 32 16, bits w 48 16, bits w 64 128, bits w 192 32, bits w 224 32,
    bits w 8 8 == 0⟩

/-- A kernel descriptor. -/
def readKernel (o : List Byte) (at_ : Nat) : Kernel :=
  let w := objNat o at_ 32
  ⟨bits w 0 32, (bits w 32 16, bits w 48 16, bits w 64 16), bits w 80 8, bits w 88 8, bits w 96 16, bits w 112 16,
    bits w 128 32, bits w 160 32, bits w 192 64 == 0⟩

/-- A symbol. -/
def readSym (o : List Byte) (at_ : Nat) : Sym :=
  let w := objNat o at_ 16
  ⟨bits w 0 32, bits w 32 32, bits w 64 16, bits w 80 8, bits w 88 8⟩

/-- A relocation. -/
def readReloc (o : List Byte) (at_ : Nat) : Reloc :=
  let w := objNat o at_ 16
  ⟨bits w 0 32, bits w 32 32, signed 32 (bits w 64 32), bits w 96 8, bits w 104 24 == 0⟩

/-- The tables of an object (R76). -/
structure Obj where
  bytes : List Byte
  strtab : Nat
  strsize : Nat
  features : Nat
  secs : List Sec
  vars : List Variant
  kernels : List Kernel
  syms : List Sym
  deriving DecidableEq, Repr

/-- A table of n entries. -/
def readTable {α : Type} (f : List Byte → Nat → α) (o : List Byte) (at_ size n : Nat) : List α :=
  (List.range n).map (fun i => f o (at_ + i * size))

/-- Whether a range lies inside the file. -/
def inside (o : List Byte) (at_ n : Nat) : Bool := at_ + n <= o.length

/-- The relocations of a section. -/
def Sec.relocs (o : List Byte) (x : Sec) : List Reloc := readTable readReloc o x.reloff 16 x.nrel

/-- Whether a section belongs to exactly one variant, the one it names (R77). -/
def ownVariant (vars : List Variant) (i : Nat) (x : Sec) : Bool :=
  (List.range vars.length).filter (fun j => match vars[j]? with
    | some v => v.sec0 <= i && i < v.sec0 + v.nsec
    | none => false) == [x.var]

/-- Whether a section's entry holds what R77 gives it: a kind of the table, an alignment, and the address 0 where the
table gives it. -/
def Sec.ok (x : Sec) : Bool :=
  x.align <= 20 && match secKind x.kind with
    | none => false
    | some .spad | some .kpf => true
    | some .text | some .data | some .xplan => x.addr == 0
    | some .line => x.addr == 0 && x.size % 16 == 0

/-- Whether a variant's entry holds what R77 and R83 give it: its sections are in the table, its level is not 0, and a
native variant has one text section of at most 64 KiB.
DESIGN CHOICE (log 19): the scratch area that a native variant names is not looked at. -/
def Variant.ok (secs : List Sec) (v : Variant) : Bool :=
  let own := (secs.drop v.sec0).take v.nsec
  v.sec0 + v.nsec <= secs.length && v.level != 0
  && (v.kind != 0 || (match own.filter (fun x => secKind x.kind == some .text) with
    | [x] => x.size <= 0x10000
    | _ => false))

/-- An object read and checked as far as no variant is chosen. DEDUCED (log 19), for R89 names no code: a version of 0
and a symbol type, a binding or a variant kind that version 1 reserves are versions the loader does not know; a file
with the magic but no whole header fails BADMAGIC; a count outside its range and a level of 0 fail LAYOUT. A reserved
relocation type fails where it is applied (`patchOne`).
DESIGN CHOICE (log 19): a header whose level or features are not those its variants give is loaded all the same. -/
def readObj (o : List Byte) : Except LoadFail Obj := do
  let h := objNat o 0 64
  check (bits h 0 32 == 0x00464F4D && 64 <= o.length) .badMagic
  check (bits h 32 16 == 1) .badVersion
  let nsec := bits h 192 32
  let sectab := bits h 224 32
  let nsym := bits h 256 32
  let symtab := bits h 288 32
  let nker := bits h 384 32
  let kertab := bits h 416 32
  let nvar := bits h 448 32
  let vartab := bits h 480 32
  check (1 <= nsec && nsec <= 65534 && 1 <= nvar && nvar <= 255 && nker <= 65535
    && inside o sectab (32 * nsec) && inside o symtab (16 * nsym) && inside o (bits h 320 32) (bits h 352 32)
    && inside o kertab (32 * nker) && inside o vartab (32 * nvar)) .layout
  let secs := readTable readSec o sectab 32 nsec
  let vars := readTable readVariant o vartab 32 nvar
  let kers := readTable readKernel o kertab 32 nker
  let syms := readTable readSym o symtab 16 nsym
  check (secs.all (fun x => (x.offset == 0 || inside o x.offset x.size) && inside o x.reloff (16 * x.nrel))
    && kers.all (fun k => inside o k.ringoff (16 * k.nring))) .layout
  check (secs.all (·.resOk) && vars.all (·.resOk) && kers.all (·.resOk)
    && secs.all (fun x => (x.relocs o).all (·.resOk))
    && vars.all (fun v => v.kind <= 1) && syms.all (fun y => y.type <= 2 && y.bind <= 1)) .badVersion
  check (secs.all Sec.ok && vars.all (Variant.ok secs)
    && (List.range nsec).all (fun i => match secs[i]? with
      | some x => ownVariant vars i x
      | none => true)) .layout
  pure ⟨o, bits h 320 32, bits h 352 32, bits h 64 128, secs, vars, kers, syms⟩

/-- The string at an offset of the string table, without its zero byte. DESIGN CHOICE (log 19): a name at or beyond the
end of the table is empty, and one without a zero byte ends with the table (R76, R81 give no outcome). -/
def Obj.str (b : Obj) (off : Nat) : List Byte :=
  (objBytes b.bytes (b.strtab + off) (b.strsize - off)).takeWhile (fun c => c != 0)

/-- The body of a section; one with offset 0 is zeros. -/
def Obj.body (b : Obj) (x : Sec) : List Byte :=
  if x.offset = 0 then List.replicate x.size 0 else objBytes b.bytes x.offset x.size

/-! ### Choosing a variant (R87) -/

/-- The device's feature mask (R91). -/
def featMask : Nat := 0x1FF

/-- Whether all features of a set are the device's. -/
def hasFeatures (f : Nat) : Bool := f &&& featMask == f

/-- The native variant of the highest level at most 1, the lower index among equals. -/
def bestNative : List Variant → Option Variant
  | [] => none
  | v :: vs =>
    let r := bestNative vs
    if v.kind == 0 && v.level <= 1 && hasFeatures v.features then
      match r with
      | none => some v
      | some u => if v.level < u.level then some u else some v
    else r

/-- The chosen variant. -/
def Obj.choose (b : Obj) : Except LoadFail Variant :=
  if !hasFeatures b.features then .error .noVariant
  else match bestNative b.vars with
    | some v => .ok v
    | none =>
      match b.vars.find? (fun v => v.kind == 1 && v.level <= 1 && hasFeatures v.features) with
      | some v => .ok v
      | none => .error .noVariant

/-- A variant's sections with their numbers. -/
def Obj.secsOf (b : Obj) (v : Variant) : List (Nat × Sec) :=
  (List.range v.nsec).filterMap (fun i => (b.secs[v.sec0 + i]?).map (fun x => (v.sec0 + i, x)))

/-- Its sections of a kind. -/
def Obj.ofKind (b : Obj) (v : Variant) (k : SecKind) : List (Nat × Sec) :=
  (b.secsOf v).filter (fun x => secKind x.2.kind == some k)

/-! ### Placing data sections (R88) -/

/-- An offset raised to a multiple. -/
def alignUp (n a : Nat) : Nat := (n + a - 1) / a * a

/-- The lowest free offset for n bytes of an alignment, given the places in use. -/
def place (used : List (Nat × Nat)) (size n a : Nat) : Option Nat :=
  leastNat ((0 :: used.map (fun u => alignUp (u.1 + u.2) a)).filter (fun x =>
    x + n <= size && !used.any (fun u => x < u.1 + u.2 && u.1 < x + n)))

/-- Places for sections in order, by section number; none where one does not fit. -/
def placeAll (size : Nat) : List (Nat × Nat) → List (Nat × Sec) → Option (List (Nat × Nat × Nat))
  | _, [] => some []
  | used, (i, x) :: xs =>
    match place used size x.size (2 ^ x.align) with
    | none => none
    | some off => (placeAll size (used ++ [(off, x.size)]) xs).map (fun r => (i, off, x.size) :: r)

/-! ### Relocations (R79) -/

/-- The extension of an immediate (R59): `advance` is RINGADV's, whose four count bits are not 0 (16 R322). -/
inductive Ext where
  | signed | either | unsigned (lo hi : Int) | advance
  deriving DecidableEq, Repr

/-- The place, width and extension of an instruction's immediate field in the base word. -/
def immField (page op : Nat) : Option (Nat × Nat × Ext) :=
  match page, op with
  | 0, 5 | 0, 12 | 0, 25 => some (0, 5, .signed)
  | 0, 6 | 0, 7 | 0, 8 => some (0, 5, .either)
  | 0, 9 | 0, 10 | 0, 11 => some (0, 5, .unsigned 0 63)
  | 0, 13 => some (0, 8, .signed)
  | 0, 14 | 0, 15 | 0, 16 => some (2, 3, .either)
  | 0, 17 | 0, 18 | 0, 19 | 0, 20 => some (0, 8, .signed)
  | 0, 21 | 0, 22 => some (0, 11, .signed)
  | 1, 11 => some (7, 3, .unsigned 0 (2 ^ 30 - 1))
  | 3, 0 | 3, 1 | 3, 6 | 3, 7 => some (2, 3, .either)
  | 3, 14 => some (0, 5, .unsigned 1 15)
  | 4, 5 => some (0, 5, .unsigned 0 3)
  | 6, 13 => some (0, 5, .advance)
  | 6, 0 | 6, 1 => some (2, 3, .either)
  | 6, 14 => some (0, 0, .unsigned 1 256)
  | _, _ => none

/-- Whether a value fits an immediate of n bits with k IMM prefixes. -/
def Ext.fits (e : Ext) (n k : Nat) (v : Int) : Bool :=
  match e with
  | .signed => fitsS n v
  | .either => if k = 0 then 0 <= v && v < (2 ^ n : Nat) else fitsS n v
  | .unsigned lo hi => lo <= v && v <= hi && v < (2 ^ n : Nat)
  | .advance => 0 <= v && v < 32 && v % 16 != 0

/-- IMM payloads put into the IMM prefixes of a chain, in order. -/
def putImms : List (WK × Nat) → List Nat → List Nat
  | [], _ => []
  | (.imm, w) :: ws, g :: gs => (w / 512 * 512 + g) :: putImms ws gs
  | (_, w) :: ws, gs => w :: putImms ws gs

/-- The words of an instruction with its immediate replaced; none where the value does not fit it. -/
def patchImm (ws : List Half) (v : Int) : Option (List Half) :=
  match Raw.scan (ws.map BitVec.toNat) .empty with
  | .error _ => none
  | .ok r =>
    match immField r.page r.op with
    | none => none
    | some (lo, w, e) =>
      if ws.length < r.words.length || !e.fits (9 * r.nimm + w) r.nimm v then none
      else
        let sp := immSplit w r.nimm v
        let base := r.base - bits r.base lo w * 2 ^ lo + sp.2 * 2 ^ lo
        some ((putImms (r.words.map (fun x => if x.1 == .base then (WK.base, base) else x)) sp.1).map (BitVec.ofNat 16))

/-- Halfwords of bytes. -/
def halves : List Byte → List Half
  | a :: b :: r => (b ++ a) :: halves r
  | _ => []

/-- Bytes of halfwords. -/
def unhalves (ws : List Half) : List Byte := (ws.map (fun w => [w.extractLsb' 0 8, w.extractLsb' 8 8])).flatten

/-- n bytes of an integer, little-endian. -/
def intBytes (n : Nat) (v : Int) : List Byte := numBytes n (wrap (8 * n) v)

/-- Whether the instruction at some words is a branch, a jump or a call with an offset. -/
def isBranch (ws : List Half) : Bool :=
  match Raw.scan (ws.map BitVec.toNat) .empty with
  | .ok r => r.page == 0 && 17 <= r.op && r.op <= 22
  | .error _ => false

/-- One relocation of a section's body: p is the section's address, v is S + A. DEDUCED (log 19): a reserved type is a
patch that nothing can make, so it fails RELOC, and only where it is applied.
DESIGN CHOICE (log 19): a place beyond the section's body fails RELOC too. -/
def patchOne (p : Nat) (v : Int) (r : Reloc) (body : List Byte) : Option (List Byte) :=
  let fits := fun n => r.offset + n <= body.length
  let put := fun bs => some (patchBytes body r.offset bs)
  let ws := halves (objBytes body r.offset 10)
  match r.type with
  | 1 => if fits 8 then put (intBytes 8 v) else none
  | 2 => if fits 4 && -(2 ^ 31 : Nat) <= v && v < (2 ^ 32 : Nat) then put (intBytes 4 v) else none
  | 3 => if fits 8 && 0 <= v && v < (2 ^ 56 : Nat) then put (intBytes 7 v) else none
  | 4 => (patchImm ws v).bind (fun us => put (unhalves us))
  | 5 =>
    let d := v - (p + r.offset : Nat)
    if d % 2 != 0 || !isBranch ws then none else (patchImm ws (d / 2)).bind (fun us => put (unhalves us))
  | _ => none

/-- All relocations of a section, in order. -/
def patchAll (final : Nat → Option Int) (p : Nat) : List Reloc → List Byte → Option (List Byte)
  | [], b => some b
  | r :: rs, b =>
    match final r.sym with
    | none => none
    | some v => (patchOne p (v + r.addend) r b).bind (patchAll final p rs)

/-- The address of a section: a data section's is its copy's. DEDUCED (log 19): a section that is placed nowhere, or
that the table does not hold, has the address 0, as R77 gives for text and xplan sections. -/
def Obj.secAddr (b : Obj) (base : Nat) (places : List (Nat × Nat × Nat)) (i : Nat) : Nat :=
  match places.find? (fun x => x.1 == i) with
  | some x => base + x.2.1
  | none =>
    match b.secs[i]? with
    | some x => if secKind x.kind == some .spad then x.addr else 0
    | none => 0

/-- The final value of a symbol. -/
def Obj.final (b : Obj) (base : Nat) (places : List (Nat × Nat × Nat)) (i : Nat) : Option Int :=
  (b.syms[i]?).map (fun y => (y.value + if y.sec = 0xFFFF then 0 else b.secAddr base places y.sec : Nat))

/-- A section's body relocated. -/
def Obj.relocated (b : Obj) (base : Nat) (places : List (Nat × Nat × Nat)) (x : Nat × Sec) : Except LoadFail (List Byte) :=
  match patchAll (b.final base places) (b.secAddr base places x.1) (x.2.relocs b.bytes) (b.body x.2) with
  | some r => .ok r
  | none => .error .reloc

/-! ### Rings and plans (R82, 15 R293, R294) -/

/-- A ring preset. -/
def readPreset (o : List Byte) (at_ : Nat) : Reg8 × Ring :=
  let w := objNat o at_ 16
  (⟨bits w 120 8 % 8, Nat.mod_lt _ (by decide)⟩,
    ⟨BitVec.ofNat 64 (bits w 0 64), BitVec.ofNat 64 (bits w 64 16), 0, 0, BitVec.ofNat 64 (bits w 80 16),
      BitVec.ofNat 64 (bits w 96 24)⟩)

/-- The presets of a kernel.
DESIGN CHOICE (log 19): the presets of other kernels are only held to lie in the file. -/
def Obj.presets (b : Obj) (k : Kernel) : Except LoadFail (List (Reg8 × Ring)) := do
  let ps := readTable readPreset b.bytes k.ringoff 16 k.nring
  let ns := readTable (fun o a => objNat o (a + 15) 1) b.bytes k.ringoff 16 k.nring
  check (k.nring <= 8 && ns.all (fun n => n < 8) && ns.eraseDups.length == ns.length
    && ps.all (fun p => (p.2.check (k.stash * 0x10000)).isNone)) .layout
  pure ps

/-- A plan entry as the section gives it: its destination rank in place of a core (15 R294). -/
structure PlanLine where
  rank : Nat
  doff : Nat
  soff : Nat
  len : Nat
  deriving DecidableEq, Repr

/-- Entry k of a plan section, none where it is outside the section or has a res bit set. -/
def planLine (sec : List Byte) (eoff k : Nat) : Option PlanLine :=
  let w := objNat sec (eoff + 16 * k) 16
  if !inside sec (eoff + 16 * k) 16 || bits w 112 16 != 0 || bits w 83 13 != 0 || bits w 51 13 != 0 || bits w 20 12 != 0
  then none
  else some ⟨bits w 96 16, bits w 64 19, bits w 32 19, bits w 0 20⟩

/-- The plan of a rank. -/
def planOf (sec : List Byte) (r : Nat) : Option (List PlanLine) :=
  let h := objNat sec 0 8
  if r >= bits h 0 32 then some []
  else
    let x := objNat sec (8 + 8 * r) 8
    if bits x 48 16 != 0 || bits x 32 16 > 64 then none
    else (List.range (bits x 32 16)).mapM (fun i => planLine sec (bits h 32 32) (bits x 0 32 + i))

/-- The plans of every rank of a section, in order. -/
def plansOf (sec : List Byte) (n : Nat) : Except LoadFail (List (List PlanLine)) :=
  let h := objNat sec 0 8
  let nrank := bits h 0 32
  if !inside sec 0 8 || bits h 32 32 % 16 != 0 || !inside sec 8 (8 * nrank) then .error .layout
  else if (List.range nrank).any (fun r => (planOf sec r).isNone) then .error .layout
  else match (List.range n).mapM (planOf sec) with
    | some ps => .ok ps
    | none => .error .layout

/-! ### A whole load -/

/-- What a load yields for a launch. -/
structure Loaded where
  text : List Byte
  entry : BitVec 16
  stash : Nat
  share : Nat
  spads : List (Nat × List Byte)
  rings : List (Reg8 × Ring)
  plans : List (List PlanLine)
  datas : List (Nat × List Byte)
  places : List (Nat × Nat)
  deriving DecidableEq, Repr

/-- What the chosen variant runs: its text, and where in it an offset of its text or KPF section stands (R81, R86).
Text that exceeds the instruction store fails LAYOUT, translated text too, and so does a KPF variant without exactly one
KPF section (log 19).
DESIGN CHOICE (log 19): an IMM or PCREL relocation of a KPF section patches the bytes of its records as instruction
words. -/
def Obj.text (b : Obj) (v : Variant) (base : Nat) (places : List (Nat × Nat × Nat)) (words : List Word) :
    Except LoadFail (List Byte × (Nat → Option Nat)) :=
  if v.kind == 0 then
    match b.ofKind v .text with
    | [x] => (b.relocated base places x).map (fun t => (t, some))
    | _ => .error .layout
  else match b.ofKind v .kpf with
    | [x] => do
      let sec ← b.relocated base places x
      let version := (words.getD 3 0).extractLsb' 48 16
      match translate sec (words.take 3) version v.tbase v.tsize with
      | .bad => .error .badKpf
      | .resSet => .error .badVersion
      | .noSpace => .error .trSpace
      | .code t starts => if t.length <= 0x10000 then .ok (t, kpfEntry starts) else .error .layout
    | _ => .error .layout

/-- Whether the scratchpad sections lie inside the program range and apart (R77). DESIGN CHOICE (log 19): an address
that is not a multiple of the section's alignment is accepted, and an empty section strictly inside another overlaps
it. -/
def spadsOk (stash : Nat) (xs : List (Nat × Sec)) : Bool :=
  xs.all (fun x => stash <= x.2.addr && x.2.addr + x.2.size <= 0x7E000)
  && (List.range xs.length).all (fun i => (List.range i).all (fun j =>
    match xs[i]?, xs[j]? with
    | some a, some b => !(a.2.addr < b.2.addr + b.2.size && b.2.addr < a.2.addr + a.2.size)
    | _, _ => true))

/-- The kind of the section that holds a variant's code. -/
def Variant.codeKind (v : Variant) : SecKind := if v.kind == 0 then .text else .kpf

/-- The entry of a kernel in a variant: its global symbol of type kernel, which stands in the section that holds the
variant's code (R81, R89). DEDUCED (log 19): a kernel without one fails LAYOUT. -/
def Obj.entry (b : Obj) (k : Kernel) (v : Variant) (textLen : Nat) (addr : Nat → Option Nat) : Except LoadFail (BitVec 16) :=
  match b.syms.find? (fun y => y.type == 1 && y.bind == 1 && v.sec0 <= y.sec && y.sec < v.sec0 + v.nsec && b.str y.name == b.str k.name) with
  | none => .error .layout
  | some y =>
    match (b.secs[y.sec]?).bind (fun x => secKind x.kind), addr y.value with
    | some kind, some a =>
      if kind != v.codeKind || a % 2 != 0 || a > 0xFFFE || a >= textLen then .error .layout else .ok (BitVec.ofNat 16 a)
    | _, _ => .error .layout

/-- The plans of a kernel. The relocations of the chosen variant alone are applied (R87): DEDUCED (log 19), a plan
section that the descriptor names in another variant is read as the object holds it, and a section of another kind
fails LAYOUT. DESIGN CHOICE (log 19): the relocations of a plan section that the launch does not load are not applied,
and the one that it loads is relocated before it is read, where R87 names the reading first. -/
def Obj.plan (b : Obj) (k : Kernel) (v : Variant) (base : Nat) (places : List (Nat × Nat × Nat)) (n : Nat) : Except LoadFail (List (List PlanLine)) :=
  if k.xplan = 0xFFFF then .ok (List.replicate n [])
  else match b.secs[k.xplan]? with
    | none => .error .layout
    | some x =>
      if secKind x.kind != some .xplan then .error .layout
      else if v.sec0 <= k.xplan && k.xplan < v.sec0 + v.nsec then do
        let body ← b.relocated base places (k.xplan, x)
        plansOf body n
      else plansOf (b.body x) n

/-- Sections relocated, each with what f makes of it. -/
def Obj.bodies (b : Obj) (base : Nat) (places : List (Nat × Nat × Nat)) (xs : List (Nat × Sec)) : Except LoadFail (List (Nat × List Byte)) :=
  xs.mapM (fun x => do
    let r ← b.relocated base places x
    pure (b.secAddr base places x.1, r))

/-- A load for a launch of n cores: base and size of the load area, and the places in use in it; `none` where the data
sections do not fit what is free. DEDUCED (log 19): a kernel index beyond the table, and a stash size or a share request
outside its range, fail LAYOUT.
DESIGN CHOICE (log 19): the bounds and the overlap of spad sections are checked in the chosen variant alone. -/
def loadObj (o : List Byte) (ker n base size : Nat) (used : List (Nat × Nat)) (words : List Word) : Except LoadFail (Option Loaded) := do
  let b ← readObj o
  let v ← b.choose
  match b.kernels[ker]? with
  | none => .error .layout
  | some k =>
    check (k.stash <= 4 && (k.share == 0 || (2 <= k.share && k.share <= 24)) && spadsOk (k.stash * 0x10000) (b.ofKind v .spad)) .layout
    let ds := b.ofKind v .data
    check ((placeAll size [] ds).isSome && (ds.isEmpty || size != 0)) .layout
    match placeAll size used ds with
    | none => pure none
    | some places =>
      let (text, addr) ← b.text v base places words
      let entry ← b.entry k v text.length addr
      let rings ← b.presets k
      let plans ← b.plan k v base places n
      let spads ← b.bodies base places (b.ofKind v .spad)
      let datas ← b.bodies base places ds
      pure (some ⟨text, entry, k.stash, k.share, spads, rings, plans, datas, places.map (·.2)⟩)

end Sys2Proof.Machine
end

