-- ==== Sys2Proof/Machine/Scalar.lean ====
section
/-!
DEFINITION. The meanings of pages 0 and 1 but SRD, SWR and HALT (05_scalar_instructions.md R96 to R113).
-/

namespace Sys2Proof.Machine

/-- 1 or 0 in a register. -/
def flag (b : Bool) : Word := if b then 1 else 0

/-! ### Integer register operations (R96, R97) -/

/-- ADD. -/
def execAdd (d a b : XReg) (s : State) : Out := s.doneX d ((s.x a) + (s.x b))

/-- SUB. -/
def execSub (d a b : XReg) (s : State) : Out := s.doneX d ((s.x a) - (s.x b))

/-- AND. -/
def execAnd (d a b : XReg) (s : State) : Out := s.doneX d ((s.x a) &&& (s.x b))

/-- OR. -/
def execOr (d a b : XReg) (s : State) : Out := s.doneX d ((s.x a) ||| (s.x b))

/-- XOR. -/
def execXor (d a b : XReg) (s : State) : Out := s.doneX d ((s.x a) ^^^ (s.x b))

/-- SLL: only b[5:0] counts. -/
def execSll (d a b : XReg) (s : State) : Out := s.doneX d ((s.x a) <<< ((s.x b).toNat % 64))

/-- SRL. -/
def execSrl (d a b : XReg) (s : State) : Out := s.doneX d ((s.x a) >>> ((s.x b).toNat % 64))

/-- SRA. -/
def execSra (d a b : XReg) (s : State) : Out := s.doneX d ((s.x a).sshiftRight ((s.x b).toNat % 64))

/-- SEQ. -/
def execSeq (d a b : XReg) (s : State) : Out := s.doneX d (flag ((s.x a) == (s.x b)))

/-- SNE. -/
def execSne (d a b : XReg) (s : State) : Out := s.doneX d (flag ((s.x a) != (s.x b)))

/-- SLT. -/
def execSlt (d a b : XReg) (s : State) : Out := s.doneX d (flag ((s.x a).slt (s.x b)))

/-- SLTU. -/
def execSltu (d a b : XReg) (s : State) : Out := s.doneX d (flag ((s.x a).ult (s.x b)))

/-- MIN. -/
def execMin (d a b : XReg) (s : State) : Out := s.doneX d ((if (s.x a).slt (s.x b) then (s.x a) else (s.x b)))

/-- MAX. -/
def execMax (d a b : XReg) (s : State) : Out := s.doneX d ((if (s.x a).slt (s.x b) then (s.x b) else (s.x a)))

/-- MINU. -/
def execMinu (d a b : XReg) (s : State) : Out := s.doneX d ((if (s.x a).ult (s.x b) then (s.x a) else (s.x b)))

/-- MAXU. -/
def execMaxu (d a b : XReg) (s : State) : Out := s.doneX d ((if (s.x a).ult (s.x b) then (s.x b) else (s.x a)))

/-- ADDI. -/
def execAddi (d a : XReg) (v : Int) (s : State) : Out := s.doneX d ((s.x a) + wordOfInt v)

/-- ANDI. -/
def execAndi (d a : XReg) (v : Int) (s : State) : Out := s.doneX d ((s.x a) &&& wordOfInt v)

/-- ORI. -/
def execOri (d a : XReg) (v : Int) (s : State) : Out := s.doneX d ((s.x a) ||| wordOfInt v)

/-- XORI. -/
def execXori (d a : XReg) (v : Int) (s : State) : Out := s.doneX d ((s.x a) ^^^ wordOfInt v)

/-- SLTI. -/
def execSlti (d a : XReg) (v : Int) (s : State) : Out := s.doneX d (flag ((s.x a).toInt < v))

/-- SLLI. -/
def execSlli (d a : XReg) (n : Nat) (s : State) : Out := s.doneX d ((s.x a) <<< n)

/-- SRLI. -/
def execSrli (d a : XReg) (n : Nat) (s : State) : Out := s.doneX d ((s.x a) >>> n)

/-- SRAI. -/
def execSrai (d a : XReg) (n : Nat) (s : State) : Out := s.doneX d ((s.x a).sshiftRight n)

/-- LI (R98). -/
def execLi (d : XReg) (v : Int) (s : State) : Out := s.doneX d (wordOfInt v)

/-- MV (R104). -/
def execMv (d a : XReg) (s : State) : Out := s.doneX d (s.x a)

/-- SEL (R112): the destination is the condition. -/
def execSel (d a b : XReg) (s : State) : Out := s.doneX d (if s.x d != 0 then s.x a else s.x b)

/-! ### Multiply, divide and bit counting (R99, R100) -/

/-- MUL. -/
def execMul (d a b : XReg) (s : State) : Out := s.doneX d (s.x a * s.x b)

/-- MULH. -/
def execMulh (d a b : XReg) (s : State) : Out := s.doneX d (wordOfInt ((s.x a).toInt * (s.x b).toInt / 2 ^ 64))

/-- MULHU. -/
def execMulhu (d a b : XReg) (s : State) : Out :=
  s.doneX d (BitVec.ofNat 64 ((s.x a).toNat * (s.x b).toNat / 2 ^ 64))

/-- MULHSU: a signed, b unsigned. -/
def execMulhsu (d a b : XReg) (s : State) : Out :=
  s.doneX d (wordOfInt ((s.x a).toInt * ((s.x b).toNat : Int) / 2 ^ 64))

/-- Signed quotient, truncated; all ones for a zero divisor (R100). -/
def sdivWord (a b : Word) : Word := if b = 0 then -1 else wordOfInt (a.toInt.tdiv b.toInt)
/-- Unsigned quotient; all ones for a zero divisor. -/
def udivWord (a b : Word) : Word := if b = 0 then -1 else BitVec.ofNat 64 (a.toNat / b.toNat)
/-- Signed remainder, with the sign of a; a for a zero divisor. -/
def sremWord (a b : Word) : Word := if b = 0 then a else wordOfInt (a.toInt.tmod b.toInt)
/-- Unsigned remainder; a for a zero divisor. -/
def uremWord (a b : Word) : Word := if b = 0 then a else BitVec.ofNat 64 (a.toNat % b.toNat)

/-- DIV. -/
def execDiv (d a b : XReg) (s : State) : Out := s.doneX d (sdivWord (s.x a) (s.x b))
/-- DIVU. -/
def execDivu (d a b : XReg) (s : State) : Out := s.doneX d (udivWord (s.x a) (s.x b))
/-- REM. -/
def execRem (d a b : XReg) (s : State) : Out := s.doneX d (sremWord (s.x a) (s.x b))
/-- REMU. -/
def execRemu (d a b : XReg) (s : State) : Out := s.doneX d (uremWord (s.x a) (s.x b))

/-- Leading zero bits of a number of k bits. -/
def clzBits (v : Nat) : Nat → Nat
  | 0 => 0
  | k + 1 => if bit v k then 0 else clzBits v k + 1

/-- Trailing zero bits of a number of k bits. -/
def ctzBits (v : Nat) : Nat → Nat
  | 0 => 0
  | k + 1 => if bit v 0 then 0 else ctzBits (v / 2) k + 1

/-- One bits among the low k bits. -/
def popBits (v : Nat) : Nat → Nat
  | 0 => 0
  | k + 1 => b2n (bit v k) + popBits v k

/-- The low k bytes of a number in reverse order. -/
def swapBytes (v : Nat) : Nat → Nat
  | 0 => 0
  | k + 1 => v % 256 * 256 ^ k + swapBytes (v / 256) k

/-- CLZ. -/
def execClz (d a : XReg) (s : State) : Out := s.doneX d (BitVec.ofNat 64 (clzBits (s.x a).toNat 64))
/-- CTZ. -/
def execCtz (d a : XReg) (s : State) : Out := s.doneX d (BitVec.ofNat 64 (ctzBits (s.x a).toNat 64))
/-- POPC. -/
def execPopc (d a : XReg) (s : State) : Out := s.doneX d (BitVec.ofNat 64 (popBits (s.x a).toNat 64))
/-- BSWAP. -/
def execBswap (d a : XReg) (s : State) : Out := s.doneX d (BitVec.ofNat 64 (swapBytes (s.x a).toNat 8))

/-! ### Fat pointers (R101) -/

/-- A pointer moved to an exact address: PTROVF outside 0 to 2^56 - 1. -/
def State.movePtr (s : State) (d : XReg) (p : Word) (v : Int) : Out :=
  if v < 0 || v >= 2 ^ 56 then s.trap .ptrovf (wordOfInt v)
  else s.doneX d (BitVec.ofNat 64 (ptrTag p * 2 ^ 56 + v.toNat))

/-- ADDP. -/
def execAddp (d a b : XReg) (s : State) : Out := s.movePtr d (s.x a) (ptrAddr (s.x a) + (s.x b).toInt)
/-- SUBP. -/
def execSubp (d a b : XReg) (s : State) : Out := s.movePtr d (s.x a) (ptrAddr (s.x a) - (s.x b).toInt)
/-- ADDPI. -/
def execAddpi (d a : XReg) (v : Int) (s : State) : Out := s.movePtr d (s.x a) (ptrAddr (s.x a) + v)
/-- TAGP. -/
def execTagp (d a b : XReg) (s : State) : Out :=
  let t := bits (s.x b).toNat 0 8
  if tagBad (t / 8) (t % 8) then s.trap .fmt (BitVec.ofNat 64 t)
  else s.doneX d (BitVec.ofNat 64 (t * 2 ^ 56 + ptrAddr (s.x a)))

/-! ### Local loads and stores (R102) -/

/-- LDL and LDLU; `u` zero-extends. -/
def State.loadLocal (s : State) (d a : XReg) (off : Int) (size : Size) (u : Bool) : Out :=
  let n := size.bytes
  let ea := localEa (s.x a) off n
  match localTrap s.me.arch.stashSize ea n with
  | some t => s.takeTrap t
  | none => s.localRead ea.toNat n (fun s v => s.doneX d (if u then BitVec.ofNat 64 v else sext64 (8 * n) v))

/-- LDL. -/
def execLdl (d a : XReg) (off : Int) (size : Size) (s : State) : Out := s.loadLocal d a off size false
/-- LDLU. -/
def execLdlu (d a : XReg) (off : Int) (size : Size) (s : State) : Out := s.loadLocal d a off size true

/-- STL. -/
def execStl (r a : XReg) (off : Int) (size : Size) (s : State) : Out :=
  let n := size.bytes
  let ea := localEa (s.x a) off n
  match localTrap s.me.arch.stashSize ea n with
  | some t => s.takeTrap t
  | none => s.localWrite ea.toNat n (s.x r).toNat (fun s => s.done s.me.arch)

/-! ### Branches, jumps and calls (R103, R104) -/

/-- The target of a branch: halfwords from the instruction's first word. -/
def State.target (s : State) (off : Int) : BitVec 16 := s.pc + BitVec.ofInt 16 (2 * off)

/-- A conditional branch. -/
def State.branch (s : State) (c : Bool) (off : Int) : Out :=
  if c then s.jump s.me.arch (s.target off) else s.done s.me.arch

/-- BEQZ. -/
def execBeqz (a : XReg) (off : Int) (s : State) : Out := s.branch (s.x a == 0) off
/-- BNEZ. -/
def execBnez (a : XReg) (off : Int) (s : State) : Out := s.branch (s.x a != 0) off
/-- BLTZ. -/
def execBltz (a : XReg) (off : Int) (s : State) : Out := s.branch (s.x a).msb off
/-- BGEZ. -/
def execBgez (a : XReg) (off : Int) (s : State) : Out := s.branch (!(s.x a).msb) off
/-- BR. -/
def execBr (off : Int) (s : State) : Out := s.jump s.me.arch (s.target off)
/-- CALL. -/
def execCall (off : Int) (s : State) : Out := s.jump (s.me.arch.setX 1 (s.npc.setWidth 64)) (s.target off)

/-- A jump to a register's value: ALIGN unless it is an even 16-bit address. -/
def State.jumpReg (s : State) (t : Word) (a : Arch) : Out :=
  if t.toNat % 2 = 1 || t.toNat >= 0x10000 then s.trap .align t else s.jump a (t.setWidth 16)

/-- JR. -/
def execJr (a : XReg) (s : State) : Out := s.jumpReg (s.x a) s.me.arch
/-- JALR. -/
def execJalr (d a : XReg) (s : State) : Out := s.jumpReg (s.x a) (s.me.arch.setX d (s.npc.setWidth 64))

/-! ### Hardware loops (R105) -/

/-- LOOP and LOOPI: arm a level with a count. -/
def State.armLoop (s : State) (level : Bool) (cnt len : Nat) : Out :=
  if s.me.arch.inHandler then s.illegal
  else
    let n := BitVec.ofNat 16 (min cnt 65535)
    let st := s.npc
    let en := st + BitVec.ofNat 16 (2 * len)
    let w := loopWord st en n n
    let a := if level then { s.me.arch with loop1 := w } else { s.me.arch with loop0 := w }
    if n = 0 then s.jump a en else s.done a

/-- LOOP. -/
def execLoop (level : Bool) (c : XReg) (len : Nat) (s : State) : Out := s.armLoop level (s.x c).toNat len
/-- LOOPI. -/
def execLoopi (level : Bool) (v len : Nat) (s : State) : Out := s.armLoop level v len

/-! ### Scalar floating point (R109, R110) -/

/-- A source of a scalar floating-point instruction: the low bits of x n (R33). -/
def State.fx (s : State) (f : FpMode) (r : XReg) : Nat := (s.x r).toNat % 2 ^ f.ty.fmt.width

/-- A floating-point result, zero-extended into d. -/
def State.doneF (s : State) (d : XReg) (v : Nat) : Out := s.doneX d (BitVec.ofNat 64 v)

/-- FADD. -/
def execFadd (f : FpMode) (d a b : XReg) (s : State) : Out := s.doneF d (f.ty.fmt.add f.rm (s.fx f a) (s.fx f b))
/-- FSUB. -/
def execFsub (f : FpMode) (d a b : XReg) (s : State) : Out := s.doneF d (f.ty.fmt.sub f.rm (s.fx f a) (s.fx f b))
/-- FMUL. -/
def execFmul (f : FpMode) (d a b : XReg) (s : State) : Out := s.doneF d (f.ty.fmt.mul f.rm (s.fx f a) (s.fx f b))
/-- FDIV. -/
def execFdiv (f : FpMode) (d a b : XReg) (s : State) : Out := s.doneF d (f.ty.fmt.div f.rm (s.fx f a) (s.fx f b))
/-- FMIN. -/
def execFmin (f : FpMode) (d a b : XReg) (s : State) : Out := s.doneF d (f.ty.fmt.fmin (s.fx f a) (s.fx f b))
/-- FMAX. -/
def execFmax (f : FpMode) (d a b : XReg) (s : State) : Out := s.doneF d (f.ty.fmt.fmax (s.fx f a) (s.fx f b))
/-- FSQRT. -/
def execFsqrt (f : FpMode) (d a : XReg) (s : State) : Out := s.doneF d (f.ty.fmt.sqrt f.rm (s.fx f a))
/-- FNEG. -/
def execFneg (f : FpMode) (d a : XReg) (s : State) : Out := s.doneF d (f.ty.fmt.fneg (s.fx f a))
/-- FMA. -/
def execFma (f : FpMode) (d a b e : XReg) (s : State) : Out :=
  s.doneF d (f.ty.fmt.fused .fma f.rm (s.fx f a) (s.fx f b) (s.fx f e))
/-- FMS. -/
def execFms (f : FpMode) (d a b e : XReg) (s : State) : Out :=
  s.doneF d (f.ty.fmt.fused .fms f.rm (s.fx f a) (s.fx f b) (s.fx f e))
/-- FNMA. -/
def execFnma (f : FpMode) (d a b e : XReg) (s : State) : Out :=
  s.doneF d (f.ty.fmt.fused .nfma f.rm (s.fx f a) (s.fx f b) (s.fx f e))
/-- FNMS. -/
def execFnms (f : FpMode) (d a b e : XReg) (s : State) : Out :=
  s.doneF d (f.ty.fmt.fused .nfms f.rm (s.fx f a) (s.fx f b) (s.fx f e))

/-- A comparison of two sources by their exact values. -/
def State.fcmp (s : State) (f : FpMode) (d a b : XReg) (op : Num → Num → Bool) : Out :=
  s.doneX d (flag (op (f.ty.fmt.value (s.fx f a)) (f.ty.fmt.value (s.fx f b))))

/-- FEQ. -/
def execFeq (f : FpMode) (d a b : XReg) (s : State) : Out := s.fcmp f d a b Num.eqv
/-- FLT. -/
def execFlt (f : FpMode) (d a b : XReg) (s : State) : Out := s.fcmp f d a b Num.lt
/-- FLE. -/
def execFle (f : FpMode) (d a b : XReg) (s : State) : Out := s.fcmp f d a b Num.le
/-- FCLASS. -/
def execFclass (f : FpMode) (d a : XReg) (s : State) : Out := s.doneF d (f.ty.fmt.classMask (s.fx f a))

/-! ### Conversions (R111) -/

/-- A conversion's result and its contribution to amax and amaxf. A pending entry's contribution joins the same
maximum and the same sticky flags, so the order does not matter (R46). -/
def State.doneConv (s : State) (d : XReg) (r : Word × AmaxDelta) : Out := s.done ((s.me.arch.noteAmax r.2).setX d r.1)

/-- CVTFI. -/
def execCvtfi (u : Bool) (f : FpMode) (d a : XReg) (s : State) : Out :=
  s.doneConv d (cvtToInt f.ty.fmt u f.rm (s.fx f a))
/-- CVTIF. -/
def execCvtif (u : Bool) (f : FpMode) (d a : XReg) (s : State) : Out :=
  s.doneConv d (cvtFromInt f.ty.fmt u f.rm (s.x a))
/-- CVTFF. -/
def execCvtff (sat : Bool) (f : FpMode) (d a : XReg) (dst : FpTy) (s : State) : Out :=
  s.doneConv d (cvtFloat f.ty.fmt dst.fmt sat f.rm (s.fx f a))

/-! ### Feature words and control (R90, R91, R113) -/

/-- Feature word k (R90, R91); the translator version is that of the loaded firmware. -/
def featWord (translator : BitVec 16) (k : Nat) : Word :=
  match k with
  | 0 => 0x0000202060010001
  | 1 => 0x1FF
  | 3 => translator ++ (0x000000010001 : BitVec 48)
  | _ => 0

/-- FEAT. -/
def execFeat (d : XReg) (k : BitVec 8) (s : State) : Out := s.doneX d (featWord s.translator k.toNat)

/-- NOP. -/
def execNop (s : State) : Out := s.done s.me.arch

/-- BRK. -/
def execBrk (code : BitVec 8) (s : State) : Out := s.trapAfter .brk (code.setWidth 64)

/-- TRAP. -/
def execTrap (code : BitVec 8) (s : State) : Out := s.trapAfter .swtrap (code.setWidth 64)

/-- TRET (R25). -/
def execTret (s : State) : Out :=
  if s.me.arch.inHandler then s.jump s.me.arch.leaveTrap (s.me.arch.tpc.setWidth 16) else s.illegal

end Sys2Proof.Machine
end

