-- ==== Sys2Proof/Machine/Launch.lean ====
section
/-!
DEFINITION. Launches: the launch record and its refusals (24 R404, 08 R169), the start of a launch (08 R170 to R173,
24 R405), start messages and writes of instruction stores (08 R172, 13 R264), and the end of a launch (08 R174).
-/

namespace Sys2Proof.Machine

/-! ### The launch record (24 R404) -/

/-- n bytes of a function's host memory. -/
def State.hostNat (s : State) (vf : Fin 16) (at_ n : Nat) : Nat := memRead s.host[vf] at_ n

/-- The node that a record's third dword names. -/
def recNode (w : Nat) : Node := ⟨bits w 16 7, bits w 24 4, bits w 32 9⟩

/-- Three 32-bit words of a record. -/
def recTriple (r at_ : Nat) : Nat × Nat × Nat := (bits r (8 * at_) 32, bits r (8 * at_ + 32) 32, bits r (8 * at_ + 64) 32)

/-- The launch that a record describes; its state and places are filled in later. -/
def State.readLaunch (s : State) (vf : Fin 16) (hseq arg : Word) : Launch :=
  let r := s.hostNat vf arg.toNat 144
  let w := bits r 128 64
  { vf := vf
    hseq := hseq
    part := bits w 48 16
    node := recNode w
    kernel := bits r 96 16
    interval := let i := bits r 192 64; if i = 0 then 100000 else i
    g := recTriple r 0x20
    s := recTriple r 0x30
    t := recTriple r 0x40
    args := BitVec.ofNat 64 (bits r 0x280 64)
    bms := (List.range 7).map (fun i => BitVec.ofNat 64 (bits r (0x2C0 + 64 * i) 64))
    object := memBytes s.host[vf] (bits r 0 64) (bits r 64 32)
    share := 0
    allot := 0
    state := .waiting
    data := [] }

/-- Whether a res field of a record is not 0. -/
def recResBad (r : Nat) : Bool :=
  let w := bits r 128 64
  bits r 112 16 != 0 || bits w 41 7 != 0 || bits w 28 4 != 0 || bits w 23 1 != 0 || bits w 0 16 != 0
  || bits r (0x2C * 8) 32 != 0 || bits r (0x3C * 8) 32 != 0 || bits r (0x4C * 8) 32 != 0

/-- Cores of a launch. -/
def Launch.size (l : Launch) : Nat := l.g.1 * l.g.2.1 * l.g.2.2

/-- Cores of a node. -/
def Node.size (n : Node) : Nat := 8 * 2 ^ n.order

/-- GRID: limits of R169. -/
def Launch.gridBad (l : Launch) : Bool :=
  l.size = 0 || l.size > Sys2Proof.Machine.Node.size l.node || l.s.1 = 0 || l.s.2.1 = 0 || l.s.2.2 = 0 || l.bms.any bmBad

/-- NODE: the domain lies within a node of the partition in its merged form, and the partition is the function's. -/
def State.nodeBad (s : State) (l : Launch) : Bool :=
  match tabFind s.parts l.part with
  | none => true
  | some p => p.vf != l.vf || !l.node.ok || !p.nodes.any (fun n => l.node.within n)

/-- FEAT words 0 to 3 of the device. -/
def State.featWords (s : State) : List Word := (List.range 4).map (featWord s.translator)

/-- The places in use in a partition's load area. -/
def State.areaUse (s : State) (part : Nat) : List (Nat × Nat) :=
  ((s.launches.filter (fun e => e.2.part == part)).map (fun e => e.2.data)).flatten

/-- The load of a launch against its partition's load area. -/
def State.loadFor (s : State) (l : Launch) (p : Part) (used : List (Nat × Nat)) : Except LoadFail (Option Loaded) :=
  loadObj l.object l.kernel l.size p.loadBase p.loadSize used s.featWords

/-- Shares of each core of a launch (10 R204). -/
def shareOf (r : Nat) : Nat := if r = 0 then 10 else r

/-- PLAN: an entry that names a rank outside the launch, or a range outside the program range (15 R294). -/
def planBad (n lo : Nat) (e : PlanLine) : Bool :=
  e.rank >= n || e.len = 0 || e.soff < lo || e.soff + e.len > 0x7E000 || e.doff < lo || e.doff + e.len > 0x7E000

/-- Whether an exchange plan of a loaded object is invalid for n cores. -/
def Loaded.planBad (d : Loaded) (n : Nat) : Bool := d.plans.any (fun es => es.any (Sys2Proof.Machine.planBad n (d.stash * 0x10000)))

/-- The refusal code of a launch, or what an empty load area would give it. Where several codes apply, the first in
this order is given (log 22). DESIGN CHOICE (log 19): a grid or an argument block that differs from what the kernel
expects refuses nothing. -/
def State.launchRefusal (s : State) (l : Launch) (rec : Nat) : Except Nat Loaded :=
  match tabFind s.parts l.part with
  | none => .error (if recResBad rec then 13 else 9)
  | some p =>
    if recResBad rec then .error 13
    else if s.nodeBad l then .error 9
    else if l.gridBad then .error 8
    else if l.interval < 1000 || l.interval > 10000000 then .error 12
    else match s.loadFor l p [] with
      | .error f => .error f.code
      | .ok none => .error 5
      | .ok (some d) =>
        if l.size * shareOf d.share > p.allotment then .error 10
        else if d.planBad l.size then .error 11
        else .ok d

/-- The oldest submission of a function, if it is of a kind. -/
def Vf.submission (v : Vf) (kind : Nat) : Option Submission :=
  match v.subs with
  | [] => none
  | x :: _ => if x.kind = kind then some x else none

/-- A submission carried out. -/
def State.dropSub (s : State) (vf : Fin 16) : State := s.onVf vf (fun v => { v with subs := v.subs.drop 1 })

/-- LAUNCH: the record and the object are read, and the launch is accepted or refused. -/
def execLaunch (vf : Fin 16) (s : State) : Out :=
  match (s.vfs[vf]).submission 1 with
  | none => .next s
  | some x =>
    let l := s.readLaunch vf x.hseq x.arg
    let t := s.dropSub vf
    match s.launchRefusal l (s.hostNat vf x.arg.toNat 144) with
    | .error code => .next (t.refuseEvent vf x.hseq code)
    | .ok d =>
      .next { t with
        launches := tabPut t.launches t.nextLaunch.toNat
          { l with share := shareOf d.share, allot := ((tabFind s.parts l.part).map (·.allotment)).getD 0 }
        nextLaunch := if t.nextLaunch = 0xFFFFFFFF then 1 else t.nextLaunch + 1 }

/-! ### Starting (08 R170 to R173, 24 R405) -/

/-- START_MESSAGE at a core: pc is set, and a core in reset is held. -/
def Core.startMessage (k : Core) (entry : Half) : Core :=
  if k.run == .inReset || k.run == .held then
    { k with arch := { k.arch with pc := entry &&& 0xFFFE }, run := .held }
  else k

/-- START_MESSAGE. -/
def execStartMessage (c : CoreId) (entry : Half) (s : State) : Out := .next (s.onCore c (fun k => k.startMessage entry))

/-- Instruction bytes written; words written are correct (19 R343). -/
def Core.loadText (k : Core) (a : Nat) (bs : List Byte) : Core :=
  { k with
    istore := memPutBytes k.istore a bs
    errs := { k.errs with istore := k.errs.istore.filter (fun h => !(a <= h && h < a + bs.length)) } }

/-- INSTRUCTION_STORE_WRITE: accepted while the core is in reset or held, else refused and logged with class 0 (13 R264,
19 R342). -/
def execInstructionStoreWrite (c : CoreId) (addr w : Half) (s : State) : Out :=
  let k := s.core c
  let a := addr.toNat / 2 * 2
  if k.run == .inReset || k.run == .held then
    .next (s.setCore c (k.loadText a (numBytes 2 w.toNat)))
  else .next (s.logRefusal c .istore (BitVec.ofNat 64 (c.val * 0x80000 + a)))

/-- One dimension of R171: org and ext. -/
def orgExt (i s t : Nat) : Word × Word :=
  (BitVec.ofNat 64 (i * s), BitVec.ofNat 64 (min s (t - i * s)))

/-- The identity registers of rank k (R170, R171). -/
def Launch.ids (l : Launch) (k : Nat) : Vector Word 10 :=
  let i := k % l.g.1
  let j := k / l.g.1 % l.g.2.1
  let m := k / (l.g.1 * l.g.2.1)
  let x := orgExt i l.s.1 l.t.1
  let y := orgExt j l.s.2.1 l.t.2.1
  let z := orgExt m l.s.2.2 l.t.2.2
  #v[BitVec.ofNat 64 i, BitVec.ofNat 64 j, BitVec.ofNat 64 m, x.1, y.1, z.1, x.2, y.2, z.2, l.args]

/-- bm.0 to bm.7 of a launch: its presets, and the launch line (R179). -/
def Launch.lines (l : Launch) : Vector Word 8 :=
  Vector.ofFn fun i => if i.val = 7 then BitVec.ofNat 64 (l.node.order * 256 + 0x82) else l.bms[i.val]?.getD 0

/-- Scratchpad images written; whole dwords lose their poison (21 R374). -/
def Core.loadSpad (k : Core) (ims : List (Nat × List Byte)) : Core :=
  { k with
    arch := { k.arch with spad := ims.foldl (fun m x => memPutBytes m x.1 x.2) k.arch.spad }
    poison := ims.foldl (fun ps x => clearPoison ps x.1 x.2.length) k.poison }

/-- The shares that pass to a core when it is started (10 R205): none to one that a regulator failure has lost (10
R222). -/
def Power.startShares (p : Power) (n : Nat) : Nat := if p.mode == .dark then 0 else n

/-- The core of a rank after steps 1 and 2 of R172, with its shares; its first phase of b7 has been released. -/
def Core.launched (k : Core) (l : Launch) (id : Nat) (d : Loaded) (rank : Nat) (cores : List CoreId) (now : Word) : Core :=
  let r := Core.startMessage (k.toReset.loadText 0 d.text) d.entry
  let win := d.stash != 0
  let a := { r.arch with
    ids := l.ids rank
    bm := l.lines
    stashCfg := BitVec.ofNat 64 (d.stash + b2n win * 0x10000)
    sw := Vector.ofFn fun i => if i.val = 0 && win then 0xDC00000000000000 else 0
    rings := d.rings.foldl (fun (v : Vector Ring 8) x => v.set x.1 x.2) r.arch.rings }
  Core.loadSpad { r with
    arch := a
    plan := (d.plans[rank]?.getD []).filterMap (fun e => (cores[e.rank]?).map (fun c => ⟨c, e.doff, e.soff, e.len⟩))
    power := { r.power with own := r.power.startShares (shareOf d.share) }
    progress := now
    part := some l.part
    launch := some id } d.spads

/-- Shares that running launches of a partition hold: own ones of its cores and those not yet back. -/
def State.heldShares (s : State) (part : Nat) : Nat :=
  s.sumCores (s.coresOf part) (fun k => if k.power.mode == .halted || k.power.mode == .dark then k.power.sentOwn else k.power.own)

/-- Whether launch i was accepted before launch j: identifiers rise, and continue at 1 (24 R402). -/
def acceptedBefore (i j : Nat) : Bool := i != j && (j + 2 ^ 32 - i) % 2 ^ 32 < 2 ^ 31

/-- Whether an accepted launch could start on its node now: its node lies in one of the partition's (20 R353), which is
neither stopped nor changing. -/
def State.couldStart (s : State) (id : Nat) (l : Launch) (p : Part) : Bool :=
  l.state == .waiting && !p.faulted && p.stop == .none && !p.migrating && s.boot.done
  && l.node.pkg == s.pkg.val && !s.nodeBad l && s.hasSlice l.part p && p.resize.isEmpty
  && s.launches.all (fun e => e.2.vf != l.vf || e.2.state == .faulted || !acceptedBefore e.1 id || !e.2.node.meets l.node)
  && l.size * l.share <= l.allot - s.heldShares l.part
  && l.size * l.share <= s.governor
  && (nodeCores l.node).all (fun c => (s.core c).power.sentOwn = 0)

/-- Whether a sharer of a node asks for a slice: it is put away and can resume, or has a launch that could start (20
R357). -/
def State.asksSlice (s : State) (part : Nat) (p : Part) : Bool :=
  (p.stop == .stopped && !p.faulted && !p.migrating)
  || (s.launchesOf part .waiting).any (fun e => s.couldStart e.1 e.2 p)

/-- Whether a partition's turn has come among those that ask for a slice: functions take turns in ascending order after
the last one (20 R357). -/
def State.turnCame (s : State) (part : Nat) (p : Part) : Bool :=
  let others := (s.sharers part p).filter (fun e => s.asksSlice e.1 e.2)
  let rank := fun (v : Fin 16) => match lastBegun ((s.sharers part p) ++ [(part, p)]) with
    | none => v.val
    | some (_, l) => (v.val + 15 - l.vf.val) % 16
  others.all (fun e => rank p.vf <= rank e.2.vf)

/-- Whether a partition is within its own slice: it began the last one, and that is not over. -/
def State.inSlice (s : State) (part : Nat) (p : Part) : Bool :=
  match lastBegun ((s.sharers part p) ++ [(part, p)]) with
  | none => false
  | some (i, _) => i == part && s.time.toNat < p.since.toNat + p.sliceCycles

/-- Whether an accepted launch may start but for its load area: in its partition's slice, or when its turn has come. -/
def State.mayStart (s : State) (id : Nat) (l : Launch) (p : Part) : Bool :=
  s.couldStart id l p && (s.inSlice l.part p || s.turnCame l.part p)

/-- RESUME. -/
def execResume (part : Nat) (t2 : Word) (s : State) : Out :=
  match tabFind s.parts part with
  | none => .next s
  | some p =>
    if p.stop != .stopped || p.faulted || p.migrating || t2.toNat < s.time.toNat || !s.hasSlice part p || !s.turnCame part p || !s.quiet part p.saved then
      .next s
    else .next (s.restorePart part t2 p)

/-- Data sections copied to the load area, at the pages that the partition's table maps (04 R88). DESIGN CHOICE (log
19): bytes of the load area at a page that the table does not map are written nowhere. -/
def State.putData (s : State) (p : Part) (x : Nat × List Byte) : State :=
  s.putMem none (((List.range x.2.length).zip x.2).filterMap (fun b =>
    match s.walk (x.1 + b.1) p.root 5 with
    | .ok l => some (l.base + (x.1 + b.1) % l.size, b.2)
    | .error _ => none))

/-- Steps 1 to 3 of R172, after the reset of the domain (R173): the shares pass to the cores, the cores ask for their
wakes, and START is written. -/
def State.startLaunch (s : State) (id : Nat) (l : Launch) (p : Part) (d : Loaded) : State :=
  let begun := s.inSlice l.part p || !(s.launchesOf l.part .running).isEmpty
  let all := nodeCores l.node
  let cores := all.take l.size
  let listed := all.filter (fun c => (tabFind s.cores c.val).isSome)
  let s := ((s.resetCores listed).onCores listed (fun k => { k with part := some l.part })).dropSlew listed
  let s := d.datas.foldl (fun (t : State) x => t.putData p x) s
  let s := ((List.range cores.length).zip cores).foldl (fun (t : State) e =>
    t.onCore e.2 (fun k => (k.launched l id d e.1 cores s.time).raiseWake s.time)) s
  let s : State := { s with
    governor := s.governor - s.sumCores cores (fun k => k.power.startShares l.share)
    launches := tabPut s.launches id { l with state := .running, data := d.places } }
  let s := s.onPart l.part (fun p => if begun then { p with wasReset := false } else Part.beginSlice { p with wasReset := false } s)
  s.event l.vf l.hseq id 0 1 0

/-- LAUNCH_START: an accepted launch starts once nothing holds it back. A relocation that the places of its data
sections break refuses it now, and so does an exchange plan that it makes invalid (04 R79, R89, 15 R294). -/
def execLaunchStart (id : Nat) (s : State) : Out :=
  match tabFind s.launches id with
  | none => .next s
  | some l =>
    match tabFind s.parts l.part with
    | none => .next s
    | some p =>
      if !s.mayStart id l p then .next s
      else match s.loadFor l p (s.areaUse l.part) with
        | .error f => .next ({ s with launches := tabDel s.launches id }.refuseEvent l.vf l.hseq f.code)
        | .ok none => .next s
        | .ok (some d) =>
          if d.planBad l.size then .next ({ s with launches := tabDel s.launches id }.refuseEvent l.vf l.hseq 11)
          else .next (s.startLaunch id l p d)

/-! ### Ending (08 R174) -/

/-- The launch ends once every core of it has halted: modified lines are home, its data area is free, breakpoints end
(21 R374), DONE is written, and its node may merge (20 R353). -/
def State.endLaunch (s : State) (id : Nat) : State :=
  match tabFind s.launches id with
  | none => s
  | some l =>
    let cores := s.cores.filterMap (fun e => if e.2.launch == some id then some (coreOf e.1) else none)
    if l.state != .running || !cores.all (fun c => (s.core c).run == .halted) then s
    else
      let t : State := { s.keepLines (fun x => !cores.contains x.core) with launches := tabDel s.launches id }
      let t := t.onCores cores (fun k => { k with launch := none, dbg := { k.dbg with brks := [] } })
      (t.event l.vf l.hseq id 0 2 0).mergePart l.part

end Sys2Proof.Machine
end

