-- ==== Sys2Proof/Machine/FrontEnd.lean ====
section
/-!
DEFINITION. The host interface (24 R400 to R405), boot and management (24 R406 to R411), and the debugger (11 R226,
21 R374).
-/

namespace Sys2Proof.Machine

/-! ### Submission queues (R400, R401) -/

/-- One submission entry read from a function's queue. -/
def State.sqEntry (s : State) (vf : Fin 16) : Nat :=
  let v := s.vfs[vf]
  memRead s.host[vf] (v.sqbase.toNat + 64 * (v.sqread % v.sqSize)) 64

/-- Whether an entry's res fields are 0 and its kind is in use. -/
def entryOk (e : Nat) : Bool := 1 <= bits e 64 8 && bits e 64 8 <= 4 && bits e 72 56 == 0 && bits e 192 320 == 0

/-- Reads at most n entries up to the doorbell's index; a GAP ends the reading. -/
def State.readQueue (vf : Fin 16) : Nat → State → State
  | 0, s => s
  | n + 1, s =>
    let v := s.vfs[vf]
    if v.gap || v.sqread % v.sqSize = v.sqtail.toNat % v.sqSize then s
    else
      let e := s.sqEntry vf
      let h := BitVec.ofNat 64 (bits e 0 64)
      let t := s.onVf vf (fun v => { v with sqread := (v.sqread + 1) % v.sqSize })
      if h != v.hseq + 1 then
        (t.onVf vf (fun v => { v with gap := true })).event vf h 0 0 6 (v.hseq + 1).toNat
      else
        let t := t.onVf vf (fun v => { v with hseq := h })
        State.readQueue vf n (if entryOk e then
            t.onVf vf (fun v => { v with subs := v.subs ++ [⟨h, bits e 64 8, BitVec.ofNat 64 (bits e 128 64)⟩] })
          else t.refuseEvent vf h 13)

/-- SQTAIL: the doorbell; it ends the pause that a GAP began. -/
def execSqtail (vf : Fin 16) (v : Word) (s : State) : Out :=
  if !(s.vfs[vf]).enabled then .next s
  else
    let t := s.onVf vf (fun q => { q with sqtail := v, gap := false })
    .next (State.readQueue vf (t.vfs[vf]).sqSize t)

/-- Held events written where there is room now. -/
def State.pumpEvents (s : State) (vf : Fin 16) : State := State.flushEvents vf (s.vfs[vf]).held s

/-- EQHEAD. -/
def execEqhead (vf : Fin 16) (v : Word) (s : State) : Out :=
  if !(s.vfs[vf]).enabled then .next s
  else .next ((s.onVf vf (fun q => { q with eqhead := v })).pumpEvents vf)

/-- BAR_REGISTER_WRITE: sqbase, eqbase or qsize. -/
def execBarRegisterWrite (vf : Fin 16) (reg : Fin 3) (v : Word) (s : State) : Out :=
  .next (s.onVf vf (fun q =>
    match reg with
    | 0 => { q with sqbase := v }
    | 1 => { q with eqbase := v }
    | 2 => { q with qsize := v }))

/-! ### RESETPART, READLOG, RESYNC (R403, R405) -/

/-- RESETPART: it waits while a launch of the partition runs, and is refused for another function's partition. -/
def execResetpart (vf : Fin 16) (s : State) : Out :=
  match (s.vfs[vf]).submission 2 with
  | none => .next s
  | some x =>
    let id := x.arg.toNat
    match tabFind s.parts id with
    | none => .next ((s.dropSub vf).refuseEvent vf x.hseq 9)
    | some p =>
      if p.vf != vf then .next ((s.dropSub vf).refuseEvent vf x.hseq 9)
      else if !(s.launchesOf id .running).isEmpty then .next s
      else .next (((s.dropSub vf).resetPart id).event vf x.hseq 0 0 2 0)

/-- READLOG: one LOG event for each of the oldest n records. -/
def execReadlog (vf : Fin 16) (s : State) : Out :=
  match (s.vfs[vf]).submission 3 with
  | none => .next s
  | some x =>
    let t := s.dropSub vf
    if x.arg.toNat = 0 || x.arg.toNat > 256 then .next (t.refuseEvent vf x.hseq 13)
    else .next (((s.vfs[vf]).log.take x.arg.toNat).foldl (fun (u : State) r => u.event vf x.hseq 0 0 5 r.toNat) t)

/-- Events that RESYNC writes again: written ones after a dseq. -/
def Vf.resend (v : Vf) (after : Word) : List (Word × Body) :=
  v.retained.filter (fun e => after.toNat < e.1.toNat && e.1.toNat <= v.dseq.toNat)

/-- Whether every event after a dseq is still retained. -/
def Vf.retains (v : Vf) (after : Word) : Bool :=
  v.dseq.toNat <= after.toNat || v.retained.any (fun e => e.1.toNat = after.toNat + 1)

/-- RESYNC: the events after arg with their own dseq, then RESYNCED with the first of them. -/
def execResync (vf : Fin 16) (s : State) : Out :=
  match (s.vfs[vf]).submission 4 with
  | none => .next s
  | some x =>
    let v := s.vfs[vf]
    let t := s.dropSub vf
    if !v.retains x.arg then .next (t.refuseEvent vf x.hseq 14)
    else
      let t := (v.resend x.arg).foldl (fun (u : State) e => u.sendEvent vf e.2) t
      .next (t.event vf x.hseq 0 0 8 (x.arg + 1).toNat)

/-- MONITOR_RESTART: Slate reads sqtail and eqhead again and goes on from hseq.last and dseq.last. -/
def execMonitorRestart (s : State) : Out :=
  .next ((List.finRange 16).foldl (fun (t : State) v =>
    if (t.vfs[v]).enabled then (State.readQueue v (t.vfs[v]).sqSize t).pumpEvents v else t) s)

/-! ### Boot (R406, R408, R410) -/

/-- The physical column that stands for a column of a die after the remap list. -/
def BootTable.mapped (t : BootTable) (die col : Nat) : Nat := ((tabFind t.remap (die * 36 + col)).map (· % 36)).getD col

/-- The columns of a die in use: those of its logical and Slate columns, after the remap list. -/
def usedColumns (t : BootTable) (die : Nat) : List Nat :=
  tableColumns t die ++ (t.slateColumns.filter (fun c => c.1 == die)).map (fun c => BootTable.mapped t die c.2)

/-- Whether a table is one of R406: 1 or 2 Slate columns and 32 logical ones in each die, a Slate width of 1 or 2, and
roles of Slate cores only, given as (die * 36 + column) * 32 + row. -/
def BootTable.ok (t : BootTable) : Bool :=
  (List.range 4).all (fun die =>
    let n := ((t.slateColumns.filter (fun c => c.1 == die)).map (·.2)).eraseDups.length
    1 <= n && n <= 2 && (tableColumns t die).length == 32)
  && t.slateColumns.all (fun c => c.1 < 4 && c.2 < 36) && t.spareColumns.all (fun c => c.1 < 4 && c.2 < 36)
  && (t.slateWidth == 1 || t.slateWidth == 2)
  && t.roles.all (fun r => t.slateColumns.contains (r.1 / 32 / 36, r.1 / 32 % 36))

/-- The lowest-numbered free spare of a die. -/
def freeSpare (t : BootTable) (die : Nat) : Option Nat :=
  leastNat ((t.spareColumns.filter (fun c => c.1 == die && !(usedColumns t die).contains c.2)).map (·.2))

/-- Faulty columns still in use replaced one after the other; none without a free spare. -/
def remapFaults : List (Nat × Nat) → BootTable → Option BootTable
  | [], t => some t
  | (die, col) :: fs, t =>
    if !(usedColumns t die).contains col then remapFaults fs t
    else match freeSpare t die with
      | none => none
      | some sp =>
        -- the logical column keeps its number: what stood for it, or its remap, now names the spare
        let src := ((t.remap.find? (fun e => e.1 / 36 == die && e.2 % 36 == col)).map (·.1)).getD (die * 36 + col)
        remapFaults fs { t with remap := (t.remap.filter (fun e => e.1 != src)) ++ [(src, die * 36 + sp)] }

/-- The state after a boot that stopped at a step: no logical core is started. -/
def State.bootFailed (s : State) (step : Nat) : State :=
  { State.reset with
    host := s.host
    boot := { State.reset.boot with done := false, failed := some step, columnFaults := s.boot.columnFaults } }

/-- POWER_ON: the boot core of die 0 runs the steps of R408; the time base is set at the end. -/
def execPowerOn (b : BootInput) (s : State) : Out :=
  if !b.fetched then .next (s.bootFailed 1)
  else if !b.tableOk || !BootTable.ok b.table then .next (s.bootFailed 2)
  else if !b.imagesOk then .next (s.bootFailed 3)
  else match remapFaults s.boot.columnFaults b.table with
    | none => .next (s.bootFailed 4)
    | some t =>
      .next { State.reset with
        host := s.host
        pkg := t.pkg
        domain := t.domain
        cxl := t.cxl.foldl (fun (m : Tab Nat) e => tabPut m (t.pkg.val * 16 + e.1) e.2) []
        reserve := t.reserve
        boot := ⟨true, none, some t, s.boot.columnFaults, b.umber, b.policies, []⟩ }

/-! ### Management (R409, R411) -/

/-- MONITOR_UPDATE: a newer image that verifies replaces the monitor, and a higher translator version that it carries
shows in FEAT word 3 (04 R91); nothing else changes. -/
def execMonitorUpdate (image : MonitorImage) (ok : Bool) (s : State) : Out :=
  if ok && s.boot.umber < image.version then
    .next { s with
      boot := { s.boot with umber := image.version }
      translator := if s.translator.toNat < image.translator.toNat then image.translator else s.translator }
  else .next s

/-- POLICY_IMAGE_LOAD. -/
def execPolicyImageLoad (version : Nat) (ok : Bool) (s : State) : Out :=
  if ok && !s.boot.policies.contains version then
    .next { s with boot := { s.boot with policies := s.boot.policies ++ [version] } }
  else .next s

/-- Voltage domains of a package (11 R221): of its 4096 cores, of the vector units of its 512 clusters, and the others.
-/
def voltageDomains : Nat := 4096 + 512 + Config.otherDomains

/-- The records of the intervals of 1 ms, 1,700,000 reference cycles, up to the n-th that are not recorded yet, given
what is measured in each: one for every voltage domain, with the time value at the interval's end; the last 1,000 are
kept (R411). -/
def State.recordTo (s : State) (n : Nat) (measured : Nat → Nat → Nat × Nat × Nat) : State :=
  let lines := (List.range (n - s.telemetryAt)).map (fun i =>
    (BitVec.ofNat 64 ((s.telemetryAt + 1 + i) * 1700000), (List.range voltageDomains).map (fun d => (d, measured i d))))
  { s with
    telemetryAt := max n s.telemetryAt
    boot := { s.boot with telemetry := newest 1000 (s.boot.telemetry ++ lines) } }

/-- TELEMETRY_INTERVAL: the end of the next interval that is not recorded yet. What Slate measures in it comes from
outside, domain by domain; of a domain that nothing is given for, it is free. -/
def execTelemetryInterval (recs : List (Nat × Nat × Nat)) (s : State) : Out :=
  .next ((s.toNext 1700000 s.telemetryAt).recordTo (s.telemetryAt + 1)
    (fun _ d => recs[d]?.getD (Config.measured s.fresh d)))

/-! ### The debugger (11 R226, 21 R374) -/

/-- A core held by the debugger from now on. -/
def Core.debugHeld (k : Core) (now : Word) : Core := { k with dbg := { k.dbg with hold := true, stepOne := false, since := now } }

/-- DEBUG_HOLD: a breakpoint at an instruction, of a launch of a partition that the debugger is attached to; a core that
stands at it is held at once. -/
def execDebugHold (c : CoreId) (pc : Half) (s : State) : Out :=
  if !s.attachedTo c then .next s
  else .next (s.onCore c (fun k =>
    let k := { k with dbg := { k.dbg with brks := if k.dbg.brks.contains pc then k.dbg.brks else k.dbg.brks ++ [pc] } }
    if k.run == .running && k.wait.isNone && k.arch.pc == pc && !k.dbg.hold then k.debugHeld s.time else k))

/-- DEBUG_STEP. -/
def execDebugStep (c : CoreId) (s : State) : Out :=
  .next (s.onCore c (fun k => if k.dbg.hold then { k with dbg := { k.dbg with stepOne := true } } else k))

/-- A held core goes on, past the breakpoint it stands at; its watchdog paused meanwhile (19 R344). -/
def Core.debugFree (k : Core) (now : Word) : Core :=
  if !k.dbg.hold then k
  else
    { k with
      dbg := { k.dbg with hold := false, stepOne := k.dbg.brks.contains k.arch.pc }
      progress := if k.progress.toNat < k.dbg.since.toNat then k.progress + (now - k.dbg.since) else now }

/-- DEBUG_RUN. -/
def execDebugRun (s : State) : Out := .next { s with cores := s.cores.map (fun e => (e.1, e.2.debugFree s.time)) }

/-- An uncorrectable error arises in a protected word (19 R343). -/
def State.softError (s : State) (e : SoftAt) : State :=
  match e with
  | .spad c o => s.onCore c (fun k => { k with poison := addAll [o.toNat / 8] k.poison })
  | .istore c pc => s.onCore c (fun k => { k with errs := { k.errs with istore := addAll [pc.toNat / 2 * 2] k.errs.istore } })
  | .acc c z row => s.onCore c (fun k => { k with errs := { k.errs with acc := addAll [32 * z.val + row.val] k.errs.acc } })
  | .vec c n => s.onCore c (fun k => { k with errs := { k.errs with vec := addAll [n.val] k.errs.vec } })
  | .journal c global line =>
    s.onCore c (fun k => { k with errs :=
      ({ k.errs with jrnl := addAll [2 * line.toNat + b2n global] k.errs.jrnl } : Errs).keepJournal k.chunks })
  | .stash c line =>
    { s with stash := s.stash.map (fun l => if l.core == c && l.line == line.toNat then { l with bad := true } else l) }
  | .memory pa => { s with memPoison := addAll [pa.toNat / 8] s.memPoison }

/-- POISON: by the debugger, in the program range of a core of a partition it is attached to; or an error that arises by
itself. -/
def execPoison (p : PoisonAt) (s : State) : Out :=
  match p with
  | .debug c o =>
    let lo := o.toNat / 8 * 8
    if !s.attachedTo c || lo < (s.core c).arch.stashSize || lo > 0x7DFFF then .next s
    else .next (s.softError (.spad c o))
  | .soft e => .next (s.softError e)

end Sys2Proof.Machine
end

