-- ==== Sys2Proof/Machine/Resume.lean ====
section
/-!
DEFINITION. HALT (05 R113, 15 R292, 10 R213, 08 R174), and the events by which a blocked instruction goes on (09 R199,
12 R243).
-/

namespace Sys2Proof.Machine

/-- Whether every command that the core has pushed has ended (15 R292). -/
def Core.enginesIdle (k : Core) : Bool :=
  k.q2.isEmpty && k.q4.isEmpty && k.q6.isEmpty && k.copy.isNone && k.slice.cmd.isNone && k.rcmd.isNone

/-- A core halted: its own shares pass to the governor. -/
def Core.halted (k : Core) : Core :=
  { k with
    run := .halted
    power := { k.power with
      mode := .halted, cur := gatedLevel, own := 0, gov := 0, edge := none, wake := none } }

/-- HALT completes, with pc at the next address whatever the loops hold (R113): the core counts as arrived from now on,
and its launch may end. -/
def State.haltMe (s : State) : State :=
  let k := s.me
  let back := k.power.own - k.power.sentOwn - k.power.gov
  let t : State := { s.setMe (Core.halted (k.retireTo k.arch s.npc)) with governor := s.governor + back }
  let t := t.settle s.turn
  let t := (List.finRange 8).foldl (fun (u : State) n => u.poolSplit n (k.groupKey s.turn n)) t
  match k.launch with
  | none => t
  | some id => t.endLaunch id

/-- HALT: it waits until the sequencer is empty and the core's commands have ended. -/
def execHalt (s : State) : Out :=
  s.boundary (fun s =>
    if s.me.enginesIdle then .next s.wake.haltMe else s.blocked .halt 1 0 none)

/-- The blocked instruction of the executing core tried again. -/
def State.resumeMe (s : State) : Out :=
  match s.me.wait with
  | none => .next s
  | some w =>
    match w.instr with
    | .halt => execHalt s
    | .barv n => execBarv n s
    | .bwait n => execBwait n s
    | .sstep => execSstep s
    | .recv d ch => execRecv d ch s
    | .fetake d a => if w.stage = 2 || w.stage = 5 then s.blocked (.fetake d a) w.stage 0 (s.wordEdge (s.x a))
        else if w.stage = 1 || w.stage = 3 then execFetake d a s else .next s
    | .qpush a => execQpush a s
    | .qpop d q => execQpop d q s
    | .cpy kind d a b => execCpy kind d a b s
    | .cpyx kind d a b e => execCpyx kind d a b e s
    | .mma d a b m k => execMma d a b m k s
    | .mdrain d a b m => execMdrain d a b m s
    | .rtsend d a b => execRtsend d a b s
    | _ => .next s

/-- WAIT_RESUME. -/
def execWaitResume (c : CoreId) (s : State) : Out :=
  if (s.core c).run == .running then ({ s with turn := c } : State).resumeMe else .next s

/-- A remote operation that its owner has held back reaches the bank (13 R251). -/
def State.remoteMe (s : State) : Out :=
  match s.me.wait with
  | none => .next s
  | some w =>
    if w.stage != 4 && w.stage != 5 then .next s
    else match w.instr with
      | .fetake d a => execFetake d a s
      | .feput d a b => execFeput d a b s
      | .fepeek d a b => execFepeek d a b s
      | .atoml d a b aop ty => execAtoml d a b aop ty s
      | _ => .next s

/-- REMOTE_OPERATION. -/
def execRemoteOperation (c : CoreId) (s : State) : Out :=
  if (s.core c).run == .running then ({ s with turn := c } : State).remoteMe else .next s

end Sys2Proof.Machine
end

