-- ==== Sys2Proof/Machine/Dispatch.lean ====
section
/-!
DEFINITION. One arm per row of the opcode table: a direct call of the row's meaning.
-/

namespace Sys2Proof.Machine

/-- What a row of the opcode table does to the machine; an instruction acts on the core whose turn it is. -/
def exec (i : Instr) (s : State) : Host.Outcome State Fault Refusal :=
  match i with
  | .nop => Sys2Proof.Machine.execNop s
  | .halt => Sys2Proof.Machine.execHalt s
  | .brk code => Sys2Proof.Machine.execBrk code s
  | .add d a b => Sys2Proof.Machine.execAdd d a b s
  | .sub d a b => Sys2Proof.Machine.execSub d a b s
  | .and d a b => Sys2Proof.Machine.execAnd d a b s
  | .or d a b => Sys2Proof.Machine.execOr d a b s
  | .xor d a b => Sys2Proof.Machine.execXor d a b s
  | .sll d a b => Sys2Proof.Machine.execSll d a b s
  | .srl d a b => Sys2Proof.Machine.execSrl d a b s
  | .sra d a b => Sys2Proof.Machine.execSra d a b s
  | .seq d a b => Sys2Proof.Machine.execSeq d a b s
  | .sne d a b => Sys2Proof.Machine.execSne d a b s
  | .slt d a b => Sys2Proof.Machine.execSlt d a b s
  | .sltu d a b => Sys2Proof.Machine.execSltu d a b s
  | .min d a b => Sys2Proof.Machine.execMin d a b s
  | .max d a b => Sys2Proof.Machine.execMax d a b s
  | .minu d a b => Sys2Proof.Machine.execMinu d a b s
  | .maxu d a b => Sys2Proof.Machine.execMaxu d a b s
  | .addi d a imm => Sys2Proof.Machine.execAddi d a imm s
  | .andi d a imm => Sys2Proof.Machine.execAndi d a imm s
  | .ori d a imm => Sys2Proof.Machine.execOri d a imm s
  | .xori d a imm => Sys2Proof.Machine.execXori d a imm s
  | .slli d a sh => Sys2Proof.Machine.execSlli d a sh s
  | .srli d a sh => Sys2Proof.Machine.execSrli d a sh s
  | .srai d a sh => Sys2Proof.Machine.execSrai d a sh s
  | .slti d a imm => Sys2Proof.Machine.execSlti d a imm s
  | .li d imm => Sys2Proof.Machine.execLi d imm s
  | .ldl d a off size => Sys2Proof.Machine.execLdl d a off size s
  | .ldlu d a off size => Sys2Proof.Machine.execLdlu d a off size s
  | .stl r a off size => Sys2Proof.Machine.execStl r a off size s
  | .beqz a off => Sys2Proof.Machine.execBeqz a off s
  | .bnez a off => Sys2Proof.Machine.execBnez a off s
  | .bltz a off => Sys2Proof.Machine.execBltz a off s
  | .bgez a off => Sys2Proof.Machine.execBgez a off s
  | .br off => Sys2Proof.Machine.execBr off s
  | .call off => Sys2Proof.Machine.execCall off s
  | .jr a => Sys2Proof.Machine.execJr a s
  | .jalr d a => Sys2Proof.Machine.execJalr d a s
  | .mv d a => Sys2Proof.Machine.execMv d a s
  | .addp d a b => Sys2Proof.Machine.execAddp d a b s
  | .subp d a b => Sys2Proof.Machine.execSubp d a b s
  | .tagp d a b => Sys2Proof.Machine.execTagp d a b s
  | .addpi d a imm => Sys2Proof.Machine.execAddpi d a imm s
  | .loop level c len => Sys2Proof.Machine.execLoop level c len s
  | .srd d sid => Sys2Proof.Machine.execSrd d sid s
  | .swr r sid => Sys2Proof.Machine.execSwr r sid s
  | .mul d a b => Sys2Proof.Machine.execMul d a b s
  | .mulh d a b => Sys2Proof.Machine.execMulh d a b s
  | .mulhu d a b => Sys2Proof.Machine.execMulhu d a b s
  | .mulhsu d a b => Sys2Proof.Machine.execMulhsu d a b s
  | .div d a b => Sys2Proof.Machine.execDiv d a b s
  | .divu d a b => Sys2Proof.Machine.execDivu d a b s
  | .rem d a b => Sys2Proof.Machine.execRem d a b s
  | .remu d a b => Sys2Proof.Machine.execRemu d a b s
  | .clz d a => Sys2Proof.Machine.execClz d a s
  | .ctz d a => Sys2Proof.Machine.execCtz d a s
  | .popc d a => Sys2Proof.Machine.execPopc d a s
  | .bswap d a => Sys2Proof.Machine.execBswap d a s
  | .fadd f d a b => Sys2Proof.Machine.execFadd f d a b s
  | .fsub f d a b => Sys2Proof.Machine.execFsub f d a b s
  | .fmul f d a b => Sys2Proof.Machine.execFmul f d a b s
  | .fdiv f d a b => Sys2Proof.Machine.execFdiv f d a b s
  | .fmin f d a b => Sys2Proof.Machine.execFmin f d a b s
  | .fmax f d a b => Sys2Proof.Machine.execFmax f d a b s
  | .fsqrt f d a => Sys2Proof.Machine.execFsqrt f d a s
  | .fneg f d a => Sys2Proof.Machine.execFneg f d a s
  | .fma f d a b e => Sys2Proof.Machine.execFma f d a b e s
  | .fms f d a b e => Sys2Proof.Machine.execFms f d a b e s
  | .fnma f d a b e => Sys2Proof.Machine.execFnma f d a b e s
  | .fnms f d a b e => Sys2Proof.Machine.execFnms f d a b e s
  | .feq f d a b => Sys2Proof.Machine.execFeq f d a b s
  | .flt f d a b => Sys2Proof.Machine.execFlt f d a b s
  | .fle f d a b => Sys2Proof.Machine.execFle f d a b s
  | .fclass f d a => Sys2Proof.Machine.execFclass f d a s
  | .cvtfi u f d a => Sys2Proof.Machine.execCvtfi u f d a s
  | .cvtif u f d a => Sys2Proof.Machine.execCvtif u f d a s
  | .cvtff sat f d a dst => Sys2Proof.Machine.execCvtff sat f d a dst s
  | .sel d a b => Sys2Proof.Machine.execSel d a b s
  | .feat d k => Sys2Proof.Machine.execFeat d k s
  | .tret => Sys2Proof.Machine.execTret s
  | .trap code => Sys2Proof.Machine.execTrap code s
  | .loopi level imm len => Sys2Proof.Machine.execLoopi level imm len s
  | .vadd o => Sys2Proof.Machine.execVadd o s
  | .vsub o => Sys2Proof.Machine.execVsub o s
  | .vmul o => Sys2Proof.Machine.execVmul o s
  | .vmin o => Sys2Proof.Machine.execVmin o s
  | .vmax o => Sys2Proof.Machine.execVmax o s
  | .vand o => Sys2Proof.Machine.execVand o s
  | .vor o => Sys2Proof.Machine.execVor o s
  | .vxor o => Sys2Proof.Machine.execVxor o s
  | .vsll o => Sys2Proof.Machine.execVsll o s
  | .vsrl o => Sys2Proof.Machine.execVsrl o s
  | .vsra o => Sys2Proof.Machine.execVsra o s
  | .vfma var rm o => Sys2Proof.Machine.execVfma var rm o s
  | .vdiv o => Sys2Proof.Machine.execVdiv o s
  | .vsqrt o => Sys2Proof.Machine.execVsqrt o s
  | .vabs o => Sys2Proof.Machine.execVabs o s
  | .vneg o => Sys2Proof.Machine.execVneg o s
  | .vcmp o => Sys2Proof.Machine.execVcmp o s
  | .vsel o => Sys2Proof.Machine.execVsel o s
  | .vsplat d a gov ty => Sys2Proof.Machine.execVsplat d a gov ty s
  | .vmov o => Sys2Proof.Machine.execVmov o s
  | .vcvt o dst sat rm => Sys2Proof.Machine.execVcvt o dst sat rm s
  | .vqnt o => Sys2Proof.Machine.execVqnt o s
  | .vdqnt o lb => Sys2Proof.Machine.execVdqnt o lb s
  | .vred o red u rm b => Sys2Proof.Machine.execVred o red u rm b s
  | .vperm o b lb => Sys2Proof.Machine.execVperm o b lb s
  | .vslide o b => Sys2Proof.Machine.execVslide o b s
  | .vext a la b ty => Sys2Proof.Machine.execVext a la b ty s
  | .vins d a b ty => Sys2Proof.Machine.execVins d a b ty s
  | .vdot o mix => Sys2Proof.Machine.execVdot o mix s
  | .vsfu o fn rm => Sys2Proof.Machine.execVsfu o fn rm s
  | .viota d a b gov ty => Sys2Proof.Machine.execViota d a b gov ty s
  | .vldl o => Sys2Proof.Machine.execVldl o s
  | .vstl o => Sys2Proof.Machine.execVstl o s
  | .vldls o => Sys2Proof.Machine.execVldls o s
  | .vstls o => Sys2Proof.Machine.execVstls o s
  | .vgath o => Sys2Proof.Machine.execVgath o s
  | .vscat o => Sys2Proof.Machine.execVscat o s
  | .vldg o ff => Sys2Proof.Machine.execVldg o ff s
  | .vstg o => Sys2Proof.Machine.execVstg o s
  | .pcount d a => Sys2Proof.Machine.execPcount d a s
  | .pbound d a b => Sys2Proof.Machine.execPbound d a b s
  | .pmask d a la pred ty => Sys2Proof.Machine.execPmask d a la pred ty s
  | .pfirst d a la pred ty => Sys2Proof.Machine.execPfirst d a la pred ty s
  | .vpopc a la pred ty => Sys2Proof.Machine.execVpopc a la pred ty s
  | .vwidth d ty => Sys2Proof.Machine.execVwidth d ty s
  | .vloop a n => Sys2Proof.Machine.execVloop a n s
  | .vsync => Sys2Proof.Machine.execVsync s
  | .vfree sub code => Sys2Proof.Machine.execVfree sub code s
  | .tmclr d gov => Sys2Proof.Machine.execTmclr d gov s
  | .tmacc o => Sys2Proof.Machine.execTmacc o s
  | .tmmerge d a la b lb gov => Sys2Proof.Machine.execTmmerge d a la b lb gov s
  | .tmfold d a la pred => Sys2Proof.Machine.execTmfold d a la pred s
  | .tmexit d a la gov => Sys2Proof.Machine.execTmexit d a la gov s
  | .tmtab a pair exit => Sys2Proof.Machine.execTmtab a pair exit s
  | .barv n => Sys2Proof.Machine.execBarv n s
  | .bwait n => Sys2Proof.Machine.execBwait n s
  | .bmask d a => Sys2Proof.Machine.execBmask d a s
  | .send d a req len => Sys2Proof.Machine.execSend d a req len s
  | .recv d ch => Sys2Proof.Machine.execRecv d ch s
  | .rpoll d ch => Sys2Proof.Machine.execRpoll d ch s
  | .fetake d a => Sys2Proof.Machine.execFetake d a s
  | .feput d a b => Sys2Proof.Machine.execFeput d a b s
  | .fepeek d a b => Sys2Proof.Machine.execFepeek d a b s
  | .sstep => Sys2Proof.Machine.execSstep s
  | .shpark d a => Sys2Proof.Machine.execShpark d a s
  | .shunpark d a => Sys2Proof.Machine.execShunpark d a s
  | .ldg d a off size u acq scope => Sys2Proof.Machine.execLdg d a off size u acq scope s
  | .stg r a off size rel scope => Sys2Proof.Machine.execStg r a off size rel scope s
  | .atom d a b aop scope => Sys2Proof.Machine.execAtom d a b aop scope s
  | .atoml d a b aop ty => Sys2Proof.Machine.execAtoml d a b aop ty s
  | .fence scope => Sys2Proof.Machine.execFence scope s
  | .chunk => Sys2Proof.Machine.execChunk s
  | .stashRdwin d a => Sys2Proof.Machine.execStashRdwin d a s
  | .stashWrwin d a b => Sys2Proof.Machine.execStashWrwin d a b s
  | .stashClean d a b => Sys2Proof.Machine.execStashClean d a b s
  | .stashFlush d a b => Sys2Proof.Machine.execStashFlush d a b s
  | .stashFetch d a b => Sys2Proof.Machine.execStashFetch d a b s
  | .qpush a => Sys2Proof.Machine.execQpush a s
  | .qpop d q => Sys2Proof.Machine.execQpop d q s
  | .qstat d q => Sys2Proof.Machine.execQstat d q s
  | .cpy kind d a b => Sys2Proof.Machine.execCpy kind d a b s
  | .cpyx kind d a b e => Sys2Proof.Machine.execCpyx kind d a b e s
  | .ringset d a b => Sys2Proof.Machine.execRingset d a b s
  | .ringadv d head n => Sys2Proof.Machine.execRingadv d head n s
  | .mma d a b m k => Sys2Proof.Machine.execMma d a b m k s
  | .mdrain d a b m => Sys2Proof.Machine.execMdrain d a b m s
  | .rtset d a b rd => Sys2Proof.Machine.execRtset d a b rd s
  | .rtsend d a b => Sys2Proof.Machine.execRtsend d a b s
  | .rtmark entry => Sys2Proof.Machine.execRtmark entry s
  | .gpost d a b => Sys2Proof.Machine.execGpost d a b s
  | .gtake d a b => Sys2Proof.Machine.execGtake d a b s
  | .gstat d a sel => Sys2Proof.Machine.execGstat d a sel s
  | .gerr d a b => Sys2Proof.Machine.execGerr d a b s
  | .grearm d a b => Sys2Proof.Machine.execGrearm d a b s
  | .loopCntWrite n r => Sys2Proof.Machine.execLoopCntWrite n r s
  | .amaxWrite f r => Sys2Proof.Machine.execAmaxWrite f r s
  | .shapeWrite r => Sys2Proof.Machine.execShapeWrite r s
  | .tmodeWrite r => Sys2Proof.Machine.execTmodeWrite r s
  | .bmWrite n r => Sys2Proof.Machine.execBmWrite n r s
  | .chcfgWrite n r => Sys2Proof.Machine.execChcfgWrite n r s
  | .waitcfgWrite r => Sys2Proof.Machine.execWaitcfgWrite r s
  | .stashCfgWrite r => Sys2Proof.Machine.execStashCfgWrite r s
  | .chunkLimWrite r => Sys2Proof.Machine.execChunkLimWrite r s
  | .ringRegisterWrite n k r => Sys2Proof.Machine.execRingRegisterWrite n k r s
  | .permWrite r => Sys2Proof.Machine.execPermWrite r s
  | .accmodeWrite r => Sys2Proof.Machine.execAccmodeWrite r s
  | .gangWrite r => Sys2Proof.Machine.execGangWrite r s
  | .sequencerEntryExecute cl => Sys2Proof.Machine.execSequencerEntryExecute cl s
  | .waitResume c => Sys2Proof.Machine.execWaitResume c s
  | .sendDelivery c => Sys2Proof.Machine.execSendDelivery c s
  | .fetakeRetry c => Sys2Proof.Machine.execFetakeRetry c s
  | .remoteOperation c => Sys2Proof.Machine.execRemoteOperation c s
  | .barrierRelease c n => Sys2Proof.Machine.execBarrierRelease c n s
  | .startMessage c entry => Sys2Proof.Machine.execStartMessage c entry s
  | .instructionStoreWrite c addr w => Sys2Proof.Machine.execInstructionStoreWrite c addr w s
  | .levelStep c => Sys2Proof.Machine.execLevelStep c s
  | .lend n => Sys2Proof.Machine.execLend n s
  | .recallMsg n => Sys2Proof.Machine.execRecall n s
  | .returnMsg n => Sys2Proof.Machine.execReturnMsg n s
  | .cycleNotice n => Sys2Proof.Machine.execCycleNotice n s
  | .governorCycle => Sys2Proof.Machine.execGovernorCycle s
  | .parkedShareTimeout c => Sys2Proof.Machine.execParkedShareTimeout c s
  | .linkWidthChange l => Sys2Proof.Machine.execLinkWidthChange l s
  | .regulatorFailure c => Sys2Proof.Machine.execRegulatorFailure c s
  | .slewBoundary cl => Sys2Proof.Machine.execSlewBoundary cl s
  | .chunkCommit c spurious => Sys2Proof.Machine.execChunkCommit c spurious s
  | .pageWalk c va w => Sys2Proof.Machine.execPageWalk c va w s
  | .directoryRequest c line kind => Sys2Proof.Machine.execDirectoryRequest c line kind s
  | .translationInvalidate part va => Sys2Proof.Machine.execTranslationInvalidate part va s
  | .copyCommand c => Sys2Proof.Machine.execCopyCommand c s
  | .copySegment c corrected => Sys2Proof.Machine.execCopySegment c corrected s
  | .planEntry c => Sys2Proof.Machine.execPlanEntry c s
  | .gangJoin c => Sys2Proof.Machine.execGangJoin c s
  | .mmaCommand c => Sys2Proof.Machine.execMmaCommand c s
  | .kStep c => Sys2Proof.Machine.execKStep c s
  | .mmaCompletion c corrected => Sys2Proof.Machine.execMmaCompletion c corrected s
  | .mdrainCommand c corrected => Sys2Proof.Machine.execMdrainCommand c corrected s
  | .routerCommand c => Sys2Proof.Machine.execRouterCommand c s
  | .streamPacket c e => Sys2Proof.Machine.execStreamPacket c e s
  | .entryUpdate c e => Sys2Proof.Machine.execEntryUpdate c e s
  | .rtsendCompletion c corrected => Sys2Proof.Machine.execRtsendCompletion c corrected s
  | .lostNotice c cid => Sys2Proof.Machine.execLostNotice c cid s
  | .fault => Sys2Proof.Machine.execFault s
  | .gateRequest c => Sys2Proof.Machine.execGateRequest c s
  | .launch vf => Sys2Proof.Machine.execLaunch vf s
  | .launchStart id => Sys2Proof.Machine.execLaunchStart id s
  | .resetpart vf => Sys2Proof.Machine.execResetpart vf s
  | .readlog vf => Sys2Proof.Machine.execReadlog vf s
  | .resync vf => Sys2Proof.Machine.execResync vf s
  | .resizeApply part => Sys2Proof.Machine.execResizeApply part s
  | .linkFailure loss => Sys2Proof.Machine.execLinkFailure loss s
  | .scrubError pa => Sys2Proof.Machine.execScrubError pa s
  | .watchdog c => Sys2Proof.Machine.execWatchdog c s
  | .synchronisedStop part t => Sys2Proof.Machine.execSynchronisedStop part t s
  | .stopAtT part => Sys2Proof.Machine.execStopAtT part s
  | .flushToken c => Sys2Proof.Machine.execFlushToken c s
  | .resume part t2 => Sys2Proof.Machine.execResume part t2 s
  | .resumeRelease part => Sys2Proof.Machine.execResumeRelease part s
  | .sliceEnd part => Sys2Proof.Machine.execSliceEnd part s
  | .tokenPeriod => Sys2Proof.Machine.execTokenPeriod s
  | .bucketRefill => Sys2Proof.Machine.execBucketRefill s
  | .gateSetup g entries w => Sys2Proof.Machine.execGateSetup g entries w s
  | .gateClose g => Sys2Proof.Machine.execGateClose g s
  | .gateRelease g => Sys2Proof.Machine.execGateRelease g s
  | .migration part dst => Sys2Proof.Machine.execMigration part dst s
  | .cutover part => Sys2Proof.Machine.execCutover part s
  | .vfReset vf => Sys2Proof.Machine.execVfReset vf s
  | .resize part masks => Sys2Proof.Machine.execResize part masks s
  | .reconfigureAdd e => Sys2Proof.Machine.execReconfigureAdd e s
  | .reconfigureRemove e => Sys2Proof.Machine.execReconfigureRemove e s
  | .reconfigureShare e => Sys2Proof.Machine.execReconfigureShare e s
  | .reconfigureUnshare e => Sys2Proof.Machine.execReconfigureUnshare e s
  | .reconfigureSlice e => Sys2Proof.Machine.execReconfigureSlice e s
  | .sqtail vf v => Sys2Proof.Machine.execSqtail vf v s
  | .eqhead vf v => Sys2Proof.Machine.execEqhead vf v s
  | .barRegisterWrite vf reg v => Sys2Proof.Machine.execBarRegisterWrite vf reg v s
  | .monitorRestart => Sys2Proof.Machine.execMonitorRestart s
  | .powerOn b => Sys2Proof.Machine.execPowerOn b s
  | .monitorUpdate version ok => Sys2Proof.Machine.execMonitorUpdate version ok s
  | .telemetryInterval recs => Sys2Proof.Machine.execTelemetryInterval recs s
  | .debugHold c pc => Sys2Proof.Machine.execDebugHold c pc s
  | .debugStep c => Sys2Proof.Machine.execDebugStep c s
  | .poison p => Sys2Proof.Machine.execPoison p s
  | .debugRun => Sys2Proof.Machine.execDebugRun s
  | .vfEnable vf policy => Sys2Proof.Machine.execVfEnable vf policy s
  | .policyImageLoad version ok => Sys2Proof.Machine.execPolicyImageLoad version ok s
  | .allotmentWrite w => Sys2Proof.Machine.execAllotmentWrite w s
  | .slateSetting w => Sys2Proof.Machine.execSlateSetting w s

end Sys2Proof.Machine
end

