-- ==== Sys2Proof/Machine/Turns.lean ====
section
/-!
DEFINITION. What the next turn is (log 2): stops and releases that are due, then the agenda, then a turn of the next
core; and the fetch of an instruction (01 R8, 03 R52, 13 R245).
-/

namespace Sys2Proof.Machine

/-- The rows of the opcode table that are events, not instructions of a core. -/
def isEvent (i : Instr) : Bool :=
  match i with
  | .sequencerEntryExecute _ | .waitResume _ | .sendDelivery _ | .fetakeRetry _ | .remoteOperation _
  | .barrierRelease _ _ | .startMessage _ _ | .instructionStoreWrite _ _ _ | .levelStep _ | .lend _ | .recallMsg _
  | .returnMsg _ | .cycleNotice _ | .governorCycle | .parkedShareTimeout _ | .linkWidthChange _
  | .regulatorFailure _ | .slewBoundary _ | .chunkCommit _ _ | .pageWalk _ _ _ | .directoryRequest _ _ _
  | .translationInvalidate _ _ | .copyCommand _ | .copySegment _ _ | .planEntry _ | .gangJoin _ | .mmaCommand _
  | .kStep _ | .mmaCompletion _ _ | .mdrainCommand _ _ | .routerCommand _ | .streamPacket _ _ | .entryUpdate _ _
  | .rtsendCompletion _ _ | .lostNotice _ _ | .fault | .linkFailure _ | .scrubError _ | .watchdog _
  | .synchronisedStop _ _ | .stopAtT _ | .flushToken _ | .resume _ _ | .resumeRelease _ | .sliceEnd _
  | .tokenPeriod | .bucketRefill | .gateSetup _ _ _ | .gateClose _ | .gateRelease _ | .migration _ _ | .cutover _
  | .vfReset _ | .resize _ _ | .resizeApply _ | .reconfigureAdd _ | .reconfigureRemove _ | .reconfigureShare _
  | .reconfigureUnshare _ | .reconfigureSlice _ | .sqtail _ _ | .eqhead _ _ | .barRegisterWrite _ _ _
  | .launch _ | .launchStart _ | .resetpart _ | .readlog _ | .resync _ | .monitorRestart | .powerOn _
  | .monitorUpdate _ _ | .telemetryInterval _ | .debugHold _ _ | .debugStep _ | .poison _ | .gateRequest _
  | .debugRun | .vfEnable _ _ | .policyImageLoad _ _ | .allotmentWrite _ | .slateSetting _ => true
  | _ => false

/-! ### Fetching (03 R52, R65, R66) -/

/-- The halfword at an address of an instruction store. -/
def istoreHalf (m : List Host.Cell) (a : BitVec 16) : Half := memGet m (a + 1).toNat ++ memGet m a.toNat

/-- The five halfwords from pc, which hold any instruction (R54). -/
def Core.fetchHalves (k : Core) : List Half :=
  (List.range 5).map (fun i => istoreHalf k.istore (k.arch.pc + BitVec.ofNat 16 (2 * i)))

/-- Whether a core's instruction is a boundary instruction (13 R245). -/
def isBoundary (c : CoreId) (a : Arch) (i : Instr) : Bool :=
  match i with
  | .cpy _ _ _ _ | .cpyx _ _ _ _ _ | .mma _ _ _ _ _ | .mdrain _ _ _ _ | .rtsend _ _ _
  | .send _ _ _ _ | .recv _ _ | .rpoll _ _ | .barv _ | .bmask _ _ | .sstep | .fetake _ _ | .feput _ _ _
  | .gpost _ _ _ | .gtake _ _ _ | .gstat _ _ _ | .gerr _ _ _ | .grearm _ _ _ | .fence _ | .chunk | .halt => true
  | .atoml _ x _ _ _ => addrCore (a.getX x) != c
  | .swr _ sid => 0x20 <= sid.toNat && sid.toNat < 0x38
  | _ => false

/-- Whether a core executes instructions: it runs, is not blocked, and is not gated (10 R203). -/
def Core.executes (k : Core) : Bool := k.run == .running && k.wait.isNone && k.power.cur != gatedLevel

/-- Whether a breakpoint stops the core at its next instruction (11 R226). -/
def Core.atBreak (k : Core) : Bool := !k.dbg.hold && !k.dbg.stepOne && k.dbg.brks.contains k.arch.pc

/-- Whether the debugger holds the core. -/
def Core.debugHolds (k : Core) : Bool := k.dbg.hold && !k.dbg.stepOne

/-- What a turn does: it executes a row of the table, or has this outcome. -/
inductive Act where
  | run (i : Instr)
  | done (o : Out)

/-- The executing core ready to execute an instruction of a length: its latch, and the chunk that holds the
instruction. -/
def Core.readyFor (k : Core) (c : CoreId) (i : Instr) (len : Nat) : Core :=
  let k := { k with ilen := len }
  if isBoundary c k.arch i then { k with await := false } else k.beginChunk

/-- Whether the instruction store is uncorrectable where the next instruction is fetched (19 R343). -/
def Core.fetchBad (k : Core) : Bool :=
  (List.range (Raw.wordsRead (k.fetchHalves.map BitVec.toNat) .empty)).any (fun i => k.errs.istore.contains (k.arch.pc + BitVec.ofNat 16 (2 * i)).toNat)

/-- The instruction at a core's pc, or its trap; a fetch of an uncorrectable word is a MEMERR with the pc (19 R343). -/
def State.fetch (s : State) (c : CoreId) : State × Act :=
  let t : State := { s with turn := c }
  if t.me.fetchBad then (t, .done (t.faultMe .memErr .istore (coreAddr c t.pc.toNat)))
  else match decodeAt t.me.arch.pc t.me.fetchHalves with
  | .error x => (t, .done (t.takeTrap x))
  | .ok (i, len) => ((t.setMe (t.me.readyFor c i len)).notePrio c, .run i)

/-- Whether a core's next instruction waits for the run before it (14 R279). -/
def Core.waitsForRun (k : Core) : Bool := k.await && !k.chunks.isEmpty

/-- A core's instruction turn. -/
def State.coreTurn (s : State) (c : CoreId) : State × Act :=
  let k := s.core c
  if !k.executes || k.debugHolds || k.waitsForRun then (s, .done (.next { s with turn := c }))
  else if k.atBreak then (s, .done (.next { s.setCore c (k.debugHeld s.time) with turn := c }))
  else s.fetch c

/-! ### Stops and releases that are due (19 R341, R345, R350) -/

/-- What a partition's stop or release does now. -/
def State.dueAt (s : State) (id : Nat) (p : Part) : Option Instr :=
  let first := fun (i : Instr) => if s.pendingFaults.any (fun d => d.part == some id) then Instr.fault else i
  match p.stop with
  | .requested t => if t.toNat <= s.time.toNat then some (first (.stopAtT id)) else none
  | .sweeping =>
    match (s.coresOf id).find? (fun c => !(s.core c).flushed) with
    | some c => some (first (.flushToken c))
    | none => some (first (.stopAtT id))
  | .resuming t => if t.toNat <= s.time.toNat then some (.resumeRelease id) else none
  | .settling => if (s.atGates id).isEmpty then some (first (.stopAtT id)) else none
  | .none => if s.sliceEnds id p then some (.sliceEnd id) else none
  | .stopped => none

/-- The refills that are due: each whole microsecond and each token period has its own (20 R358, R361). -/
def State.refillDue (s : State) : Option Instr :=
  if !s.gates.isEmpty && s.bucketsAt < s.time.toNat / 1700 then some .bucketRefill
  else if s.budgeted && s.tokensAt < s.time.toNat / 17000 then some .tokenPeriod
  else none

/-- Whether a core's waiting take has another edge than its word gives it: a store or a delivery has re-pointed the
word, or it has become full or empty (09 R200). -/
def State.edgeMoves (s : State) (k : Core) : Bool :=
  match k.wait with
  | some ⟨.fetake _ a, _, st, _, e⟩ =>
    (st = 1 || st = 2 || st = 5) && k.run == .running && e != s.wordEdge (k.arch.getX a)
  | _ => false

/-- The first take whose edge moves: at once, before any other turn. -/
def State.edgeDue (s : State) : Option Instr :=
  (s.cores.find? (fun e => s.edgeMoves e.2)).map (fun e => .waitResume (coreOf e.1))

/-- The first edge, stop, release or refill that is due. -/
def State.due (s : State) : Option Instr := s.edgeDue <|> (s.parts.findSome? (fun e => s.dueAt e.1 e.2)) <|> s.refillDue

/-! ### The turns that follow when the agenda is empty (log 2) -/

/-- The event by which a blocked core may go on. -/
def Core.waitEvent (k : Core) (c : CoreId) : List Instr :=
  match k.wait with
  | none => []
  | some w =>
    if k.run != .running then []
    else match w.instr with
      | .send _ _ _ _ => [.sendDelivery c]
      | .fetake _ _ => if w.stage = 2 then [.fetakeRetry c] else if w.stage = 4 || w.stage = 5 then [.remoteOperation c] else [.waitResume c]
      | .feput _ _ _ | .fepeek _ _ _ | .atoml _ _ _ _ _ => [.remoteOperation c]
      | .gpost _ _ _ | .gtake _ _ _ | .gstat _ _ _ | .gerr _ _ _ | .grearm _ _ _ => []
      | _ => [.waitResume c]

/-- The request of a core that waits for its gate's reply: also of one whose partition only waits for such replies. -/
def State.gateEvent (s : State) (c : CoreId) : List Instr :=
  let k := s.core c
  if k.atGate && (k.run == .running || s.settling k) then [.gateRequest ⟨c, .gate⟩] else []

/-- The slice's next event. -/
def Core.sliceEvent (k : Core) (c : CoreId) : List Instr :=
  match k.slice.cmd with
  | none =>
    match k.q4 with
    | [] => []
    | m :: _ => if m.isMma then [.mmaCommand c] else [.mdrainCommand c false]
  | some r =>
    match r.phase with
    | .joining => [.gangJoin c]
    | .ready | .granted => []
    | .ended _ => [.mmaCompletion c false]
    | .running => if k.stepping then [.kStep c] else if r.cmd.isMma then [.mmaCompletion c false] else [.mdrainCommand c false]

/-- The router's next events. -/
def Core.routerEvents (k : Core) (c : CoreId) : List Instr :=
  (if k.rcmd.isSome || !k.q6.isEmpty then [.routerCommand c, .rtsendCompletion c false] else [])
  ++ (List.finRange 64).filterMap (fun e => if k.committed.views[e] == (k.entries[e]).words then none else some (.entryUpdate c e))
  ++ (List.finRange 64).filterMap (fun e => if (k.entries[e]).buf.isEmpty then none else some (.streamPacket c ⟨e, none⟩))

/-- Whether a cluster's limiter has something to do for a core. -/
def Core.wantsSlew (k : Core) : Bool :=
  k.power.wake.isSome || k.slice.endedNow || k.slice.filling
  || (match k.slice.cmd with
      | some r => r.phase == .ready || r.phase == .granted
      | none => false)

/-- A core's cluster. -/
def clusterIdOf (c : CoreId) : ClusterId := ⟨clusterOf c % 512, Nat.mod_lt _ (by decide)⟩

/-- Whether a core's level has a step to take. -/
def Core.wantsLevel (k : Core) : Bool :=
  k.power.cur != gatedLevel && (k.power.mode == .run || k.power.mode == .recalling) && k.stepGoal != some k.power.cur

/-- The events of a core that may happen now. -/
def State.coreEvents (s : State) (c : CoreId) : List Instr :=
  let k := s.core c
  k.waitEvent c ++ s.gateEvent c
  ++ (if k.headReady then [.sequencerEntryExecute (clusterIdOf c)] else [])
  ++ (if s.commitReady c then [.chunkCommit c false] else [])
  ++ (if !k.q2.isEmpty && k.copy.isNone then [.copyCommand c] else [])
  ++ (if k.copy.isSome then [.copySegment c false] else [])
  ++ (if k.inExchange && k.planAt < k.plan.length then [.planEntry c] else [])
  ++ k.sliceEvent c ++ k.routerEvents c
  ++ (if k.wantsLevel then [.levelStep c] else [])
  ++ (if k.wantsSlew then [.slewBoundary (clusterIdOf c)] else [])
  ++ (List.finRange 8).filterMap (fun n => if s.phaseDone c n then some (.barrierRelease c n) else none)

/-- The event of a function's oldest submission. -/
def Vf.subEvent (v : Vf) (vf : Fin 16) : List Instr :=
  match v.subs with
  | [] => []
  | x :: _ => if x.kind = 1 then [.launch vf] else if x.kind = 2 then [.resetpart vf] else if x.kind = 3 then [.readlog vf] else [.resync vf]

/-- The event of the oldest Amber message. -/
def State.amberEvent (s : State) : List Instr :=
  match s.amber with
  | [] => []
  | .lend _ _ _ _ _ :: _ => [.lend 0]
  | .recallMsg _ _ _ _ _ _ :: _ => [.recallMsg 0]
  | .ret _ _ _ _ _ :: _ => [.returnMsg 0]
  | .notice _ _ _ :: _ => [.cycleNotice 0]

/-- Events of no core that may happen now. -/
def State.deviceEvents (s : State) : List Instr :=
  (if s.pendingFaults.isEmpty then [] else [.fault])
  ++ s.amberEvent
  ++ ((List.finRange 16).map (fun v => (s.vfs[v]).subEvent v)).flatten
  ++ s.launches.filterMap (fun e => if e.2.state == .waiting then some (.launchStart e.1) else none)
  ++ s.parts.filterMap (fun e => if !e.2.resize.isEmpty then some (.resizeApply e.1) else none)

/-- The next listed core after the last one, cyclically. -/
def State.nextCore (s : State) : CoreId :=
  match s.cores.find? (fun e => s.turn.val < e.1) with
  | some e => coreOf e.1
  | none =>
    match s.cores with
    | [] => s.turn
    | e :: _ => coreOf e.1

/-- A turn when the agenda is empty: one of the next core's events, the device's events and that core's instruction,
in rotation. -/
def State.defaultTurn (s : State) : State × Act :=
  let c := s.nextCore
  let es := s.coreEvents c ++ s.deviceEvents
  match es[s.fresh / s.cores.length % (es.length + 1)]? with
  | some i => ({ s with turn := c }, .run i)
  | none => s.coreTurn c

/-- Time passes at the start of a turn (log 3), and Slate records each interval of 1 ms that has ended (24 R411). -/
def State.tick (s : State) : State :=
  let t := s.time + BitVec.ofNat 64 (Config.elapsed s.fresh)
  { s.recordTo (t.toNat / 1700000) (fun i d => Config.measured s.fresh (voltageDomains * (i + 1) + d)) with
    time := t
    fresh := s.fresh + 1 }

/-- The next turn, once time has passed. -/
def State.nextTurn (s : State) : State × Act :=
  match s.due with
  | some i => (s, .run i)
  | none =>
    match s.agenda with
    | .core c :: r => { s with agenda := r }.coreTurn c
    | .event i :: r =>
      if isEvent i then ({ s with agenda := r }, .run i) else (s, .done (.fault .notAnEvent))
    | [] => s.defaultTurn

/-! ### Placing an instruction (log 4) -/

/-- Bytes of an instruction store from pc on, by halfwords. -/
def putHalves (m : List Host.Cell) (pc : BitVec 16) : List Half → List Host.Cell
  | [] => m
  | h :: hs =>
    putHalves (memSet (memSet m pc.toNat (h.extractLsb' 0 8)) (pc + 1).toNat (h.extractLsb' 8 8)) (pc + 2) hs

/-- A core put where its next instruction is the given halfwords: running at level 6 with the default share request,
not blocked, not held. -/
def Core.placed (k : Core) (hs : List Half) : Core :=
  { k with
    istore := putHalves k.istore k.arch.pc hs
    run := .running
    wait := none
    dbg := { k.dbg with hold := false, stepOne := false, brks := [] }
    power := { k.power with own := 10, mode := .run, cur := 6, edge := none } }

end Sys2Proof.Machine
end

