-- ==== Sys2Proof/Machine/Step.lean ====
section
/-!
DEFINITION. One step of the machine: time passes, and the next turn executes one row of the opcode table (log 2).
-/

namespace Sys2Proof.Machine

/-- One step. -/
def step (s : State) : Host.Outcome State Fault Refusal :=
  let t := s.tick.nextTurn
  match t.2 with
  | .run i => exec i t.1
  | .done o => o

/-- The machine with an instruction, given as the opcode table numbers its bits, where core 0 fetches next, and core
0 next to take a turn (log 4). -/
def State.withFetchWord (s : State) (nbits w : Nat) : State :=
  { s.setCore 0 ((s.core 0).placed ((tableHalves nbits w ++ List.replicate 5 0).take 5)) with
    governor := s.governor + (s.core 0).power.own - 10
    agenda := [.core 0] }

end Sys2Proof.Machine
end

