-- ==== Sys2Proof/Safety.lean ====
section
/-!
DEFINITION. What statements about runs count as sound and as safe: the canonical form of memory, agendas that hold
turns only, and steps that have a next state.
-/

namespace Sys2Proof.Machine

/-- The memory of the package is in its canonical form: addresses rising, no byte listed that an unlisted address
reads as. -/
def State.memOk (s : State) : Prop := memWf s.mem = true

/-- Every event of the agenda is a row of the table that is an event; a step can fault on nothing else (log 2). -/
def State.agendaOk (s : State) : Bool :=
  s.agenda.all (fun t => match t with
    | .core _ => true
    | .event i => isEvent i)

/-- An outcome is safe if the machine goes on. -/
def Safe (o : Host.Outcome State Fault Refusal) : Prop := ∃ t, o = .next t

end Sys2Proof.Machine
end

