-- ==== Sys2Proof/Certificates/Slice0/Obligations.lean ====
section
/-!
DEFINITION. The statements for the provers. Each docstring names the rule of spec/ it formalises; the helpers come
first.
-/

open Sys2Proof Sys2Proof.Machine

namespace Sys2Proof.Claims

/-! ### What a completed instruction leaves -/

/-- The executing core's instruction has completed with sequential flow and written v to x d. -/
def wrote (s : State) (d : XReg) (v : Word) : State := s.completed (s.me.arch.setX d v)

/-- The instruction has completed with sequential flow and written no register. -/
def kept (s : State) : State := s.completed s.me.arch

/-- `exec i s` answers a next state, in which the instruction has completed and x d holds a value with property P. -/
def Writes (i : Instr) (s : State) (d : XReg) (P : Word → Prop) : Prop := ∃ v, P v ∧ exec i s = .next (wrote s d v)

/-- A comparison's result: 1 where it holds, else 0. -/
def IsFlag (p : Prop) (v : Word) : Prop := (p → v = 1) ∧ (¬p → v = 0)

/-- Everything but the listed cores is unchanged, and of these only the executing one. -/
def OnlyMe (s t : State) : Prop := t = { s with cores := t.cores } ∧ ∀ c, c ≠ s.turn → t.core c = s.core c

/-- Of a core, at most its registers, its open chunk's accounts and priority and whether it waits for a run, its
debugger's single step and its watchdog have changed. -/
def OnlyArch (k l : Core) : Prop :=
  l = { k with
    arch := l.arch, chunks := l.chunks, prioPc := l.prioPc, await := l.await, dbg := l.dbg, progress := l.progress }

/-- Of a core's registers, at most the x registers, the next pc and the loop counts have changed. -/
def OnlyX (a b : Arch) : Prop := b = { a with x := b.x, pc := b.pc, loop0 := b.loop0, loop1 := b.loop1 }

/-- The executing core is at the end of what it has started: its chunk can end with nothing to commit, its sequencer is
empty, and it waits for nothing. -/
abbrev Quiet (s : State) : Prop := s.me.breakRun.endChunk.chunks = [] ∧ s.me.seq = [] ∧ s.me.wait = none

/-- The state once the executing core's chunk has ended. -/
def ended (s : State) : State := s.setMe s.me.breakRun.endChunk

end Sys2Proof.Claims

open Sys2Proof.Claims

/-! ### Scalar instructions (05) -/

/-- R96: the sixteen register operations, each with its value in exact arithmetic. -/
def Obligations.IntegerRegisterOperations : Prop :=
  ∀ (s : State) (d a b : XReg),
    Writes (.add d a b) s d (fun v => v.toNat = ((s.x a).toNat + (s.x b).toNat) % 2 ^ 64)
    ∧ Writes (.sub d a b) s d (fun v => (v.toNat : Int) = ((s.x a).toNat - (s.x b).toNat : Int) % 2 ^ 64)
    ∧ Writes (.and d a b) s d (fun v => ∀ i < 64, v.getLsbD i = ((s.x a).getLsbD i && (s.x b).getLsbD i))
    ∧ Writes (.or d a b) s d (fun v => ∀ i < 64, v.getLsbD i = ((s.x a).getLsbD i || (s.x b).getLsbD i))
    ∧ Writes (.xor d a b) s d (fun v => ∀ i < 64, v.getLsbD i = ((s.x a).getLsbD i ^^ (s.x b).getLsbD i))
    ∧ Writes (.sll d a b) s d (fun v => v.toNat = (s.x a).toNat * 2 ^ ((s.x b).toNat % 64) % 2 ^ 64)
    ∧ Writes (.srl d a b) s d (fun v => v.toNat = (s.x a).toNat / 2 ^ ((s.x b).toNat % 64))
    ∧ Writes (.sra d a b) s d (fun v => v.toInt = (s.x a).toInt / 2 ^ ((s.x b).toNat % 64))
    ∧ Writes (.seq d a b) s d (IsFlag (s.x a = s.x b))
    ∧ Writes (.sne d a b) s d (IsFlag (s.x a ≠ s.x b))
    ∧ Writes (.slt d a b) s d (IsFlag ((s.x a).toInt < (s.x b).toInt))
    ∧ Writes (.sltu d a b) s d (IsFlag ((s.x a).toNat < (s.x b).toNat))
    ∧ Writes (.min d a b) s d (fun v => v.toInt = Min.min (s.x a).toInt (s.x b).toInt)
    ∧ Writes (.max d a b) s d (fun v => v.toInt = Max.max (s.x a).toInt (s.x b).toInt)
    ∧ Writes (.minu d a b) s d (fun v => v.toNat = Min.min (s.x a).toNat (s.x b).toNat)
    ∧ Writes (.maxu d a b) s d (fun v => v.toNat = Max.max (s.x a).toNat (s.x b).toNat)

/-- R97, R98: immediates of at most 64 bits, sign-extended; MV (R104) and SEL (R112), whose condition is d. -/
def Obligations.ImmediateAndMoveOperations : Prop :=
  ∀ (s : State) (d a b : XReg) (v : Int) (n : Nat),
    Writes (.addi d a v) s d (fun w => (w.toNat : Int) = ((s.x a).toNat + v) % 2 ^ 64)
    ∧ Writes (.andi d a v) s d (fun w => w = s.x a &&& BitVec.ofInt 64 v)
    ∧ Writes (.ori d a v) s d (fun w => w = s.x a ||| BitVec.ofInt 64 v)
    ∧ Writes (.xori d a v) s d (fun w => w = s.x a ^^^ BitVec.ofInt 64 v)
    ∧ Writes (.slli d a n) s d (fun w => w.toNat = (s.x a).toNat * 2 ^ n % 2 ^ 64)
    ∧ Writes (.srli d a n) s d (fun w => w.toNat = (s.x a).toNat / 2 ^ n)
    ∧ Writes (.srai d a n) s d (fun w => w.toInt = (s.x a).toInt / 2 ^ n)
    ∧ Writes (.slti d a v) s d (IsFlag ((s.x a).toInt < v))
    ∧ Writes (.li d v) s d (fun w => (w.toNat : Int) = v % 2 ^ 64)
    ∧ Writes (.mv d a) s d (fun w => w = s.x a)
    ∧ Writes (.sel d a b) s d (fun w => (s.x d ≠ 0 → w = s.x a) ∧ (s.x d = 0 → w = s.x b))

/-- R99: products and quotients in exact arithmetic, counts of bits, and the bytes in reverse order. -/
def Obligations.MultiplyDivideAndCount : Prop :=
  ∀ (s : State) (d a b : XReg),
    Writes (.mul d a b) s d (fun v => v.toNat = (s.x a).toNat * (s.x b).toNat % 2 ^ 64)
    ∧ Writes (.mulh d a b) s d (fun v => v.toInt = (s.x a).toInt * (s.x b).toInt / 2 ^ 64)
    ∧ Writes (.mulhu d a b) s d (fun v => v.toNat = (s.x a).toNat * (s.x b).toNat / 2 ^ 64)
    ∧ Writes (.mulhsu d a b) s d (fun v => v.toInt = (s.x a).toInt * (s.x b).toNat / 2 ^ 64)
    ∧ Writes (.div d a b) s d (fun v => s.x b ≠ 0 →
        v = BitVec.ofInt 64 ((s.x a).toInt.tdiv (s.x b).toInt))
    ∧ Writes (.divu d a b) s d (fun v => s.x b ≠ 0 → v.toNat = (s.x a).toNat / (s.x b).toNat)
    ∧ Writes (.rem d a b) s d (fun v => s.x b ≠ 0 →
        v.toInt = (s.x a).toInt - (s.x b).toInt * (s.x a).toInt.tdiv (s.x b).toInt)
    ∧ Writes (.remu d a b) s d (fun v => s.x b ≠ 0 → v.toNat = (s.x a).toNat % (s.x b).toNat)
    ∧ Writes (.clz d a) s d (fun v => v.toNat ≤ 64 ∧ (∀ i < 64, 64 - v.toNat ≤ i → (s.x a).getLsbD i = false)
      ∧ (v.toNat < 64 → (s.x a).getLsbD (63 - v.toNat) = true))
    ∧ Writes (.ctz d a) s d (fun v => v.toNat ≤ 64 ∧ (∀ i < v.toNat, (s.x a).getLsbD i = false)
      ∧ (v.toNat < 64 → (s.x a).getLsbD v.toNat = true))
    ∧ Writes (.popc d a) s d (fun v => v.toNat = ((List.range 64).filter (fun i => (s.x a).getLsbD i)).length)
    ∧ Writes (.bswap d a) s d (fun v => ∀ i < 8, v.extractLsb' (8 * i) 8 = (s.x a).extractLsb' (8 * (7 - i)) 8)

/-- R100: every division completes, whatever its operands and its destination: it writes a value and flows on, so that
it never traps; the values are those of the table, its worked rows and the two rows fixed by definition. -/
def Obligations.DivisionNeverTraps : Prop :=
  ∀ (s : State) (d a b : XReg), ∃ v1 v2 v3 v4 : Word,
    exec (.div d a b) s = .next (wrote s d v1) ∧ exec (.rem d a b) s = .next (wrote s d v2)
      ∧ exec (.divu d a b) s = .next (wrote s d v3) ∧ exec (.remu d a b) s = .next (wrote s d v4)
      ∧ (s.x b = 0 → v1 = BitVec.allOnes 64 ∧ v2 = s.x a ∧ v3 = BitVec.allOnes 64 ∧ v4 = s.x a)
      ∧ (s.x a = s.x b → s.x b ≠ 0 → v1 = 1 ∧ v2 = 0 ∧ v3 = 1 ∧ v4 = 0)
      ∧ (s.x a = 7 → s.x b = -2 → v1 = -3 ∧ v2 = 1 ∧ v3 = 0 ∧ v4 = 7)
      ∧ (s.x a = -7 → s.x b = 2 → v1 = -3 ∧ v2 = -1 ∧ v3 = 0x7FFFFFFFFFFFFFFC ∧ v4 = 1)
      ∧ (s.x a = 0x8000000000000000 → s.x b = -1 →
          v1 = 0x8000000000000000 ∧ v2 = 0 ∧ v3 = 0 ∧ v4 = 0x8000000000000000)
      ∧ (s.x a = 0x8000000000000000 → s.x b = 2 →
          v1 = 0xC000000000000000 ∧ v2 = 0 ∧ v3 = 0x4000000000000000 ∧ v4 = 0)

/-- R101: an exact address in range is taken with the tag of a; outside it the instruction traps with PTROVF; TAGP takes
every tag but the refused ones, which trap with FMT. -/
def Obligations.PointerArithmetic : Prop :=
  ∀ (s : State) (d a b : XReg) (imm : Int),
    let addr : Int := (s.x a).toNat % 2 ^ 56
    let tag : Int := ((s.x a).toNat / 2 ^ 56 : Nat)
    let moves := fun (i : Instr) (e : Int) =>
      (0 ≤ e → e < 2 ^ 56 → Writes i s d (fun v => (v.toNat : Int) = tag * 2 ^ 56 + e))
      ∧ (e < 0 ∨ 2 ^ 56 ≤ e → exec i s = s.trap .ptrovf (BitVec.ofInt 64 e))
    let t := (s.x b).toNat % 256
    let refused := 16 ≤ t / 8 ∨ t % 8 ∈ [1, 2, 6, 7] ∨ (t % 8 ≠ 0 ∧ t / 8 ∉ [1, 3, 7, 8, 9])
    moves (.addp d a b) (addr + (s.x b).toInt) ∧ moves (.subp d a b) (addr - (s.x b).toInt)
    ∧ moves (.addpi d a imm) (addr + imm)
    ∧ (¬refused → Writes (.tagp d a b) s d (fun v => (v.toNat : Int) = t * 2 ^ 56 + addr))
    ∧ (refused → exec (.tagp d a b) s = s.trap .fmt (BitVec.ofNat 64 t))

/-- R103, R104: taken transfers set pc and never end a loop iteration; a branch that is not taken flows on; CALL and
JALR link; a bad register target traps with ALIGN. R105: LOOP and LOOPI arm one level and leave the other; a count of 0
skips the body; in a handler they trap. -/
def Obligations.BranchesJumpsAndLoops : Prop :=
  (∀ (s : State) (d a : XReg) (off : Int),
    let tgt : BitVec 16 := BitVec.ofInt 16 (s.pc.toNat + 2 * off)
    let link : Word := BitVec.ofNat 64 ((s.pc.toNat + s.me.ilen) % 2 ^ 16)
    let cond := fun (i : Instr) (p : Prop) =>
      (p → exec i s = .next (s.jumped s.me.arch tgt)) ∧ (¬p → exec i s = .next (kept s))
    let goes := fun (i : Instr) (ar : Arch) =>
      ((s.x a).toNat % 2 = 0 → (s.x a).toNat < 2 ^ 16 → exec i s = .next (s.jumped ar (BitVec.ofNat 16 (s.x a).toNat)))
      ∧ ((s.x a).toNat % 2 = 1 ∨ 2 ^ 16 ≤ (s.x a).toNat → exec i s = s.trap .align (s.x a))
    cond (.beqz a off) (s.x a = 0) ∧ cond (.bnez a off) (s.x a ≠ 0)
    ∧ cond (.bltz a off) ((s.x a).toInt < 0) ∧ cond (.bgez a off) (0 ≤ (s.x a).toInt)
    ∧ exec (.br off) s = .next (s.jumped s.me.arch tgt)
    ∧ exec (.call off) s = .next (s.jumped (s.me.arch.setX 1 link) tgt)
    ∧ goes (.jr a) s.me.arch ∧ goes (.jalr d a) (s.me.arch.setX d link))
  ∧ (∀ (s : State) (level : Bool) (c : XReg) (imm len : Nat),
    let st := s.npc
    let en : BitVec 16 := st + BitVec.ofNat 16 (2 * len)
    let arm := fun (w : Word) => if level then { s.me.arch with loop1 := w } else { s.me.arch with loop0 := w }
    let arms := fun (i : Instr) (cnt : Nat) =>
      (s.me.arch.inHandler = false →
        let n : BitVec 16 := BitVec.ofNat 16 (Min.min cnt 65535)
        let ar := arm (st ++ en ++ n ++ n)
        (cnt ≠ 0 → exec i s = .next (s.completed ar)) ∧ (cnt = 0 → exec i s = .next (s.jumped ar en)))
      ∧ (s.me.arch.inHandler = true → exec i s = s.illegal)
    arms (.loop level c len) (s.x c).toNat ∧ arms (.loopi level imm len) imm)

/-- R21: the next pc and the loop counts after an instruction that leaves the registers a and flows on, and after a
taken transfer; nothing else of a changes. -/
def Obligations.NextPcAndLoopEnds : Prop :=
  ∀ (s : State) (a : Arch) (tgt : BitVec 16),
    let t := (s.completed a).me.arch
    let npc : BitVec 16 := a.pc + BitVec.ofNat 16 s.me.ilen
    let at0 := loopRem a.loop0 ≠ 0 ∧ npc = loopEnd a.loop0
    let at1 := loopRem a.loop1 ≠ 0 ∧ npc = loopEnd a.loop1
    let rem := fun (w : Word) (r : BitVec 16) => loopStart w ++ loopEnd w ++ loopReload w ++ r
    t = { a with pc := t.pc, loop0 := t.loop0, loop1 := t.loop1 }
    ∧ (s.jumped a tgt).me.arch = { a with pc := tgt }
    ∧ (a.inHandler = true → t.pc = npc ∧ t.loop0 = a.loop0 ∧ t.loop1 = a.loop1)
    ∧ (a.inHandler = false →
        (at0 → loopRem a.loop0 ≠ 1 →
          t.pc = loopStart a.loop0 ∧ t.loop0 = rem a.loop0 (loopRem a.loop0 - 1) ∧ t.loop1 = a.loop1)
        ∧ (at0 → loopRem a.loop0 = 1 → ¬at1 → t.pc = npc ∧ t.loop0 = rem a.loop0 0 ∧ t.loop1 = a.loop1)
        ∧ (at0 → loopRem a.loop0 = 1 → at1 →
          t.pc = (if loopRem a.loop1 = 1 then npc else loopStart a.loop1)
          ∧ t.loop0 = rem a.loop0 (loopReload a.loop0) ∧ t.loop1 = rem a.loop1 (loopRem a.loop1 - 1))
        ∧ (¬at0 → at1 →
          t.pc = (if loopRem a.loop1 = 1 then npc else loopStart a.loop1)
          ∧ t.loop0 = a.loop0 ∧ t.loop1 = rem a.loop1 (loopRem a.loop1 - 1))
        ∧ (¬at0 → ¬at1 → t.pc = npc ∧ t.loop0 = a.loop0 ∧ t.loop1 = a.loop1))

/-- R8, R9: x0 reads 0 and p0 reads VL / 8 whatever is written to them; another register reads what was written, a
predicate at most VL / 8; no other register changes. -/
def Obligations.ZeroRegisterAndPredicates : Prop :=
  ∀ (a : Arch) (r q : XReg) (v : Word) (p o : PReg) (n : Nat),
    a.getX 0 = 0 ∧ a.setX 0 v = a
    ∧ (r ≠ 0 → (a.setX r v).getX r = v) ∧ (q ≠ r → (a.setX r v).getX q = a.getX q)
    ∧ a.getP 0 = 256 ∧ a.setP 0 n = a
    ∧ (p ≠ 0 → (a.setP p n).getP p = min n 256) ∧ (o ≠ p → (a.setP p n).getP o = a.getP o)
    ∧ a.getP o ≤ 256

/-! ### Traps (01 R22 to R25, 19 R339) -/

/-- R22, R24: BRK and TRAP complete and enter their trap with the address after them; an instruction that traps enters
with its own address and has no effect; nothing but the five steps happens to the registers (and to what VLOOP
remembers, R142, and to the debt of an undone chunk, log 6). That BRK and TRAP leave the loop counts as they are, and
tpc at the plain next address, where they end a loop's body is the model's choice (log 21). While a handler runs, or
without one, the entry is a DOUBLETRAP fault and changes no register. GATEERR, a store that a gate refuses with an
error response, leaves a record as well (19 R342). In a handler no loop ends, LOOP and LOOPI trap
with ILLEGAL, and a write of a loop count stands for the code that resumes. -/
def Obligations.TrapEntry : Prop :=
  ∀ (s : State) (code : BitVec 8) (x : Trap) (r : XReg) (level : Bool) (n len : Nat), s.me.seq = [] →
    let entered := fun (t : State) (ret : BitVec 16) (y : Trap) =>
      t.me.arch = { s.me.arch with
        tpc := ret.setWidth 64, tcause := BitVec.ofNat 64 y.cause.code, tval := y.tval, tsave := 1
        pc := s.me.arch.tvec.setWidth 16, owed := [], pushes := 0, redo := none }
      ∧ OnlyMe (if y.cause = .gateerr then s.logRefusal s.turn .global y.tval else s) t ∧ OnlyArch s.me t.me
    let doubled := fun (t : State) (y : Trap) =>
      t.me.arch = s.me.arch ∧ t.me.run = .frozen
      ∧ t.pendingFaults = s.pendingFaults ++
          [⟨.doubleTrap, .pc, s.pc.setWidth 64, y.cause.code, s.turn, s.me.part, s.me.launch⟩]
    (s.me.arch.inHandler = false → s.me.arch.tvec ≠ 0 →
      (∃ t, exec (.brk code) s = .next t ∧ entered t s.npc ⟨.brk, code.setWidth 64⟩)
      ∧ (∃ t, exec (.trap code) s = .next t ∧ entered t s.npc ⟨.swtrap, code.setWidth 64⟩)
      ∧ (∃ t, s.takeTrap x = .next t ∧ entered t s.pc x))
    ∧ (s.me.arch.inHandler = true ∨ s.me.arch.tvec = 0 →
      (∃ t, exec (.brk code) s = .next t ∧ doubled t ⟨.brk, code.setWidth 64⟩)
      ∧ (∃ t, exec (.trap code) s = .next t ∧ doubled t ⟨.swtrap, code.setWidth 64⟩)
      ∧ (∃ t, s.takeTrap x = .next t ∧ doubled t x))
    ∧ (s.me.arch.inHandler = true →
      (∀ a : Arch, a.inHandler = true → (s.completed a).me.arch = { a with pc := a.pc + BitVec.ofNat 16 s.me.ilen })
      ∧ exec (.loop level r len) s = s.illegal ∧ exec (.loopi level n len) s = s.illegal
      ∧ ((s.x r).toNat / 2 ^ 48 % 2 = 0 → (s.x r).toNat / 2 ^ 32 % 2 = 0 → exec (.loopCntWrite level r) s =
        .next (s.completed (if level then { s.me.arch with loop1 := s.x r } else { s.me.arch with loop0 := s.x r }))))

/-- R25: TRET sets pc to tpc and tsave.h to 0, and it changes nothing else of the registers; outside a handler it traps
with ILLEGAL. R142: where it returns to a VLOOP that trapped in a repetition, the entries pushed before that VLOOP are
remembered again (an inference from R142: R25 itself names no such memory). A handler may write tpc, whose bit 0 stays
0, so that TRET resumes at an even address, and tsave. A trap that reaches a handler, or a core without one, is a
DOUBLETRAP fault. -/
def Obligations.TrapReturn : Prop :=
  ∀ (s : State) (r : XReg) (x : Trap) (at_ : BitVec 16) (rec_ : List Pushed) (n : Nat),
    let out : Arch := { s.me.arch with pc := s.me.arch.tpc.setWidth 16, tsave := 0, redo := none }
    let returns := fun (b : Arch) => ∃ t, exec .tret s = .next t ∧ t.me.arch = b ∧ OnlyMe s t ∧ OnlyArch s.me t.me
    (s.me.arch.inHandler = true →
      (s.me.arch.redo = none → returns out)
      ∧ (s.me.arch.redo = some (at_, rec_, n) →
        returns (if at_ = s.me.arch.tpc.setWidth 16 then { out with recent := rec_, pushes := n } else out)))
    ∧ (s.me.arch.inHandler = false → exec .tret s = s.illegal)
    ∧ exec (.swr r 0x12) s = .next (s.completed { s.me.arch with tpc := s.x r &&& 0xFFFE })
    ∧ exec (.swr r 0x14) s = .next (s.completed { s.me.arch with tsave := s.x r &&& 1 })
    ∧ ((s.x r &&& 0xFFFE).setWidth 16 : BitVec 16).getLsbD 0 = false
    ∧ (s.me.seq = [] → s.me.arch.inHandler = true ∨ s.me.arch.tvec = 0 →
      ∃ t, s.takeTrap x = .next t ∧ t.me.arch = s.me.arch ∧ t.me.run = .frozen ∧ t.pendingFaults = s.pendingFaults ++
        [⟨.doubleTrap, .pc, s.pc.setWidth 64, x.cause.code, s.turn, s.me.part, s.me.launch⟩])

/-! ### Local memory (05 R102) -/

/-- R102: LDL and LDLU at an aligned address inside the program range, with no uncorrectable dword in it, read the bytes
there, little-endian, and extend them. STL at such an address stores the low bytes of the source there, and every other
byte of the scratchpad, every register and every other core is as before. 01 R13: behind entries that are still in the
sequencer, a load reads the scratchpad as they will leave it (`s.future`; how it does is log 6's), and waits only for a
byte that is not known yet; a store waits behind them in order, and takes effect when the last of them has completed. -/
def Obligations.LocalAccesses : Prop :=
  (∀ (s u : State) (d r a : XReg) (off : Int) (size : Size) (ea : Nat),
    let n := size.bytes
    let x := s.future
    let k := u.me.noteRead u.me.curChunk (linesOf ea n) []
    (ea : Int) = (s.x a).toNat % 2 ^ 56 + off * n → ea % n = 0 → s.me.arch.stashSize ≤ ea → ea + n ≤ 0x7E000 →
    (s.readAhead x x.loc ea n = some u → x.s.me.poisoned ea n = none →
      ∃ v w : Word, exec (.ldl d a off size) s = .next ((u.setMe k).completed (k.arch.setX d v))
        ∧ exec (.ldlu d a off size) s = .next ((u.setMe k).completed (k.arch.setX d w))
        ∧ w.toNat = memRead x.s.me.arch.spad ea n
        ∧ v = (BitVec.ofNat (8 * n) (memRead x.s.me.arch.spad ea n)).signExtend 64
        ∧ (∀ i < n, w.extractLsb' (8 * i) 8 = memGet x.s.me.arch.spad (ea + i)))
    ∧ (s.me.seq = [] → x.s = s ∧ s.readAhead x x.loc ea n = some s)
    ∧ ((∃ i < n, x.loc (ea + i) = .unknown) →
      exec (.ldl d a off size) s = .next s ∧ exec (.ldlu d a off size) s = .next s)
    ∧ ((s.me.noteWrite s.me.curChunk s.me.chunkCnt (linesOf ea n) []).journalOver s.me.curChunk = none →
      ∃ t, exec (.stl r a off size) s = .next t
        ∧ OnlyX { s.me.arch with spad := t.me.arch.spad, slog := t.me.arch.slog } t.me.arch ∧ (∀ q, t.x q = s.x q)
        ∧ OnlyMe s t ∧ t.me.istore = s.me.istore ∧ t.mem = s.mem
        ∧ (s.me.seq = [] → t.me.arch.slog = s.me.arch.slog
          ∧ (∀ i < n, memGet t.me.arch.spad (ea + i) = (s.x r).extractLsb' (8 * i) 8)
          ∧ ∀ o, o < ea ∨ ea + n ≤ o → memGet t.me.arch.spad o = memGet s.me.arch.spad o)
        ∧ (s.me.seq ≠ [] → t.me.arch.spad = s.me.arch.spad ∧ t.me.arch.slog = s.me.arch.slog
            ++ [⟨s.me.seq.length, ea, (List.range n).map (fun i => (s.x r).extractLsb' (8 * i) 8)⟩])))
  -- what a completed entry does to the stores that wait behind it
  ∧ (∀ (a : Arch) (ws vs : List LateStore) (w : LateStore) (i : Nat),
    let b := a.passEntry
    b = { a with spad := b.spad, slog := b.slog }
    ∧ b.slog = (a.slog.filter (fun w => 1 < w.left)).map (fun w => ⟨w.left - 1, w.addr, w.bytes⟩)
    ∧ (∀ o, (∀ w ∈ a.slog, w.left ≤ 1 → o < w.addr ∨ w.addr + w.bytes.length ≤ o) → memGet b.spad o = memGet a.spad o)
    ∧ (a.slog = ws ++ w :: vs → w.left ≤ 1 → ∀ h : i < w.bytes.length,
      (∀ v ∈ vs, v.left ≤ 1 → w.addr + i < v.addr ∨ v.addr + v.bytes.length ≤ w.addr + i) →
      memGet b.spad (w.addr + i) = w.bytes[i]))

/-- R102, 12 R229: ALIGN comes before LOCALBOUND, and LOCALBOUND's tval is the lowest offset outside the range: below
the scratchpad or the stash the address itself, else the first byte of the spill window or beyond. -/
def Obligations.LocalAddressTraps : Prop :=
  ∀ (s : State) (d a : XReg) (off : Int) (size : Size),
    let n := size.bytes
    let ea : Int := (s.x a).toNat % 2 ^ 56 + off * n
    let both := fun (o : Out) =>
      exec (.ldl d a off size) s = o ∧ exec (.ldlu d a off size) s = o ∧ exec (.stl d a off size) s = o
    (ea % n ≠ 0 → both (s.trap .align (BitVec.ofInt 64 ea)))
    ∧ (ea % n = 0 → ea < s.me.arch.stashSize ∨ 0x80000 < ea + n → both (s.trap .localbound (BitVec.ofInt 64 ea)))
    ∧ (ea % n = 0 → s.me.arch.stashSize ≤ ea → ea + n ≤ 0x80000 → 0x7E000 < ea + n →
        both (s.trap .localbound (BitVec.ofInt 64 (max ea 0x7E000))))

/-! ### Scalar floating point (05 R109 to R111) -/

namespace Sys2Proof.Claims

/-- The value of a finite magnitude code of a format with m fraction bits and bias b (R30); codes go on above the
largest finite one as the values do. -/
def realOf (m b code : Nat) : Rat :=
  if code / 2 ^ m = 0 then (code : Rat) * 2 ^ (1 - b - m : Int)
  else ((2 ^ m + code % 2 ^ m : Nat) : Rat) * 2 ^ ((code / 2 ^ m : Nat) - b - m : Int)

/-- A format of the float class: fraction bits, bias, width (R30). -/
structure Float4 where
  m : Nat
  b : Nat
  w : Nat

/-- R30's formats of the float class. -/
def float4 : FpTy → Float4
  | .fp32 => ⟨23, 127, 32⟩ | .fp64 => ⟨52, 1023, 64⟩ | .bf16 => ⟨7, 127, 16⟩ | .fp16 => ⟨10, 15, 16⟩

/-- R30's floating formats; S24 has 24 bits and no sign, so that its sign place is bit 24 (R38). -/
def floatOf : Fmt → Float4
  | .fp32 => float4 .fp32 | .fp64 => float4 .fp64 | .bf16 => float4 .bf16 | .fp16 => float4 .fp16
  | .e5m2 => ⟨2, 15, 8⟩ | .e4m3 => ⟨3, 7, 8⟩ | .e2m1 => ⟨1, 1, 4⟩ | .s24 => ⟨16, 127, 25⟩ | _ => ⟨0, 0, 0⟩

/-- The code of infinity, below it the finite magnitudes, above it the NaNs. -/
def Float4.inf (f : Float4) : Nat := 2 ^ (f.w - 1) - 2 ^ f.m

/-- The default NaN (R32). -/
def Float4.nan (f : Float4) : Nat := f.inf + 2 ^ (f.m - 1)

/-- The largest finite magnitude of a floating format or of S24 (R30, R38). -/
def topOf : Fmt → Nat
  | .e4m3 => 0x7E | .e2m1 => 7 | f => (floatOf f).inf - 1

/-- The default NaN of a floating format or of S24, +0 where there is none (R32). -/
def nanOf : Fmt → Nat
  | .e4m3 => 0x7F | .e2m1 => 0 | f => (floatOf f).nan

/-- A magnitude code with a sign. -/
def Float4.code (f : Float4) (neg : Prop) [Decidable neg] (k : Nat) : Nat := if neg then k + 2 ^ (f.w - 1) else k

/-- The magnitude of a code. -/
def Float4.mag (f : Float4) (x : Nat) : Nat := x % 2 ^ (f.w - 1)

/-- Whether the sign bit of a code is set. -/
abbrev Float4.neg (f : Float4) (x : Nat) : Prop := 2 ^ (f.w - 1) ≤ x

/-- The value of a finite code. -/
def Float4.real (f : Float4) (x : Nat) : Rat := if f.neg x then -realOf f.m f.b (f.mag x) else realOf f.m f.b (f.mag x)

/-- Steps 1 and 2 of R35 on a magnitude that is given by the numbers below it and the number it equals: k is its code
in a format of unbounded exponent, in which codes are ordered as their values are. -/
def Nearest (f : Float4) (rm : RMode) (neg : Prop) [Decidable neg] (below equals : Rat → Prop) (k : Nat) : Prop :=
  let v := realOf f.m f.b
  let mid := fun (i : Nat) => (v i + v (i + 1)) / 2
  equals (v k) ∨ ∃ i, below (v i) ∧ ¬below (v (i + 1)) ∧ ¬equals (v (i + 1)) ∧ (match rm with
    | .rtz => k = i
    | .rdn => k = if neg then i + 1 else i
    | .rup => k = if neg then i else i + 1
    | .rne => (below (mid i) ∧ k = i + 1) ∨ (equals (mid i) ∧ k = i + i % 2)
        ∨ (¬below (mid i) ∧ ¬equals (mid i) ∧ k = i))

/-- Whether step 3 of R35 leaves the largest finite value, not an infinity. -/
def staysFinite (rm : RMode) (neg : Prop) [Decidable neg] : Bool :=
  match rm with
  | .rne => false
  | .rtz => true
  | .rdn => decide ¬neg
  | .rup => decide neg

/-- R35 on such a magnitude: r is the code of the one rounding, first to a code of unbounded exponent, then, above the
largest finite one, by the mode. -/
def RoundsTo (f : Float4) (rm : RMode) (neg : Prop) [Decidable neg] (below equals : Rat → Prop) (r : Nat) : Prop :=
  ∃ k, Nearest f rm neg below equals k ∧ (k < f.inf → r = f.code neg k)
    ∧ (f.inf ≤ k → r = f.code neg (if staysFinite rm neg then f.inf - 1 else f.inf))

/-- R35 on a rational. -/
def Rounds (f : Float4) (rm : RMode) (v : Rat) (r : Nat) : Prop :=
  RoundsTo f rm (v < 0) (fun y => y < v.abs) (fun y => v.abs = y) r

/-- The real that a finite exact value is. -/
def numReal : Num → Rat
  | .fin n m e => (if n then -1 else 1) * m * (2 : Rat) ^ e
  | _ => 0

/-- A code of width w as an integer: unsigned, or in two's complement. -/
def reads (un : Bool) (w x : Nat) : Int := if un = true ∨ 2 * x < 2 ^ w then (x : Int) else (x : Int) - 2 ^ w

/-- The magnitude of a rational as the numbers below it and the number it equals. -/
abbrev above (v y : Rat) : Prop := y < v.abs
abbrev equal (v y : Rat) : Prop := v.abs = y

/-- R37 on an exact value that becomes an element of a floating format or of S24: the code, and whether amaxf.sat is
set. -/
def Converts (f : Fmt) (rm : RMode) (sat : Bool) (v : Num) (c : Conv) : Prop :=
  let g := floatOf f
  let top := topOf f
  let nan := nanOf f
  -- what an overflow becomes, with no infinity left by the mode
  let clamped := sat = true ∨ f = .e2m1
  match v with
  | .nan => c = ⟨nan, f == .e2m1⟩
  | .inf n =>
    if f = .s24 ∧ n = true then c = ⟨nan, false⟩
    else if clamped then c = ⟨g.code (n = true) top, true⟩
    else if f = .e4m3 then c = ⟨nan, false⟩
    else c = ⟨g.code (n = true) g.inf, false⟩
  | .fin n m _ =>
    let neg := n = true ∧ f ≠ .s24
    if f = .s24 ∧ n = true ∧ m ≠ 0 then c = ⟨nan, false⟩
    else ∃ k, Nearest g rm (n = true) (above (numReal v)) (equal (numReal v)) k
      ∧ (k ≤ top → c.val = g.code neg k ∧ (c.sat = true ↔ k = top ∧ realOf g.m g.b top < (numReal v).abs))
      ∧ (top < k → c = if clamped then ⟨g.code neg top, true⟩
          else if f = .e4m3 then ⟨nan, false⟩
          else if staysFinite rm (n = true) then ⟨g.code neg top, true⟩ else ⟨g.code neg g.inf, false⟩)

/-- k is the rational x rounded to an integer. -/
def RoundsInt (rm : RMode) (x : Rat) (k : Int) : Prop :=
  let down := (k : Rat) ≤ x ∧ x < k + 1
  let up := (k : Rat) - 1 < x ∧ x ≤ k
  match rm with
  | .rdn => down
  | .rup => up
  | .rtz => if 0 ≤ x then down else up
  | .rne => (x - k).abs ≤ 1 / 2 ∧ ((x - k).abs = 1 / 2 → k % 2 = 0)

/-- R37 on an exact value that becomes an integer from lo to hi: the integer, and whether amaxf.sat is set. -/
def IntConv (rm : RMode) (lo hi : Int) (v : Num) (r : Int × Bool) : Prop :=
  match v with
  | .nan => r = (0, true)
  | .inf n => r = (if n then lo else hi, true)
  | .fin _ _ _ => ∃ k, RoundsInt rm (numReal v) k ∧ r.1 = max lo (min hi k)
    ∧ (r.2 = true ↔ (numReal v < lo ∨ hi < numReal v) ∧ (r.1 = lo ∨ r.1 = hi))

/-- The container r holds the residues of the integer v, 255 standing for 0 (R42 to R44). -/
def IsRes (r : Nat) (v : Int) : Prop :=
  v % 257 = (r / 2 ^ 16 : Nat) ∧ v % 255 = (r / 2 ^ 8 % 256 % 255 : Nat) ∧ v % 256 = (r % 256 : Nat)

/-- The container of the integer v. -/
def resOf (v : Int) : Nat := (v % 257).toNat * 2 ^ 16 + (v % 255).toNat * 2 ^ 8 + (v % 256).toNat

/-- The exact value of a code of a floating format, S24, a whole format or a residue triple (R30, R34, R38, R42 to
R44). -/
def ValueIs (f : Fmt) (x : Nat) (v : Num) : Prop :=
  let g := floatOf f
  (f.isFloating = true ∨ f = .s24 → x < 2 ^ f.width → (f = .s24 → x < 2 ^ 24) →
    (g.mag x ≤ topOf f → v.isFin = true ∧ numReal v = g.real x ∧ v.sign = decide (g.neg x))
    ∧ (f ≠ .e4m3 → f ≠ .e2m1 → g.mag x = g.inf → v = .inf (decide (g.neg x)))
    ∧ (f ≠ .e4m3 → f ≠ .e2m1 → g.inf < g.mag x → v = .nan) ∧ (f = .e4m3 → topOf f < g.mag x → v = .nan))
  ∧ (f.isWhole = true → x < 2 ^ f.width → v.isFin = true ∧ numReal v = reads (f == .uint8) f.width x
    ∧ v.sign = decide (reads (f == .uint8) f.width x < 0))
  ∧ (f = .res → x < 2 ^ 25 → x / 2 ^ 16 ≤ 256 → ∃ i : Int, IsRes x i ∧ -8388480 ≤ i ∧ i ≤ 8388479
    ∧ v.isFin = true ∧ numReal v = i ∧ v.sign = decide (i < 0))

end Sys2Proof.Claims

/-- R109: the arithmetic of the formats chapter at the type and rounding of the instruction, on the low bits of the
sources; the result is zero-extended (ExactRounding says what that arithmetic is). R110: comparisons by exact values,
false for a NaN; FCLASS gives the class mask. R111: the conversions write d and add their contribution to amax and
amaxf; the integer and the floating results, and amaxf.sat, are those of R37's table. R30, R34, R38, R44: the exact
value of a code. R46, R47: what an element contributes to amax is its magnitude rounded up, a NaN its flag (that a
stored value that stays keeps its sign bit is log 8's choice). -/
def Obligations.ScalarFloatInstructions : Prop :=
  (∀ (s : State) (f : FpMode) (d a b e : XReg),
    let t := f.ty.fmt
    let x := (s.x a).toNat % 2 ^ t.width
    let y := (s.x b).toNat % 2 ^ t.width
    let z := (s.x e).toNat % 2 ^ t.width
    let gives := fun (i : Instr) (r : Nat) => Writes i s d (fun v => v = BitVec.ofNat 64 r)
    gives (.fadd f d a b) (t.add f.rm x y) ∧ gives (.fsub f d a b) (t.sub f.rm x y)
    ∧ gives (.fmul f d a b) (t.mul f.rm x y) ∧ gives (.fdiv f d a b) (t.div f.rm x y)
    ∧ gives (.fmin f d a b) (t.fmin x y) ∧ gives (.fmax f d a b) (t.fmax x y)
    ∧ gives (.fsqrt f d a) (t.sqrt f.rm x) ∧ gives (.fneg f d a) (t.fneg x)
    ∧ gives (.fma f d a b e) (t.fused .fma f.rm x y z) ∧ gives (.fms f d a b e) (t.fused .fms f.rm x y z)
    ∧ gives (.fnma f d a b e) (t.fused .nfma f.rm x y z) ∧ gives (.fnms f d a b e) (t.fused .nfms f.rm x y z))
  ∧ (∀ (s : State) (f : FpMode) (d a b : XReg),
    let t := f.ty.fmt
    let x := t.value ((s.x a).toNat % 2 ^ t.width)
    let y := t.value ((s.x b).toNat % 2 ^ t.width)
    Writes (.feq f d a b) s d (IsFlag (x.eqv y = true)) ∧ Writes (.flt f d a b) s d (IsFlag (x.lt y = true))
    ∧ Writes (.fle f d a b) s d (IsFlag (x.le y = true))
    ∧ (x.isNan = true ∨ y.isNan = true → x.eqv y = false ∧ x.lt y = false ∧ x.le y = false)
    ∧ Writes (.fclass f d a) s d (fun v => v = BitVec.ofNat 64 (t.classMask ((s.x a).toNat % 2 ^ t.width))))
  ∧ (∀ (s : State) (u : Bool) (f : FpMode) (d a : XReg) (tgt : FpTy),
    let x := (s.x a).toNat % 2 ^ f.ty.fmt.width
    let converts := fun (i : Instr) (v : Word) (c : AmaxDelta) => exec i s = .next (s.completed
      ({ s.me.arch with amax := amaxUpdate s.me.arch.amax c, amaxf := amaxfUpdate s.me.arch.amaxf c }.setX d v))
    let v := f.ty.fmt.value x
    let n : Int := if u then (s.x a).toNat else (s.x a).toInt
    (∃ r, IntConv f.rm (if u then 0 else -2 ^ 63) (if u then 2 ^ 64 - 1 else 2 ^ 63 - 1) v r
      ∧ converts (.cvtfi u f d a) (BitVec.ofInt 64 r.1) (AmaxDelta.ofElem v r.2))
    ∧ (∃ w c, w.isFin = true ∧ numReal w = n ∧ w.sign = decide (n < 0) ∧ Converts f.ty.fmt f.rm false w c
      ∧ converts (.cvtif u f d a) (BitVec.ofNat 64 c.val) (AmaxDelta.ofElem w c.sat))
    ∧ (∃ c, Converts tgt.fmt f.rm u v c ∧ converts (.cvtff u f d a tgt) (BitVec.ofNat 64 c.val) (AmaxDelta.ofElem v c.sat)))
  ∧ (∀ (f : Fmt) (x : Nat), ValueIs f x (f.value x))
  ∧ (∀ (v : Sys2Proof.Num) (sat : Bool) (w : Word) (g h : AmaxDelta),
    (AmaxDelta.ofElem v sat).nan = v.isNan ∧ (AmaxDelta.ofElem v sat).sat = sat
    ∧ ((AmaxDelta.ofElem v sat).mag = none ↔ v.isNan = true)
    ∧ (∀ k, (AmaxDelta.ofElem v sat).mag = some k →
        (v.isFin = true → Rounds (float4 .fp32) .rup (numReal v).abs k) ∧ (v.isFin = false → k = 0x7F800000))
    ∧ (g.join h).nan = (g.nan || h.nan) ∧ (g.join h).sat = (g.sat || h.sat)
    ∧ (g.mag = none → (g.join h).mag = h.mag) ∧ (h.mag = none → (g.join h).mag = g.mag)
    ∧ (∀ k l, g.mag = some k → h.mag = some l → (g.join h).mag = some (max k l))
    ∧ (g.mag = none → amaxUpdate w g = w)
    ∧ (∀ k, g.mag = some k → amaxUpdate w g =
        if 0x7F800000 < w.toNat % 2 ^ 31 ∨ w.toNat % 2 ^ 31 < k then BitVec.ofNat 64 k else w)
    ∧ amaxfUpdate w g = w ||| (if g.nan then 1 else 0) ||| (if g.sat then 2 else 0))

/-- R35, R48, R109: the sums, products, quotients, roots and fused forms of finite numbers are the exact value rounded
once; an exact zero has the sign that R48 gives it; a NaN or an invalid operation gives the default NaN; infinities
obey R109. An integer that CVTIF converts is rounded once too. R50, R109, R110, R125: order, smaller and larger, sign
changes and classes, in the reals, -0 below +0 where an order ranks the two. R48 again: what a list of exact terms
adds up to, and what one rounding makes of an exact value. -/
def Obligations.ExactRounding : Prop :=
  ∀ (ty : FpTy) (rm : RMode) (var : FmaVar) (x y z : Nat) (n : Int),
    let t := ty.fmt
    let f := float4 ty
    let a := f.real x
    let b := f.real y
    let fin := fun (c : Nat) => f.mag c < f.inf
    let nan := fun (c : Nat) => f.inf < f.mag c
    let infinite := fun (c : Nat) => f.mag c = f.inf
    let zero := fun (c : Nat) => f.mag c = 0
    let minusP := var = .nfma ∨ var = .nfms
    let minusZ := var = .fms ∨ var = .nfma
    let np := if minusP then (f.neg x ↔ f.neg y) else ¬(f.neg x ↔ f.neg y)
    let nz := if minusZ then ¬f.neg z else f.neg z
    let sum := (if minusP then -(a * b) else a * b) + (if minusZ then -f.real z else f.real z)
    let nsum := f.code (rm = .rdn) 0
    let fused := fun (r : Nat) => t.fused var rm x y z = r ∧ t.fused var rm y x z = r
    -- codes go on above the largest finite one, so a and b order the infinities too
    let less := a < b ∨ (a = b ∧ f.neg x ∧ ¬f.neg y)
    let v := t.value x
    let w := t.value y
    x < 2 ^ f.w → y < 2 ^ f.w → z < 2 ^ f.w →
      (fin x → fin y →
        (a + b ≠ 0 → Rounds f rm (a + b) (t.add rm x y))
        ∧ (a + b = 0 → t.add rm x y = if zero x ∧ zero y ∧ (f.neg x ↔ f.neg y) then x else nsum)
        ∧ (a - b ≠ 0 → Rounds f rm (a - b) (t.sub rm x y))
        ∧ (a - b = 0 → t.sub rm x y = if zero x ∧ zero y ∧ ¬(f.neg x ↔ f.neg y) then x else nsum)
        ∧ (a * b ≠ 0 → Rounds f rm (a * b) (t.mul rm x y))
        ∧ (a * b = 0 → t.mul rm x y = f.code (¬(f.neg x ↔ f.neg y)) 0)
        ∧ (a ≠ 0 → b ≠ 0 → Rounds f rm (a / b) (t.div rm x y))
        ∧ (a = 0 → b ≠ 0 → t.div rm x y = f.code (¬(f.neg x ↔ f.neg y)) 0)
        ∧ (a ≠ 0 → b = 0 → t.div rm x y = f.code (¬(f.neg x ↔ f.neg y)) f.inf)
        ∧ (a = 0 → b = 0 → t.div rm x y = f.nan)
        ∧ (0 < a → RoundsTo f rm False (fun q => q * q < a) (fun q => q * q = a) (t.sqrt rm x))
        ∧ (a = 0 → t.sqrt rm x = x) ∧ (a < 0 → t.sqrt rm x = f.nan)
        ∧ (fin z → (sum ≠ 0 → Rounds f rm sum (t.fused var rm x y z))
          ∧ (sum = 0 → t.fused var rm x y z = if a * b = 0 ∧ zero z ∧ (np ↔ nz) then f.code nz 0 else nsum)))
      ∧ (nan x ∨ nan y → t.add rm x y = f.nan ∧ t.sub rm x y = f.nan ∧ t.mul rm x y = f.nan ∧ t.div rm x y = f.nan
        ∧ t.fused var rm x y z = f.nan ∧ t.fused var rm z x y = f.nan)
      ∧ (nan x → t.sqrt rm x = f.nan ∧ t.fneg x = f.nan ∧ t.fabs x = f.nan)
      ∧ (¬nan x → t.fneg x = f.code (¬f.neg x) (f.mag x) ∧ t.fabs x = f.mag x)
      ∧ (nan x ∨ nan y → t.fmin x y = f.nan ∧ t.fmax x y = f.nan ∧ v.eqv w = false ∧ v.lt w = false ∧ v.le w = false)
      ∧ (¬nan x → ¬nan y → (v.eqv w = true ↔ a = b) ∧ (v.lt w = true ↔ a < b) ∧ (v.le w = true ↔ a ≤ b)
        ∧ (v.ltz w = true ↔ less) ∧ (less → t.fmin x y = x ∧ t.fmax x y = y ∧ t.fmin y x = x ∧ t.fmax y x = y)
        ∧ (x = y → t.fmin x y = x ∧ t.fmax x y = x))
      ∧ t.classMask x = 2 ^ (if nan x then 8
        else if infinite x then (if f.neg x then 0 else 7)
        else if zero x then (if f.neg x then 3 else 4)
        else if f.mag x < 2 ^ f.m then (if f.neg x then 2 else 5)
        else if f.neg x then 1 else 6)
      ∧ (infinite x → fin y → t.add rm x y = x ∧ t.add rm y x = x ∧ t.sub rm x y = x
        ∧ t.sub rm y x = f.code (¬f.neg x) f.inf ∧ t.mul rm y x = t.mul rm x y
        ∧ t.mul rm x y = (if zero y then f.nan else f.code (¬(f.neg x ↔ f.neg y)) f.inf)
        ∧ t.div rm x y = f.code (¬(f.neg x ↔ f.neg y)) f.inf ∧ t.div rm y x = f.code (¬(f.neg x ↔ f.neg y)) 0
        ∧ (zero y → fused f.nan))
      ∧ (infinite x → ¬nan y → ¬zero y → (fin z → fused (f.code np f.inf))
        ∧ (infinite z → fused (if np ↔ nz then f.code np f.inf else f.nan)))
      ∧ (fin x → fin y → infinite z → t.fused var rm x y z = f.code nz f.inf)
      ∧ (infinite x → infinite y → t.add rm x y = (if x = y then x else f.nan)
        ∧ t.sub rm x y = (if x = y then f.nan else x) ∧ t.mul rm x y = f.code (¬(f.neg x ↔ f.neg y)) f.inf
        ∧ t.div rm x y = f.nan)
      ∧ (infinite x → t.sqrt rm x = if f.neg x then f.nan else x)
      ∧ Rounds f rm n (t.convFloat rm false (Sys2Proof.Num.ofInt n)).val ∧ (n = 0 → (t.convFloat rm false (Sys2Proof.Num.ofInt n)).val = 0)
      ∧ (∀ ts : List Sys2Proof.Num,
        let inf := fun (n : Bool) => Sys2Proof.Num.inf n ∈ ts
        let all := fun (n : Bool) => ∀ u ∈ ts, u.isZero = true ∧ u.sign = n
        let sum := sumExact rm ts
        (Sys2Proof.Num.nan ∈ ts ∨ (inf true ∧ inf false) → sum = .nan)
        ∧ (∀ n, Sys2Proof.Num.nan ∉ ts → inf n → ¬inf (!n) → sum = .inf n)
        ∧ ((∀ u ∈ ts, u.isFin = true) → sum.isFin = true ∧ numReal sum = (ts.map numReal).sum
          ∧ (ts ≠ [] → numReal sum = 0 → (sum.sign = true ↔ if rm = .rdn then ¬all false else all true))))
      ∧ (∀ (u : Sys2Proof.Num) (p : Sys2Proof.Num), t.round rm .nan = f.nan ∧ (∀ n, t.round rm (.inf n) = f.code (n = true) f.inf)
        ∧ (u.isFin = true → numReal u ≠ 0 → Rounds f rm (numReal u) (t.round rm u))
        ∧ (u.isZero = true → t.round rm u = f.code (u.sign = true) 0)
        ∧ (u.isFin = true → p.isFin = true → (u.mul p).isFin = true ∧ numReal (u.mul p) = numReal u * numReal p
          ∧ (u.mul p).sign = (u.sign != p.sign))
        ∧ (u.isNan = true ∨ p.isNan = true → u.mul p = .nan)
        ∧ (∀ n, u = .inf n → p.isNan = false →
          u.mul p = (if p.isZero then .nan else .inf (n != p.sign)) ∧ p.mul u = u.mul p))

/-! ### Special registers (03 R64, 05 R106, R107) -/

/-- R106: SRD of a register that the sequencer cannot change, and of shape to accmode once the sequencer is empty, reads
it; a reserved sid traps with ILLEGAL. The named values are those of registers of every family. R90, R91: FEAT reads the
feature words; R113: NOP does nothing. -/
def Obligations.RegisterAndFeatureReads : Prop :=
  ∀ (s : State) (d : XReg) (sid k : BitVec 8) (v : Word),
    (s.special sid.toNat = some v → sid.toNat < 0x18 ∨ 0x1E < sid.toNat ∨ s.me.seq = [] →
      exec (.srd d sid) s = .next (wrote s d v))
    ∧ (s.special sid.toNat = none → exec (.srd d sid) s = s.trap .illegal (sid.setWidth 64))
    ∧ (s.special sid.toNat = none ↔ sidReserved sid.toNat = true)
    ∧ s.special 0x00 = some (BitVec.ofNat 64 s.turn.val) ∧ s.special 0x0B = some s.time
    ∧ s.special 0x10 = some s.me.arch.tvec ∧ s.special 0x12 = some s.me.arch.tpc ∧ s.special 0x14 = some s.me.arch.tsave
    ∧ s.special 0x18 = some s.me.arch.shape ∧ s.special 0x1A = some s.me.arch.amax
    ∧ s.special 0x27 = some s.me.arch.bm[7] ∧ s.special 0x37 = some s.me.arch.chcfg[15]
    ∧ s.special 0x39 = some s.me.arch.chunkLim ∧ s.special 0x3C = some s.me.arch.loop0
    ∧ s.special 0x3D = some s.me.arch.loop1 ∧ s.special 0x3E = some s.me.arch.waitcfg
    ∧ s.special 0x78 = some s.me.arch.rings[7].base ∧ s.special 0x46 = some s.me.arch.rings[0].status
    ∧ Writes (.feat d k) s d (fun v =>
      (k.toNat = 0 → v = 0x0000202060010001) ∧ (k.toNat = 1 → v = 0x1FF)
      ∧ (k.toNat = 3 → v = s.translator ++ (0x000000010001 : BitVec 48)) ∧ (k.toNat = 2 ∨ 4 ≤ k.toNat → v = 0))
    ∧ exec .nop s = .next (kept s)

/-- R106: SWR refuses a reserved sid, then a read-only one, before anything else; id.x to args take any value; the
trap registers keep their res bits at 0 (R23). SWR of a sid is what the row of its write rule does; the rules that
need no quiet engine: loop counts (R20), amax (R46), shape (R147), tmode (R148), waitcfg (R210), chunk.lim (R246),
stash.cfg (R237). An accepted value is written; a refused one traps with RESFIELD. -/
def Obligations.SpecialRegisterWrites : Prop :=
  (∀ (s : State) (r : XReg) (sid : BitVec 8),
    let v := s.x r
    let a := s.me.arch
    (sidReserved sid.toNat = true → exec (.swr r sid) s = s.trap .illegal (sid.setWidth 64))
    ∧ (sidReserved sid.toNat = false → sidReadOnly sid.toNat = true → exec (.swr r sid) s = s.trap .rdonly (sid.setWidth 64))
    ∧ (∀ i : Fin 10, exec (.swr r (BitVec.ofNat 8 (i.val + 1))) s = .next (s.completed { a with ids := a.ids.set i v }))
    ∧ exec (.swr r 0x10) s = .next (s.completed { a with tvec := v &&& 0xFFFE })
    ∧ exec (.swr r 0x11) s = .next (s.completed { a with tcause := v &&& 0xFF })
    ∧ exec (.swr r 0x12) s = .next (s.completed { a with tpc := v &&& 0xFFFE })
    ∧ exec (.swr r 0x13) s = .next (s.completed { a with tval := v })
    ∧ exec (.swr r 0x14) s = .next (s.completed { a with tsave := v &&& 1 }))
  ∧ (∀ (s : State) (r : XReg) (n f : Bool),
    let v := s.x r
    let a := s.me.arch
    let rule := fun (i : Instr) (bad : Prop) (t : State) =>
      (¬bad → exec i s = .next t) ∧ (bad → exec i s = s.trap .resfield v)
    let swr := fun (sid : BitVec 8) (i : Instr) => exec (.swr r sid) s = exec i s
    (swr 0x18 (.shapeWrite r) ∧ swr 0x19 (.tmodeWrite r) ∧ swr 0x1A (.amaxWrite false r) ∧ swr 0x1B (.amaxWrite true r)
      ∧ swr 0x38 (.stashCfgWrite r) ∧ swr 0x39 (.chunkLimWrite r) ∧ swr 0x3C (.loopCntWrite false r)
      ∧ swr 0x3D (.loopCntWrite true r) ∧ swr 0x3E (.waitcfgWrite r))
    ∧ rule (.loopCntWrite n r) (v.toNat / 2 ^ 48 % 2 = 1 ∨ v.toNat / 2 ^ 32 % 2 = 1)
      (s.completed (if n then { a with loop1 := v } else { a with loop0 := v }))
    ∧ rule (.waitcfgWrite r) (4 ≤ v.toNat) (s.completed { a with waitcfg := v })
    ∧ rule (.chunkLimWrite r) (v.toNat = 0 ∨ 1024 < v.toNat) (s.completed { a with chunkLim := v })
    ∧ (s.me.seq = [] →
        rule (.amaxWrite f r) ((if f then 2 ^ 2 else 2 ^ 32) ≤ v.toNat)
          (s.completed (if f then { a with amaxf := v } else { a with amax := v }))
        ∧ rule (.shapeWrite r) (2 ^ 32 ≤ v.toNat ∨ (Fmt.fp32.value v.toNat).isNan = true)
          (s.completed { a with shape := v })
        ∧ rule (.tmodeWrite r) (v &&& ~~~(0x10F : Word) ≠ 0 ∨ v.toNat % 4 = 3) (s.completed { a with tmode := v }))
    ∧ (let b : Arch := { a with stashCfg := v }
       rule (.stashCfgWrite r)
        (2 ^ 32 ≤ v.toNat ∨ v.toNat / 8 % 2 ^ 13 ≠ 0 ∨ v.toNat % 8 ≠ a.stashCfg.toNat % 8
          ∨ ∃ i : Fin 16, bit v.toNat (16 + i.val) = true ∧ winLg a.sw[i] < 16)
        ((s.keepLines (fun l => !(l.core == s.turn) || b.cacheable (l.va * 64))).completed b)))

/-- The write rules that wait for the engines that use a register, each of them what SWR of its sid does (R64, R107):
perm (R302), accmode (R304) and gang (R317) for an idle slice, bm.n (R176, R178) and chcfg.n (R192) for the core's
chunk, a ring (R298) for the commands that name it. An accepted value is written: perm with en latches its table,
accmode zeroes the tiles whose mode changes (that this clears their uncorrectable rows is the model's choice, log 23),
a checked ring register empties its ring. A refused one traps, with the value or, for a place in the scratchpad, the
lowest offending offset. -/
def Obligations.QuietRegisterWrites : Prop :=
  ∀ (s : State) (r : XReg) (n : Reg8) (ch : Fin 16) (k : Fin 6),
    let w := s.x r
    let v := w.toNat
    let a := s.me.arch
    let bmBad := 2 ^ 12 ≤ v ∨ v / 8 % 16 ≠ 0 ∨ 6 ≤ v % 8 ∨ 10 ≤ v / 256 % 16 ∨ (v / 256 % 16 ≠ 0 ∧ v % 8 ≠ 2)
    let chBad := v / 2 ^ 52 ≠ 0 ∨ v / 2 ^ 36 % 16 ≠ 0 ∨ v / 2 ^ 19 % 2 ^ 13 ≠ 0 ∨ v % 64 ≠ 0 ∨ 4 < v / 2 ^ 33 % 8
    let base := v / 64 % 2 ^ 13 * 64
    let size := 64 * 2 ^ (v / 2 ^ 33 % 8)
    let swr := fun (sid : Nat) (i : Instr) => exec (.swr r (BitVec.ofNat 8 sid)) s = exec i s
    (swr 0x1C (.permWrite r) ∧ swr 0x1D (.gangWrite r) ∧ swr 0x1E (.accmodeWrite r) ∧ swr (0x20 + n) (.bmWrite n r)
      ∧ swr (0x28 + ch) (.chcfgWrite ch r) ∧ swr (0x40 + 8 * n + k) (.ringRegisterWrite n k r))
    ∧ (s.me.sliceQuiet = true →
      (2 ^ 33 ≤ v ∨ v / 2 ^ 19 % 2 ^ 13 ≠ 0 → exec (.permWrite r) s = s.trap .resfield w)
      ∧ (v < 2 ^ 32 → v / 2 ^ 19 % 2 ^ 13 = 0 → exec (.permWrite r) s = .next (s.completed { a with perm := w }))
      ∧ (v / 2 ^ 32 = 1 → v / 2 ^ 19 % 2 ^ 13 = 0 →
        let off := v % 2 ^ 19
        let tab := fun (i : Nat) => memGet a.spad (off + i)
        let bad := fun (i : Nat) => i < 192 ∧ (192 ≤ (tab i).toNat ∨ ∃ j < i, tab j = tab i)
        let t := s.setMe (s.me.noteRead s.me.curChunk (linesOf off 192) [])
        (off < a.stashSize → exec (.permWrite r) s = s.trap .localbound (BitVec.ofNat 64 off))
        ∧ (a.stashSize ≤ off → 0x7E000 < off + 192 →
          exec (.permWrite r) s = s.trap .localbound (BitVec.ofNat 64 (max off 0x7E000)))
        ∧ (a.stashSize ≤ off → off + 192 ≤ 0x7E000 → s.me.poisoned off 192 = none →
          (∀ i, bad i → (∀ j < i, ¬bad j) → exec (.permWrite r) s = t.trap .resfield (BitVec.ofNat 64 (off + i)))
          ∧ ((∀ i, ¬bad i) → exec (.permWrite r) s =
            .next (t.completed { a with perm := w, permT := Vector.ofFn fun i => tab i.val }))))
      ∧ (gangBad s.turn w = false → exec (.gangWrite r) s = .next (s.completed { a with gang := w }))
      ∧ (gangBad s.turn w = true → exec (.gangWrite r) s = s.trap .resfield w)
      ∧ (256 ≤ v → exec (.accmodeWrite r) s = s.trap .resfield w)
      ∧ (v < 256 → ∃ l : Core, exec (.accmodeWrite r) s = .next ((s.setMe l).completed { a with accmode := w })
        ∧ l = { s.me with z := l.z, zOld := l.zOld, errs := { s.me.errs with acc := l.errs.acc } }
        ∧ (∀ i : Fin 8, l.z[i] = if bit v i.val = bit a.accmode.toNat i.val then s.me.z[i] else 0)
        ∧ ∀ m, m ∈ l.errs.acc ↔
          m ∈ s.me.errs.acc ∧ ∀ i : Fin 8, bit v i.val ≠ bit a.accmode.toNat i.val → m / 32 ≠ i.val))
    ∧ (bmBad → exec (.bmWrite n r) s = s.trap .resfield w)
    ∧ (chBad → exec (.chcfgWrite ch r) s = s.trap .resfield w)
    ∧ (¬chBad → base < a.stashSize → exec (.chcfgWrite ch r) s = s.trap .localbound (BitVec.ofNat 64 base))
    ∧ (¬chBad → a.stashSize ≤ base → 0x7E000 < base + size →
      exec (.chcfgWrite ch r) s = s.trap .localbound (BitVec.ofNat 64 (max base 0x7E000)))
    ∧ (Quiet s →
      let e := ended s
      (¬bmBad → s.pending n = false →
        let t := e.setMe { e.me with arch := { a with bm := a.bm.set n w } }
        let v := (t.poolSplit n (e.me.groupKey s.turn n)).poolSplit n (t.me.groupKey s.turn n)
        exec (.bmWrite n r) s = .next (v.completed v.me.arch))
      ∧ (¬chBad → a.stashSize ≤ base → base + size ≤ 0x7E000 →
        let t := e.setMe { e.me with chans := e.me.chans.set ch Chan.reset }
        exec (.chcfgWrite ch r) s = .next (t.completed { a with chcfg := a.chcfg.set ch w })))
    ∧ (s.me.ringNamed n = true → exec (.ringRegisterWrite n k r) s = .next s)
    ∧ (s.me.ringNamed n = false →
      let old := a.rings[n]
      let sets := fun (j : Fin 6) (g : Ring) =>
        (g.check a.stashSize = none → exec (.ringRegisterWrite n j r) s =
          .next (s.completed (a.setRing n { g with head := 0, tail := 0 })))
        ∧ (∀ b, g.check a.stashSize = some b → exec (.ringRegisterWrite n j r) s = s.takeTrap (b.trap w w g.base))
      let moves := fun (j : Fin 6) (g : Ring) =>
        (v < 2 * g.slots → g.count ≤ g.slots → exec (.ringRegisterWrite n j r) s = .next (s.completed (a.setRing n g)))
        ∧ (2 * g.slots ≤ v ∨ g.slots < g.count → exec (.ringRegisterWrite n j r) s = s.trap .resfield w)
      sets 0 { old with base := w } ∧ sets 1 { old with size := w } ∧ sets 4 { old with tile := w }
      ∧ sets 5 { old with scale := w } ∧ moves 2 { old with head := w } ∧ moves 3 { old with tail := w })

/-! ### Vector instructions: the push (01 R14, R26) -/

namespace Sys2Proof.Claims

/-- Instruction i names n; what its push captures, and what the push does: with a free source it traps, behind a pending
writer of its predicate or a full sequencer it waits, and else its entry is pushed and it completes. -/
def Pushes (s : State) (i : Instr) (n : Names) : Prop :=
  let k := s.me
  let p := k.pushed i
  namesOf i = n
  ∧ p.instr = i ∧ p.pc = s.pc ∧ p.count = k.arch.getP n.pred ∧ p.shape = k.arch.shape ∧ p.tmode = k.arch.tmode
  ∧ (∀ x, n.xa = some x → p.xa = s.x x) ∧ (∀ x, n.xb = some x → p.xb = s.x x)
  ∧ (∀ r, freeSource k.arch n.srcs = some r → exec i s = s.trap .vfree (BitVec.ofNat 64 r.val))
  ∧ (freeSource k.arch n.srcs = none →
    (k.predPending n.pred = true ∨ 16 ≤ k.seq.length → exec i s = .next s)
    ∧ (k.predPending n.pred = false → k.seq.length < 16 →
      exec i s = .next (s.setMe { k.push i n none with progress := s.time })))

end Sys2Proof.Claims

/-- R14, R26: a vector instruction whose sources are live, whose predicate has no pending writer and for which the
sequencer has room is pushed and completes; the effect follows when its entry executes. Captured are its x registers,
the count of its predicate, shape and tmode. (Of several free sources the first in field order is named, log 21.) -/
def Obligations.VectorInstructionsPush : Prop :=
  ∀ (s : State) (ob : VBin) (ou : VUn) (ot : VTri) (oo : VOne) (oc : VCmpOps) (oq : VQOps) (om : VMem) (os : VStr)
    (oi : VIdx) (d a b : VReg) (x y : XReg) (xs : XSrc) (g : Gov) (p : PReg) (ty : Fmt) (l m : Bool) (rm : RMode)
    (var : FmaVar) (fn : Sfu) (red : Red),
    let pushes := Pushes s
    (pushes (.vadd ob) ob.names ∧ pushes (.vsub ob) ob.names ∧ pushes (.vmul ob) ob.names ∧ pushes (.vmin ob) ob.names
      ∧ pushes (.vmax ob) ob.names ∧ pushes (.vand ob) ob.names ∧ pushes (.vor ob) ob.names ∧ pushes (.vxor ob) ob.names
      ∧ pushes (.vsll ob) ob.names ∧ pushes (.vsrl ob) ob.names ∧ pushes (.vsra ob) ob.names ∧ pushes (.vdiv ob) ob.names)
    ∧ (pushes (.vsqrt ou) ou.names ∧ pushes (.vabs ou) ou.names ∧ pushes (.vneg ou) ou.names ∧ pushes (.vcmp oc) oc.names
      ∧ pushes (.vfma var rm ot) ot.names ∧ pushes (.vsel ot) ot.names ∧ pushes (.vdot ot m) ot.names
      ∧ pushes (.vmov oo) oo.names ∧ pushes (.vcvt oo ty m rm) oo.names ∧ pushes (.vsfu oo fn rm) oo.names
      ∧ pushes (.vsplat d xs g ty) ⟨[], [d], xs.xreg, none, g.pred⟩
      ∧ pushes (.viota d x y g ty) ⟨[], [d], some x, some y, g.pred⟩)
    ∧ (pushes (.vqnt oq) ⟨[(oq.a, oq.la)], [oq.d, oq.b], none, none, oq.gov.pred⟩
      ∧ pushes (.vdqnt oq l) ⟨[(oq.a, oq.la), (oq.b, l)], [oq.d], none, none, oq.gov.pred⟩
      ∧ pushes (.vred oo red l rm b)
          ⟨[(oo.a, oo.la)], if red = .maxi ∨ red = .mini then [oo.d, b] else [oo.d], none, none, oo.gov.pred⟩
      ∧ pushes (.vperm oo b l) ⟨[(oo.a, oo.la), (b, l)], [oo.d], none, none, oo.gov.pred⟩
      ∧ pushes (.vslide oo xs) ⟨[(oo.a, oo.la)], [oo.d], none, xs.xreg, oo.gov.pred⟩
      ∧ pushes (.vext a l xs ty) ⟨[(a, l)], [], none, xs.xreg, 0⟩
      ∧ pushes (.vins d x y ty) ⟨[], [d], some x, some y, 0⟩ ∧ pushes (.vpopc a l p ty) ⟨[(a, l)], [], none, none, p⟩)
    ∧ (pushes (.vldl om) om.loadNames ∧ pushes (.vstl om) om.storeNames ∧ pushes (.vldg om l) om.loadNames
      ∧ pushes (.vstg om) om.storeNames ∧ pushes (.vldls os) ⟨[], [os.v], some os.a, some os.b, os.gov.pred⟩
      ∧ pushes (.vstls os) ⟨[(os.v, os.last)], [], some os.a, some os.b, os.gov.pred⟩
      ∧ pushes (.vgath oi) ⟨[(oi.b, oi.lb)], [oi.v], some oi.a, none, oi.gov.pred⟩
      ∧ pushes (.vscat oi) ⟨[(oi.v, oi.last), (oi.b, oi.lb)], [], some oi.a, none, oi.gov.pred⟩)
    ∧ (pushes (.tmclr d g) ⟨[], triple d, none, none, g.pred⟩
      ∧ pushes (.tmacc oo) ⟨tripleSrc oo.d false ++ [(oo.a, oo.la)], triple oo.d, none, none, oo.gov.pred⟩
      ∧ pushes (.tmmerge d a l b m g) ⟨tripleSrc a l ++ tripleSrc b m, triple d, none, none, g.pred⟩
      ∧ pushes (.tmfold d a l p) ⟨tripleSrc a l, triple d, none, none, p⟩
      ∧ pushes (.tmexit d a l g) ⟨tripleSrc a l, [d], none, none, g.pred⟩
      ∧ pushes (.tmtab x l m) ⟨[], [], some x, none, 0⟩)

/-- R26: what a push does to liveness. A source with a last-use bit is freed, a destination is live and wins, every
other register stays as it was; and a push changes no x register, no predicate, no vector contents and no memory. VLOOP
remembers the pushed entry (R142). Naming a free source traps with VFREE and the register's number, for instructions of
every page that names vectors; of two free sources the first in field order is named (log 21). -/
def Obligations.PushLiveness : Prop :=
  (∀ (k : Core) (i : Instr) (n : Names) (rep : Option Rep) (r : VReg),
    let l := k.push i n rep
    (r ∈ n.dsts → l.arch.isLive r = true)
    ∧ (r ∉ n.dsts → (r, true) ∈ n.srcs → l.arch.isLive r = false)
    ∧ (r ∉ n.dsts → (r, true) ∉ n.srcs → l.arch.isLive r = k.arch.isLive r)
    ∧ l.arch = { k.arch with
        live := l.arch.live, recent := (k.pushed i :: k.arch.recent).take 15, pushes := min 15 (k.arch.pushes + 1)
        pc := l.arch.pc, loop0 := l.arch.loop0, loop1 := l.arch.loop1 }
    ∧ l.seq = k.seq ++ [⟨k.pushed i, k.ilen, k.curChunk, k.chunkCnt, k.arch, rep⟩]
    ∧ l = { k with arch := l.arch, seq := l.seq, chunks := l.chunks, await := l.await, dbg := l.dbg })
  ∧ (∀ (s : State) (ob : VBin) (oo : VOne) (om : VMem) (d a : VReg) (l : Bool) (g : Gov) (p : PReg) (ty : Fmt),
    (s.me.arch.isLive ob.a = false → exec (.vadd ob) s = s.trap .vfree (BitVec.ofNat 64 ob.a.val))
    ∧ (s.me.arch.isLive oo.a = false → exec (.vmov oo) s = s.trap .vfree (BitVec.ofNat 64 oo.a.val))
    ∧ (s.me.arch.isLive om.v = false → exec (.vstl om) s = s.trap .vfree (BitVec.ofNat 64 om.v.val))
    ∧ (s.me.arch.isLive a = false → exec (.tmexit d a l g) s = s.trap .vfree (BitVec.ofNat 64 a.val))
    ∧ (s.me.arch.isLive a = false → exec (.pmask p a l 0 ty) s = s.trap .vfree (BitVec.ofNat 64 a.val)))

/-- R119 to R121, R142 to R144: the instructions of page 3 that act at once, and VLOOP and VFREE, which are pushed. A
VLOOP names what its repetitions read and write; with too few entries pushed, or one that cannot be repeated, it traps
with ILLEGAL. -/
def Obligations.PredicateAndSequencerInstructions : Prop :=
  ∀ (s : State) (d x y : XReg) (p q : PReg) (a : VReg) (la : Bool) (ty : Fmt) (n : Nat) (sub : Fin 4) (code : BitVec 8),
    let k := s.me
    let m := min (k.arch.getP q) ty.lanes
    let after := if la then (k.arch.setLive a false).setV a 0 else k.arch
    let body := (k.arch.recent.take n).reverse
    let times := min (s.x x).toNat 65535
    let names := if times = 0 then namesOf (.vloop x n) else loopNames x body
    let fits := n ≤ k.arch.pushes ∧ n ≤ k.arch.recent.length ∧ ∀ o ∈ k.arch.recent.take n, loopable o.instr = true
    (k.predPending p = false →
      exec (.pcount d p) s = .next (wrote s d (BitVec.ofNat 64 (k.arch.getP p)))
      ∧ exec (.pbound p x y) s =
        .next (s.completed (k.arch.setP p (min (max ((s.x y).toInt - (s.x x).toInt) 0).toNat 256))))
    ∧ (k.seq = [] → k.arch.isLive a = true → a.val ∉ k.errs.vec → ∃ z nz,
        exec (.pmask p a la q ty) s = .next (s.completed (after.setP p z))
        ∧ exec (.pfirst p a la q ty) s = .next (s.completed (after.setP p nz))
        ∧ z ≤ m ∧ (∀ i < z, lane k.arch.v[a] ty.width i ≠ 0) ∧ (z < m → lane k.arch.v[a] ty.width z = 0)
        ∧ nz ≤ m ∧ (∀ i < nz, lane k.arch.v[a] ty.width i = 0) ∧ (nz < m → lane k.arch.v[a] ty.width nz ≠ 0))
    ∧ exec (.vwidth d ty) s = .next (wrote s d (BitVec.ofNat 64 (2048 / ty.width)))
    ∧ (k.seq = [] → exec .vsync s = .next (kept s))
    ∧ (k.seq.length < 16 → ∃ t, exec (.vfree sub code) s = .next t ∧ t.me.seq.length = k.seq.length + 1
        ∧ ∀ r : VReg, t.me.arch.isLive r =
            (k.arch.isLive r && !(decide (r.val / 8 = sub.val) && code.getLsbD (r.val % 8))))
    ∧ (fits → freeSource k.arch names.srcs = none → k.seq.length < 16 →
        exec (.vloop x n) s =
          .next (s.setMe { k.push (.vloop x n) names (some ⟨body, times, 1, 0⟩) with progress := s.time }))
    ∧ (fits → ∀ r, freeSource k.arch names.srcs = some r →
        exec (.vloop x n) s = s.trap .vfree (BitVec.ofNat 64 r.val))
    ∧ (¬fits → exec (.vloop x n) s = s.illegal)

namespace Sys2Proof.Claims

/-- The b operand of an executing entry in lane l: a vector's lane, or the low bits of the captured x register or of the
oldest element of q0 (R117). -/
def bLane (a : Arch) (p : Pushed) (w : Nat) (b : VSrc) (l : Nat) : Nat :=
  match b with
  | .vec r _ => lane a.v[r] w l
  | .x _ => p.xb.toNat % 2 ^ w
  | .q0 => (a.q0.headD 0).toNat % 2 ^ w

/-- A scalar operand of 64 bits, captured or of q0. -/
def scalarOf (a : Arch) (captured : Word) : XSrc → Word
  | .x _ => captured
  | .q0 => a.q0.headD 0

/-- In this cycle the arbiter of cluster cl takes s to u and binds the one core c (08 R185), whose oldest entry e has p
to execute next, in repetition j of a VLOOP or as itself; its chunk holds no more than its journal, and no vector that p
reads or of which it keeps lanes is uncorrectable. -/
def Ready (s u : State) (cl : ClusterId) (c : CoreId) (e : Entry) (p : Pushed) (j : Nat) : Prop :=
  s.bind cl = (u, [c]) ∧ (u.core c).seq.head? = some e ∧ e.current = (p, j)
  ∧ (∀ r, e.rep = some r → 1 ≤ r.j ∧ r.j ≤ r.times ∧ r.i < r.body.length)
  ∧ (u.core c).journalOver e.chunk = none ∧ (u.core c).vecBad p = none

/-- What is left of an entry after one operation (R142): nothing, the next entry of its body, or its next repetition. -/
def leftOf (e : Entry) : List (Pushed × Option Rep) :=
  match e.rep with
  | none => []
  | some r =>
    if r.i + 1 < r.body.length then [(e.op, some { r with i := r.i + 1 })]
    else if r.j < r.times then [(e.op, some { r with j := r.j + 1, i := 0 })]
    else []

/-- The binding has changed no core's registers, and the entry has executed: the sequencer goes on behind it, memory is
as before, and the core's registers went from a to b with P a b; where nothing is left of the entry, the scalar stores
that waited for it alone have then taken effect (01 R13, what LocalAccesses says of `passEntry`). -/
def RanAt (s u : State) (cl : ClusterId) (c : CoreId) (e : Entry) (P : Arch → Arch → Prop) : Prop :=
  (∀ d, (u.core d).arch = (s.core d).arch) ∧ u = { s with cores := u.cores, groups := u.groups }
  ∧ ∃ t, exec (.sequencerEntryExecute cl) s = .next t ∧ t.mem = s.mem ∧ (∀ d, d ≠ c → (t.core d).arch = (s.core d).arch)
    ∧ (t.core c).seq.map (fun x => (x.op, x.rep)) = leftOf e ++ ((u.core c).seq.drop 1).map (fun x => (x.op, x.rep))
    ∧ ∃ b, P (u.core c).arch b ∧ (t.core c).arch = if (leftOf e).isEmpty then b.passEntry else b

/-- The same for an entry that touches its own core alone. -/
def Ran (s u : State) (cl : ClusterId) (c : CoreId) (e : Entry) (P : Arch → Arch → Prop) : Prop :=
  RanAt s u cl c e P
  ∧ ∃ t, exec (.sequencerEntryExecute cl) s = .next t ∧ t = { u with cores := t.cores } ∧ ∀ d, d ≠ c → t.core d = u.core d

/-- Of n lanes of width w, the first `act` satisfy P; the others are 0 or as before. -/
def LanesAre (w n act : Nat) (zero : Bool) (P : Nat → Nat → Prop) (old new : VWord) : Prop :=
  ∀ l < n, if l < act then P l (lane new w l) else lane new w l = if zero then 0 else lane old w l

/-- Of the vectors, those in ds are written; an instruction's last uses are zero, and every other vector is as before
(R26, R116). q0 has lost the element that the instruction pops. -/
def VecFrame (i : Instr) (ds : List VReg) (a b : Arch) : Prop :=
  (∀ q, q ∉ ds → b.v[q] = if q ∈ freesOf i then 0 else a.v[q])
  ∧ b.q0 = (if popsQ0 i then a.q0.drop 1 else a.q0)

/-- One vector of lanes of width w is written, and amaxf.sat is set where `sat` says so. -/
def LaneEffect (i : Instr) (d : VReg) (w act : Nat) (zero : Bool) (P : Nat → Nat → Prop) (sat : Prop) (a b : Arch) : Prop :=
  LanesAre w (2048 / w) act zero P a.v[d] b.v[d] ∧ VecFrame i [d] a b
  ∧ b = { a with v := b.v, q0 := b.q0, amaxf := b.amaxf }
  ∧ (sat → b.amaxf = a.amaxf ||| 2) ∧ (¬sat → b.amaxf = a.amaxf)

/-- The entry can trap into its handler: nothing else is in the way. -/
def CanTrap (u : State) (c : CoreId) (e : Entry) : Prop :=
  (u.core c).errs.jrnl = [] ∧ (u.core c).wait = none ∧ (u.core c).run = .running
  ∧ e.snap.inHandler = false ∧ e.snap.tvec ≠ 0

/-- The entry has trapped (01 R16, R24, R142): the registers are those of its push, but for the trap's. -/
def Trapped (s : State) (cl : ClusterId) (c : CoreId) (e : Entry) (x : Trap) : Prop :=
  ∃ t, exec (.sequencerEntryExecute cl) s = .next t ∧ (t.core c).arch = { e.snap with
    tpc := e.op.pc.setWidth 64, tcause := BitVec.ofNat 64 x.cause.code, tval := x.tval, tsave := 1
    pc := e.snap.tvec.setWidth 16, owed := [], pushes := 0
    redo := if e.rep.isSome then some (e.op.pc, e.snap.recent, e.snap.pushes) else none }

end Sys2Proof.Claims

/-- R114, R122, R125, R126: what the executed entry of an integer or bitwise instruction writes, in a repetition of
VLOOP too: sums, differences and products wrapped or, with sat, clamped to the range of the type, which u makes
unsigned, with amaxf.sat for a clamped lane (that u reads the operands unsigned, and that VAND, VOR and VXOR take
residue containers unchecked, is the model's choice, log 8); smaller and larger;
quotients, all ones for a divisor of 0; bits; shifts by the count modulo the width; magnitudes and negations;
comparisons as all ones or 0. The b operand is a vector, a captured register or an element of q0. -/
def Obligations.IntegerLaneResults : Prop :=
  ∀ (s u : State) (cl : ClusterId) (c : CoreId) (e : Entry) (p : Pushed) (j : Nat) (o : VBin) (x : VUn) (m : VCmpOps),
    Ready s u cl c e p j →
    let a := (u.core c).arch
    let lanes := fun (i : Instr) (d : VReg) (g : Gov) (w : Nat) (P : Nat → Nat → Prop) (sat : Prop) =>
      p.instr = i → Ran s u cl c e (LaneEffect i d w (min p.count (2048 / w)) g.zero P sat)
    let w := o.ty.width
    let y := fun (l : Nat) => lane a.v[o.a] w l
    let z := bLane a p w o.b
    let un := o.u || o.ty == .uint8
    let yi := fun (l : Nat) => reads un w (y l)
    let zi := fun (l : Nat) => reads un w (z l)
    let lo : Int := if un then 0 else -2 ^ (w - 1)
    let hi : Int := if un then 2 ^ w - 1 else 2 ^ (w - 1) - 1
    let bin := fun (i : Instr) (P : Nat → Nat → Prop) => lanes i o.d o.gov w P False
    let exact := fun (i : Instr) (v : Nat → Int) => lanes i o.d o.gov w
      (fun l r => (r : Int) = (if o.sat then max lo (min hi (v l)) else v l) % 2 ^ w)
      (o.sat = true ∧ ∃ l < min p.count (2048 / w), v l < lo ∨ hi < v l)
    (o.ty.isInt = true →
      exact (.vadd o) (fun l => yi l + zi l) ∧ exact (.vsub o) (fun l => yi l - zi l)
      ∧ exact (.vmul o) (fun l => yi l * zi l)
      ∧ bin (.vmin o) (fun l r => (r : Int) = min (yi l) (zi l) % 2 ^ w)
      ∧ bin (.vmax o) (fun l r => (r : Int) = max (yi l) (zi l) % 2 ^ w)
      ∧ bin (.vdiv o) (fun l r => if zi l = 0 then r = 2 ^ w - 1 else (r : Int) = (yi l).tdiv (zi l) % 2 ^ w)
      ∧ bin (.vsll o) (fun l r => r = y l * 2 ^ (z l % w) % 2 ^ w) ∧ bin (.vsrl o) (fun l r => r = y l / 2 ^ (z l % w))
      ∧ bin (.vsra o) (fun l r => (r : Int) = reads false w (y l) / 2 ^ (z l % w) % 2 ^ w))
    ∧ bin (.vand o) (fun l r => r = y l &&& z l) ∧ bin (.vor o) (fun l r => r = y l ||| z l)
    ∧ bin (.vxor o) (fun l r => r = y l ^^^ z l)
    ∧ (x.ty.isInt = true →
      let w := x.ty.width
      let un := x.ty == .uint8
      let lo : Int := if un then 0 else -2 ^ (w - 1)
      let hi : Int := if un then 2 ^ w - 1 else 2 ^ (w - 1) - 1
      let v := fun (l : Nat) => reads un w (lane a.v[x.a] w l)
      let exact := fun (i : Instr) (v : Nat → Int) => lanes i x.d x.gov w
        (fun l r => (r : Int) = (if x.sat then max lo (min hi (v l)) else v l) % 2 ^ w)
        (x.sat = true ∧ ∃ l < min p.count (2048 / w), v l < lo ∨ hi < v l)
      exact (.vabs x) (fun l => ((v l).natAbs : Int)) ∧ exact (.vneg x) (fun l => -(v l)))
    ∧ (m.ty.isInt = true →
      let w := m.ty.width
      let un := m.u || m.ty == .uint8
      lanes (.vcmp m) m.d m.gov w (fun l r =>
        let f := reads un w (lane a.v[m.a] w l)
        let g := reads un w (bLane a p w m.b l)
        let holds := match m.cond with
          | .eq => f = g | .ne => f ≠ g | .lt => f < g | .le => f ≤ g | .gt => g < f | .ge => g ≤ f | .un => False
        (holds → r = 2 ^ w - 1) ∧ (¬holds → r = 0)) False)

/-- R120, R123, R129, R133, R134, R136: what the executed entry of a moving, counting or reducing instruction on
integers does, in a repetition of VLOOP too (that those which only move elements copy residue containers unchecked
is the model's choice, log 8): VSEL, VSPLAT, VMOV, VIOTA, VPERM and VSLIDE lane by lane; VINS changes
one lane; VEXT and VPOPC push q1; VRED leaves the sum or the extreme in lane 0 and its index, the lowest of equals, in
lane 0 of b; VDOT adds the products of 32 / w elements to its accumulator. -/
def Obligations.MoveAndReduceResults : Prop :=
  ∀ (s u : State) (cl : ClusterId) (c : CoreId) (e : Entry) (p : Pushed) (j : Nat) (o : VOne) (t : VTri) (d b : VReg)
    (x y : XReg) (xs : XSrc) (g : Gov) (q : PReg) (ty : Fmt) (la lb un mix : Bool) (rm : RMode),
    Ready s u cl c e p j →
    let a := (u.core c).arch
    let lanes := fun (i : Instr) (d : VReg) (g : Gov) (w : Nat) (P : Nat → Nat → Prop) =>
      p.instr = i → Ran s u cl c e (LaneEffect i d w (min p.count (2048 / w)) g.zero P False)
    let w := o.ty.width
    let n := 2048 / w
    let v := fun (l : Nat) => lane a.v[o.a] w l
    let sh := (scalarOf a p.xb xs).toInt
    let S := (scalarOf a p.xb xs).toNat
    let pushes := fun (i : Instr) (r : Nat) =>
      p.instr = i → Ran s u cl c e (fun a b => VecFrame i [] a b
        ∧ b = { a with v := b.v, q0 := b.q0, q1 := a.q1 ++ [BitVec.ofNat 64 r] })
    lanes (.vsel t) t.d t.gov t.ty.width (fun l r =>
      let w := t.ty.width
      r = if lane a.v[t.e] w l ≠ 0 then lane a.v[t.a] w l else lane a.v[t.b] w l)
    ∧ lanes (.vmov o) o.d o.gov w (fun l r => r = v l)
    ∧ lanes (.vsplat d xs g ty) d g ty.width (fun _ r => r = (scalarOf a p.xa xs).toNat % 2 ^ ty.width)
    ∧ lanes (.viota d x y g ty) d g ty.width (fun l r => r = (p.xa.toNat + l * p.xb.toNat) % 2 ^ ty.width)
    ∧ lanes (.vperm o b lb) o.d o.gov w (fun l r =>
      let m := lane a.v[b] w l
      r = if m < n then v m else 0)
    ∧ lanes (.vslide o xs) o.d o.gov w (fun l r =>
      (0 ≤ l + sh ∧ l + sh < n → r = v (l + sh).toNat) ∧ (l + sh < 0 ∨ n ≤ l + sh → r = 0))
    ∧ (p.instr = .vins d x y ty → Ran s u cl c e (LaneEffect (.vins d x y ty) d ty.width (2048 / ty.width) false (fun l r =>
      r = if p.xb.toNat = l then p.xa.toNat % 2 ^ ty.width else lane a.v[d] ty.width l) False))
    ∧ pushes (.vext d la xs ty) (if S < 2048 / ty.width then lane a.v[d] ty.width S else 0)
    ∧ pushes (.vpopc d la q ty)
      ((List.range (min p.count (2048 / ty.width))).filter (fun l => lane a.v[d] ty.width l != 0)).length
    ∧ (o.ty.isInt = true →
      let act := min p.count n
      let uns := un || o.ty == .uint8
      let vi := fun (l : Nat) => reads uns w (v l)
      let lo : Int := if uns then 0 else -2 ^ (w - 1)
      let hi : Int := if uns then 2 ^ w - 1 else 2 ^ (w - 1) - 1
      let gives := fun (red : Red) (ds : List VReg) (P : Nat → Prop) (I : Arch → Prop) =>
        p.instr = .vred o red un rm b → Ran s u cl c e (fun a b => VecFrame p.instr ds a b
          ∧ b = { a with v := b.v, q0 := b.q0 } ∧ P (lane b.v[o.d] w 0)
          ∧ (∀ l < n, l ≠ 0 → lane b.v[o.d] w l = 0) ∧ I b)
      let largest := fun (r : Nat) => (act = 0 → (r : Int) = lo % 2 ^ w)
        ∧ (act ≠ 0 → ∃ m < act, r = v m ∧ ∀ l < act, vi l ≤ vi m)
      let smallest := fun (r : Nat) => (act = 0 → (r : Int) = hi % 2 ^ w)
        ∧ (act ≠ 0 → ∃ m < act, r = v m ∧ ∀ l < act, vi m ≤ vi l)
      let index := fun (best : Nat → Nat → Prop) (k : Arch) => ∃ m, (∀ l < 64, lane k.v[b] 32 l = if l = 0 then m else 0)
        ∧ (act = 0 → m = 0xFFFFFFFF)
        ∧ (act ≠ 0 → m < act ∧ (∀ l < act, ¬best l m) ∧ ∀ l < m, best m l)
      gives .add [o.d] (fun r => (r : Int) = ((List.range act).map (fun l => reads false w (v l))).sum % 2 ^ w) (fun _ => True)
      ∧ gives .max [o.d] largest (fun _ => True) ∧ gives .min [o.d] smallest (fun _ => True)
      ∧ (o.d ≠ b → gives .maxi [o.d, b] largest (index (fun l m => vi m < vi l))
        ∧ gives .mini [o.d, b] smallest (index (fun l m => vi l < vi m))))
    ∧ (t.ty = .int8 ∨ t.ty = .uint8 ∨ t.ty = .int4 →
      let w := t.ty.width
      let k := 32 / w
      let f := fun (l : Nat) => reads (t.ty == .uint8) w (lane a.v[t.a] w l)
      let h := fun (l : Nat) => reads (if mix then t.ty == .int8 else t.ty == .uint8) w (lane a.v[t.b] w l)
      lanes (.vdot t mix) t.d t.gov 32 (fun l r => (r : Int) =
        (reads false 32 (lane a.v[t.e] 32 l) + ((List.range k).map (fun m => f (k * l + m) * h (k * l + m))).sum) % 2 ^ 32))

namespace Sys2Proof.Claims

/-- The FP32 format. -/
abbrev f32 : Float4 := float4 .fp32

/-- R35 into FP32 to nearest, a zero of either sign for an exact zero. -/
def Near32 (v : Rat) (r : Nat) : Prop := (v ≠ 0 → Rounds f32 .rne v r) ∧ (v = 0 → f32.mag r = 0)

/-- R153 to R155: y is the interpolation of the table T at knot k and the fraction u. An exact zero is -0 where every
term is (R48). -/
def InterpIs (T : Nat → Nat) (k : Nat) (u : Rat) (y : Nat) : Prop :=
  ∃ d, Near32 (f32.real (T (k + 1)) - f32.real (T k)) d ∧ (f32.mag d < f32.inf →
    let v := f32.real (T k) + u * f32.real d
    (v ≠ 0 → Rounds f32 .rne v y) ∧ (v = 0 → y = f32.code (T k = 2 ^ 31 ∧ f32.neg d) 0))

/-- R153 on a positive number. -/
def LogIs (x : Rat) (r : Nat) : Prop :=
  ∃ (e : Int) (k : Nat) (u : Rat) (y : Nat), k < 256 ∧ 0 ≤ u ∧ u < 1 ∧ x = 2 ^ e * (1 + (k + u) / 256)
    ∧ InterpIs (tlTable.getD · 0) k u y ∧ Rounds f32 .rne (e + f32.real y) r

/-- R154 on a finite number. -/
def ExpIs (x : Rat) (r : Nat) : Prop :=
  ∃ (e : Int) (k : Nat) (u : Rat) (y : Nat), k < 256 ∧ 0 ≤ u ∧ u < 1 ∧ x = e + (k + u) / 256
    ∧ InterpIs (teTable.getD · 0) k u y ∧ Rounds f32 .rne (2 ^ e * f32.real y) r

/-- R155: the table Y over [lo, hi] at x. -/
def TableIs (lo hi : Rat) (Y : Nat → Nat) (x : Rat) (r : Nat) : Prop :=
  ∃ t k : Nat, Rounds f32 .rtz ((x - lo) * 256 / (hi - lo)) t ∧ k ≤ 255 ∧ (k : Rat) ≤ f32.real t
    ∧ (f32.real t < k + 1 ∨ k = 255) ∧ InterpIs Y k (f32.real t - k) r

/-- R135: r is fn of the code x of a format f. -/
def SfuIs (f : Fmt) (fn : Sfu) (rm : RMode) (x r : Nat) : Prop :=
  let g := floatOf f
  let a := g.real x
  let fin := g.mag x < g.inf
  let infinite := g.mag x = g.inf
  let zero := g.mag x = 0
  (g.inf < g.mag x → r = nanOf f) ∧ (match fn with
  | .exp2 => (infinite → r = if g.neg x then 0 else g.inf)
    ∧ (fin → ∃ q, ExpIs a q ∧ r = f.round .rne (Fmt.fp32.value q))
  | .log2 => (zero → r = g.code True g.inf) ∧ (g.mag x ≤ g.inf → ¬zero → g.neg x → r = nanOf f)
    ∧ (infinite → ¬g.neg x → r = g.inf) ∧ (fin → 0 < a → ∃ q, LogIs a q ∧ r = f.round .rne (Fmt.fp32.value q))
  | .rcp => (infinite → r = g.code (g.neg x) 0) ∧ (zero → r = g.code (g.neg x) g.inf)
    ∧ (fin → a ≠ 0 → Rounds g rm (1 / a) r)
  | .rsqrt => (zero → r = g.code (g.neg x) g.inf) ∧ (g.mag x ≤ g.inf → ¬zero → g.neg x → r = nanOf f)
    ∧ (infinite → ¬g.neg x → r = 0)
    ∧ (fin → 0 < a → RoundsTo g rm False (fun q => q * q * a < 1) (fun q => q * q * a = 1) r))

/-- R130's allowed pairs. -/
def ConvPair (src dst : Fmt) : Prop :=
  (src.isFloating = true ∧ (dst.isFloating = true ∨ dst.isWhole = true))
  ∨ (src.isWhole = true ∧ (dst.isFloating = true ∨ dst.isWhole = true ∨ dst = .res))
  ∨ (src = .res ∧ (dst = .int32 ∨ dst = .int64)) ∨ (src = .fp32 ∧ dst = .s24) ∨ (src = .s24 ∧ dst = .fp32)

/-- R37, R44, R130: c is the code that the element x of src becomes in dst. -/
def ConvertsElem (src dst : Fmt) (rm : RMode) (sat : Bool) (x : Nat) (c : Conv) : Prop :=
  let w := dst.width
  let lo : Int := if dst = .res then -8388480 else if dst = .uint8 then 0 else -2 ^ (w - 1)
  let hi : Int := if dst = .res then 8388479 else if dst = .uint8 then 2 ^ w - 1 else 2 ^ (w - 1) - 1
  if dst.isFloating = true ∨ dst = .s24 then Converts dst rm sat (src.value x) c
  else if src.isFloating = true then
    ∃ r, IntConv rm lo hi (src.value x) r ∧ (c.val : Int) = r.1 % 2 ^ w ∧ c.sat = r.2
  else ∃ i : Int, (if src = .res then IsRes x i ∧ -8388480 ≤ i ∧ i ≤ 8388479 else i = reads (src == .uint8) src.width x)
    ∧ (let v := if sat then max lo (min hi i) else i
       (if dst = .res then c.val = resOf v else (c.val : Int) = v % 2 ^ w)
       ∧ (c.sat = true ↔ sat = true ∧ (i < lo ∨ hi < i)))

/-- R131's Emax of a quantised type. -/
def emaxOf : Fmt → Rat
  | .int8 => 127 | .int4 => 7 | .e4m3 => 448 | .e5m2 => 57344 | _ => 6

/-- R131: s is the scale of a block whose active elements are those with p. -/
def ScaleIs (f : Fmt) (p : Nat → Prop) (y : Nat → Sys2Proof.Num) (s : Nat) : Prop :=
  ((∃ l, p l ∧ (y l).isFin = false) → s = 0xFF8000)
  ∧ ((∀ l, p l → (y l).isFin = true) →
    ((∀ l, p l → numReal (y l) = 0) → s = 0x7F0000)
    ∧ ∀ m, p m → numReal (y m) ≠ 0 → (∀ l, p l → (numReal (y l)).abs ≤ (numReal (y m)).abs) →
      Rounds (floatOf .s24) .rup ((numReal (y m)).abs / emaxOf f) s)

/-- R131: q is the element x of a block with scale s, quantised; x / s is within the range of the type. -/
def QuantIs (f : Fmt) (s : Nat) (x : Sys2Proof.Num) (q : Nat) : Prop :=
  let v := numReal x / (floatOf .s24).real s
  if s = 0xFF8000 then q = 0
  else if f.isFloating = true then
    ∃ k, Nearest (floatOf f) .rne (v < 0) (above v) (equal v) k ∧ k ≤ topOf f ∧ q = (floatOf f).code (x.sign = true) k
  else ∃ k, RoundsInt .rne v k ∧ (q : Int) = k % 2 ^ f.width ∧ (k : Rat).abs ≤ emaxOf f

end Sys2Proof.Claims

/-- R37, R43, R47, R50, R122, R126 to R128, R130 to R135: what the executed entry of a floating-point, converting or
residue instruction does, in a repetition of VLOOP too. Arithmetic is that of ExactRounding, in every active lane; a
comparison with a NaN is false but for ne and un; VCVT and the quantisers convert each active element and add what it
contributes to amax, with the values of R37's table and R131; VSFU has R135's values; a reduction takes NaNs first,
then the extremes with -0 below +0; a residue works, compares and is summed in its three moduli, and a container that
R42 rejects, like a scale that R38 rejects, traps with FMT and its lane. The model's choices: a bad scalar residue
traps where some lane is active (log 21; R126 names lane 0), and an s24 infinity into fp32 obeys R37's saturate column
(log 8). -/
def Obligations.FloatLaneResults : Prop :=
  ∀ (s u : State) (cl : ClusterId) (c : CoreId) (e : Entry) (p : Pushed) (j : Nat) (o : VBin) (x : VUn) (m : VCmpOps)
    (t : VTri) (v : VOne) (q : VQOps) (var : FmaVar) (rm : RMode) (fn : Sfu) (dst : Fmt) (b : VReg) (sat un lb mix : Bool),
    Ready s u cl c e p j →
    let a := (u.core c).arch
    let act := fun (f : Fmt) => min p.count (2048 / f.width)
    let lanes := fun (i : Instr) (d : VReg) (g : Gov) (f : Fmt) (r : Nat → Nat) =>
      p.instr = i → Ran s u cl c e (LaneEffect i d f.width (act f) g.zero (fun l z => z = r l % 2 ^ f.width) False)
    let at_ := fun (r : VReg) (f : Fmt) (l : Nat) => lane a.v[r] f.width l
    let bAt := fun (f : Fmt) (b : VSrc) => bLane a p f.width b
    let note := fun (i : Instr) (ds : List VReg) (n : Nat) (f : Nat → AmaxDelta) (P : Arch → Prop) =>
      p.instr = i → Ran s u cl c e (fun a k =>
        let all := (List.range n).foldl (fun d l => d.join (f l)) AmaxDelta.zero
        VecFrame i ds a k ∧ P k ∧ k = { a with
          v := k.v, q0 := k.q0, amax := amaxUpdate a.amax all, amaxf := amaxfUpdate a.amaxf all })
    let traps := fun (i : Instr) (n : Nat) (bad : Nat → Prop) =>
      p.instr = i → CanTrap u c e → ∀ l < n, bad l → (∀ k < l, ¬bad k) → Trapped s cl c e ⟨.fmt, BitVec.ofNat 64 l⟩
    let resBad := fun (r : Nat) => 2 ^ 25 ≤ r ∨ 256 < r / 2 ^ 16
    (let f := o.ty
     let y := at_ o.a f
     let z := bAt f o.b
     (f.isFloat = true →
       lanes (.vadd o) o.d o.gov f (fun l => f.add o.rm (y l) (z l)) ∧ lanes (.vsub o) o.d o.gov f (fun l => f.sub o.rm (y l) (z l))
       ∧ lanes (.vmul o) o.d o.gov f (fun l => f.mul o.rm (y l) (z l)) ∧ lanes (.vdiv o) o.d o.gov f (fun l => f.div o.rm (y l) (z l))
       ∧ lanes (.vmin o) o.d o.gov f (fun l => f.fmin (y l) (z l)) ∧ lanes (.vmax o) o.d o.gov f (fun l => f.fmax (y l) (z l)))
     ∧ (f = .res →
       let mods := fun (op : Int → Int → Int) (r z : Nat) =>
         (op (r / 2 ^ 16 : Nat) (z / 2 ^ 16 : Nat) % 257).toNat * 2 ^ 16
         + (op (r / 2 ^ 8 % 256 : Nat) (z / 2 ^ 8 % 256 : Nat) % 255).toNat * 2 ^ 8
         + (op (r % 256 : Nat) (z % 256 : Nat) % 256).toNat
       let works := fun (i : Instr) (op : Int → Int → Int) =>
         ((∀ l < act f, ¬resBad (y l) ∧ ¬resBad (z l)) → lanes i o.d o.gov f (fun l => mods op (y l) (z l)))
         ∧ traps i (act f) (fun l => resBad (y l) ∨ resBad (z l))
       works (.vadd o) (· + ·) ∧ works (.vsub o) (· - ·) ∧ works (.vmul o) (· * ·)))
    ∧ (let f := m.ty
       let y := at_ m.a f
       let z := bAt f m.b
       let same := fun (r z : Nat) => decide
         (r / 2 ^ 16 = z / 2 ^ 16 ∧ r / 2 ^ 8 % 256 % 255 = z / 2 ^ 8 % 256 % 255 ∧ r % 256 = z % 256)
       f = .res →
         (m.cond = .eq ∨ m.cond = .ne → (∀ l < act f, ¬resBad (y l) ∧ ¬resBad (z l)) →
           lanes (.vcmp m) m.d m.gov f (fun l => if same (y l) (z l) = (m.cond == .eq) then 2 ^ 32 - 1 else 0))
         ∧ traps (.vcmp m) (act f) (fun l => resBad (y l) ∨ resBad (z l)))
    ∧ (let f := x.ty
       let y := at_ x.a f
       f.isFloat = true →
         lanes (.vsqrt x) x.d x.gov f (fun l => f.sqrt x.rm (y l)) ∧ lanes (.vabs x) x.d x.gov f (fun l => f.fabs (y l))
         ∧ lanes (.vneg x) x.d x.gov f (fun l => f.fneg (y l)))
    ∧ (let f := m.ty
       let y := fun (l : Nat) => f.value (at_ m.a f l)
       let z := fun (l : Nat) => f.value (bAt f m.b l)
       f.isFloat = true → lanes (.vcmp m) m.d m.gov f (fun l =>
         let nan := (y l).isNan || (z l).isNan
         let holds := match m.cond with
           | .eq => (y l).eqv (z l) | .ne => nan || !(y l).eqv (z l) | .lt => !nan && (y l).lt (z l)
           | .le => !nan && (y l).le (z l) | .gt => !nan && (z l).lt (y l) | .ge => !nan && (z l).le (y l) | .un => nan
         if holds then 2 ^ f.width - 1 else 0))
    ∧ (t.ty.isFloat = true → lanes (.vfma var rm t) t.d t.gov t.ty
        (fun l => t.ty.fused var rm (at_ t.a t.ty l) (at_ t.b t.ty l) (at_ t.e t.ty l)))
    ∧ (t.ty.isFloating = true →
      let w := t.ty.width
      let k := 32 / w
      let h := if mix then (if t.ty = .e4m3 then .e5m2 else if t.ty = .e5m2 then .e4m3 else t.ty) else t.ty
      lanes (.vdot t mix) t.d t.gov .fp32 (fun l => Fmt.fp32.round .rne (sumExact .rne (Fmt.fp32.value (at_ t.e .fp32 l) ::
        (List.range k).map (fun n => (t.ty.value (at_ t.a t.ty (k * l + n))).mul (h.value (lane a.v[t.b] w (k * l + n))))))))
    ∧ (let f := v.ty
       let y := at_ v.a f
       let n := act f
       (f = .fp32 ∨ f = .bf16 ∨ f = .fp16 → p.instr = .vsfu v fn rm →
         Ran s u cl c e (LaneEffect p.instr v.d f.width n v.gov.zero (fun l r => SfuIs f fn rm (y l) r) False))
       ∧ (f = .res →
         let sum := fun (g : Nat → Nat) => ((List.range n).map (fun l => g (y l))).sum
         ((∀ l < n, ¬resBad (y l)) → p.instr = .vred v .add un rm b → Ran s u cl c e (fun a k =>
           VecFrame p.instr [v.d] a k ∧ k = { a with v := k.v, q0 := k.q0 }
           ∧ lane k.v[v.d] 32 0 = sum (· / 2 ^ 16) % 257 * 2 ^ 16 + sum (· / 2 ^ 8 % 256) % 255 * 2 ^ 8 + sum (· % 256) % 256
           ∧ ∀ l < 64, l ≠ 0 → lane k.v[v.d] 32 l = 0))
         ∧ traps (.vred v .add un rm b) n (fun l => resBad (y l)))
       ∧ (f.isFloat = true →
         let first := fun (d : VReg) (w r : Nat) (k : Arch) =>
           lane k.v[d] w 0 = r % 2 ^ w ∧ ∀ l < 2048 / w, l ≠ 0 → lane k.v[d] w l = 0
         let isNan := fun (l : Nat) => (f.value (y l)).isNan = true
         let better := fun (big : Bool) (l m : Nat) =>
           (if big then (f.value (y m)).ltz (f.value (y l)) else (f.value (y l)).ltz (f.value (y m))) = true
         -- the value and the index of an extreme
         let best := fun (big : Bool) (r : Nat) (m : Nat) =>
           (n = 0 → r = f.round .rne (.inf big) ∧ m = 0xFFFFFFFF)
           ∧ (∀ l < n, isNan l → (∀ k < l, ¬isNan k) → r = f.layout.nan ∧ m = l)
           ∧ ((∀ l < n, ¬isNan l) → n ≠ 0 → m < n ∧ r = y m ∧ (∀ l < n, ¬better big l m) ∧ ∀ l < m, better big m l)
         let reduces := fun (red : Red) (ds : List VReg) (P : Arch → Prop) =>
           p.instr = .vred v red un rm b → Ran s u cl c e (fun a k =>
             VecFrame p.instr ds a k ∧ k = { a with v := k.v, q0 := k.q0 } ∧ P k)
         reduces .add [v.d] (fun k => first v.d f.width (f.round rm (if n = 0 then .fin false 0 0
           else sumExact rm ((List.range n).map (fun l => f.value (y l))))) k)
         ∧ reduces .max [v.d] (fun k => ∃ r m, best true r m ∧ first v.d f.width r k)
         ∧ reduces .min [v.d] (fun k => ∃ r m, best false r m ∧ first v.d f.width r k)
         ∧ (v.d ≠ b →
           reduces .maxi [v.d, b] (fun k => ∃ r m, best true r m ∧ first v.d f.width r k ∧ first b 32 m k)
           ∧ reduces .mini [v.d, b] (fun k => ∃ r m, best false r m ∧ first v.d f.width r k ∧ first b 32 m k)))
       ∧ (let w := dst.width
          let m := 2048 / max f.width w
          let bad := fun (l : Nat) => (f = .res ∧ resBad (y l)) ∨ (f = .s24 ∧ 2 ^ 24 ≤ y l)
          let i : Instr := .vcvt v dst sat rm
          (ConvPair f dst → (∀ l < min p.count m, ¬bad l) → ∃ conv : Nat → Conv,
            (∀ l < min p.count m, ConvertsElem f dst rm sat (y l) (conv l))
            ∧ note i [v.d] (min p.count m) (fun l => AmaxDelta.ofElem (f.value (y l)) (conv l).sat) (fun k =>
              LanesAre w m (min p.count m) v.gov.zero (fun l r => r = (conv l).val % 2 ^ w) a.v[v.d] k.v[v.d]
              ∧ ∀ l, m ≤ l → l < 2048 / w → lane k.v[v.d] w l = 0))
          ∧ traps i (min p.count m) bad))
    ∧ (let f : Fmt := if q.bf then .bf16 else .fp32
       let n := 2048 / f.width
       let L := 8 * 2 ^ q.bl.val
       let blocks := (n + L - 1) / L
       let w := q.ty.width
       let on := min p.count n
       let π := permIdx (if q.pm && a.perm.getLsbD 32 then some (a.permT.toList.map (·.toNat)) else none) n
       let y := fun (l : Nat) => f.value (at_ q.a f (π l))
       let quantised := q.ty = .int8 ∨ q.ty = .int4 ∨ q.ty = .e4m3 ∨ q.ty = .e5m2 ∨ q.ty = .e2m1
       let nanZero := q.ty = .int8 ∨ q.ty = .int4 ∨ q.ty = .e2m1
       (q.d ≠ q.b → quantised → note (.vqnt q) [q.d, q.b] on
         (fun l => AmaxDelta.ofElem (y l) ((y l).isNan && decide nanZero)) (fun k =>
           LanesAre w n on q.gov.zero (fun l r => QuantIs q.ty (lane k.v[q.b] 32 (l / L)) (y l) r) a.v[q.d] k.v[q.d]
           ∧ (∀ l, n ≤ l → l < 2048 / w → lane k.v[q.d] w l = 0)
           ∧ LanesAre 32 blocks ((on + L - 1) / L) q.gov.zero 
             (fun t r => ScaleIs q.ty (fun l => l / L = t ∧ l < on) y r) a.v[q.b] k.v[q.b]
           ∧ (∀ l, blocks ≤ l → l < 64 → lane k.v[q.b] 32 l = 0)))
       ∧ (let z := fun (l : Nat) => at_ q.a q.ty l
          let sc := fun (l : Nat) => lane a.v[q.b] 32 (l / L)
          let prod := fun (l : Nat) => (Fmt.s24.value (sc l)).mul (q.ty.value (z l))
          let val := fun (l : Nat) => f.round .rne (prod l)
          let top := fun (l : Nat) => (prod l).isFin = true ∧ (floatOf f).mag (val l) = topOf f
            ∧ (floatOf f).real (topOf f) < (numReal (prod l)).abs
          let bad := fun (k : Nat) => 2 ^ 24 ≤ lane a.v[q.b] 32 k
          ((∀ k < (on + L - 1) / L, ¬bad k) → quantised → ∃ beyond : Nat → Bool, (∀ l < on, beyond l = true ↔ top l)
            ∧ note (.vdqnt q lb) [q.d] on (fun l => AmaxDelta.ofElem (q.ty.value (z l)) (beyond l)) (fun k =>
              (∀ l < on, (∀ k < l, π k ≠ π l) → π l < n → lane k.v[q.d] f.width (π l) = val l % 2 ^ f.width)
              ∧ ∀ r < n, (∀ l < on, π l ≠ r) → lane k.v[q.d] f.width r = if q.gov.zero then 0 else lane a.v[q.d] f.width r))
          ∧ traps (.vdqnt q lb) ((on + L - 1) / L) bad))

namespace Sys2Proof.Claims

/-- The bytes that active elements with codes x store, in ascending lane order, as (lane, bytes): whole elements, or for
4-bit types whole bytes, the nibble past the last active element zero (R137). -/
def storedBytes (w act : Nat) (x : Nat → Nat) : List (Nat × List Byte) :=
  if w = 4 then (List.range ((act + 1) / 2)).map (fun t =>
    (2 * t, [BitVec.ofNat 8 (x (2 * t) + if 2 * t + 1 < act then 16 * x (2 * t + 1) else 0)]))
  else (List.range act).map (fun l => (l, (List.range (w / 8)).map (fun t => BitVec.ofNat 8 (x l / 256 ^ t))))

/-- The element of lane l from the bytes at its address: all of them, or its nibble (R29). -/
def elementOf (w l raw : Nat) : Nat := if w = 4 then raw / 16 ^ (l % 2) % 16 else raw

/-- Below m, l is the number at which f, among the numbers with p, is least. -/
def LeastAt (m : Nat) (p : Nat → Prop) (f : Nat → Int) (l : Nat) : Prop :=
  l < m ∧ p l ∧ ∀ k < m, p k → f l ≤ f k

end Sys2Proof.Claims

/-- R137 to R142: what the executed entry of a vector load or store does, in a repetition of VLOOP too, whose
addresses the repetition moves. A load gives each active lane the element at its address; a store leaves each active
lane's element there, the higher lane's where two meet, and no other byte changes. A misaligned element traps with
ALIGN before one out of range does with LOCALBOUND, each with its lowest address. Globally a load reads what a scalar
load would, a store enters the chunk's pending writes; the lowest lane that would fault raises the fault, or with ff,
above lane 0, ends the load there and becomes the predicate. (That a negative global address is a PTROVF, and that
residue elements are loaded and stored unchecked, is the model's choice, log 8.) -/
def Obligations.VectorMemoryEntries : Prop :=
  ∀ (s u v : State) (cl : ClusterId) (c : CoreId) (e : Entry) (p : Pushed) (j m : Nat) (o : VMem) (q : VStr) (x : VIdx)
    (ff : Bool) (pa : Nat → Nat) (f : FaultClass),
    Ready s u cl c e p j →
    let k := u.core c
    let a := k.arch
    let base : Int := p.xa.toNat % 2 ^ 56
    let row := fun (l : Nat) => base + 256 * o.slot + 256 * j + (l * o.ty.width / 8 : Nat)
    let strided := fun (l : Nat) => base + p.xb.toInt * (j * (2048 / q.ty.width) + l : Nat)
    let indexed := fun (l : Nat) => base + 256 * j + (lane a.v[x.b] x.ty.width l * (x.ty.width / 8) : Nat)
    -- a local access of elements of type t
    let checked := fun (t : Fmt) (addr : Nat → Int) =>
      let n := max (t.width / 8) 1
      ∀ l < min p.count (2048 / t.width), addr l % n = 0 ∧ a.stashSize ≤ addr l ∧ addr l + n ≤ 0x7E000
    let traps := fun (i : Instr) (t : Fmt) (addr : Nat → Int) => p.instr = i → CanTrap u c e →
      let n := max (t.width / 8) 1
      let act := min p.count (2048 / t.width)
      (∀ l, LeastAt act (fun l => addr l % n ≠ 0) addr l → Trapped s cl c e ⟨.align, BitVec.ofInt 64 (addr l)⟩)
      ∧ ((∀ l < act, addr l % n = 0) → ∀ l, LeastAt act (fun l => addr l < a.stashSize ∨ 0x7E000 ≤ addr l) addr l →
        Trapped s cl c e ⟨.localbound, BitVec.ofInt 64 (addr l)⟩)
    let loads := fun (i : Instr) (d : VReg) (g : Gov) (t : Fmt) (addr : Nat → Int) =>
      let n := max (t.width / 8) 1
      let act := min p.count (2048 / t.width)
      (p.instr = i → checked t addr → (∀ l < act, k.poisoned (addr l).toNat n = none) →
        Ran s u cl c e (LaneEffect i d t.width act g.zero
          (fun l r => r = elementOf t.width l (memRead a.spad (addr l).toNat n)) False))
      ∧ traps i t addr
    let stores := fun (i : Instr) (r : VReg) (t : Fmt) (addr : Nat → Int) =>
      let act := min p.count (2048 / t.width)
      let bs := storedBytes t.width act (fun l => lane a.v[r] t.width l)
      (p.instr = i → checked t addr →
        (k.noteWrite e.chunk e.n ((bs.map (fun b => linesOf (addr b.1).toNat b.2.length)).flatten) []).journalOver e.chunk
          = none →
        Ran s u cl c e (fun a b => VecFrame i [] a b ∧ b = { a with v := b.v, spad := b.spad }
          ∧ (∀ w ∈ bs, (∀ y ∈ bs, w.1 < y.1 → addr y.1 ≠ addr w.1) → ∀ t (h : t < w.2.length),
            memGet b.spad ((addr w.1).toNat + t) = w.2[t])
          ∧ ∀ z : Nat, (∀ w ∈ bs, (z : Int) < addr w.1 ∨ addr w.1 + w.2.length ≤ z) → memGet b.spad z = memGet a.spad z))
      ∧ traps i t addr
    loads (.vldl o) o.v o.gov o.ty row ∧ stores (.vstl o) o.v o.ty row
    ∧ (q.ty.width ≠ 4 → loads (.vldls q) q.v q.gov q.ty strided ∧ stores (.vstls q) q.v q.ty strided)
    ∧ (x.ty.width ≠ 4 → loads (.vgath x) x.v x.gov x.ty indexed ∧ stores (.vscat x) x.v x.ty indexed)
    ∧ (let t := o.ty
       let n := max (t.width / 8) 1
       let act := min p.count (2048 / t.width)
       let tagOk := (p.xa.toNat / 2 ^ 59 = 0 ∨ p.xa.toNat / 2 ^ 59 = t.code) ∧ p.xa.toNat / 2 ^ 56 % 8 = 0
       let fits := fun (l : Nat) => 0 ≤ row l ∧ row l + n ≤ 2 ^ 56
       let places := (List.range act).map (fun l => ((row l).toNat, n))
       let pays := fun (m : Nat) => u.payLines c 1 ((List.range m).map (fun l => ((row l).toNat, pa l))) = (v, true)
       let accs := fun (m : Nat) (w : Bool) => (List.range m).map (fun l => ((row l).toNat, pa l, n, w))
       let read := fun (m : Nat) (a b : Arch) => LanesAre t.width (2048 / t.width) m o.gov.zero
         (fun l r => r = elementOf t.width l (u.gRead c a (e.chunk, e.n) (pa l) n) % 2 ^ t.width) a.v[o.v] b.v[o.v] ∧ VecFrame p.instr [o.v] a b
       (p.instr = .vldg o ff ∨ p.instr = .vstg o → CanTrap u c e →
         (¬tagOk → Trapped s cl c e ⟨.fmt, p.xa⟩)
         ∧ (tagOk → ∀ l < act, ¬fits l → (∀ i < l, fits i) → Trapped s cl c e ⟨.ptrovf, BitVec.ofInt 64 (row l)⟩)
         ∧ (tagOk → (∀ l < act, fits l) → ∀ l, LeastAt act (fun l => row l % n ≠ 0) row l →
           Trapped s cl c e ⟨.align, BitVec.ofInt 64 (row l)⟩))
       ∧ (tagOk → (∀ l < act, fits l ∧ row l % n = 0) →
         (p.instr = .vldg o ff → u.gateStall k.part places = false →
           ((∀ l < act, u.elemPa c k (row l) false = .ok (pa l)) → pays act →
             RanAt s u cl c e (fun a b => read act a b ∧ b = { a with v := b.v }))
           ∧ (m < act → (∀ l < m, u.elemPa c k (row l) false = .ok (pa l)) → u.elemPa c k (row m) false = .error f →
             (ff = false ∨ m = 0 → exec (.sequencerEntryExecute cl) s =
               .next (u.raise c f .global (BitVec.ofInt 64 (row m)) 0))
             ∧ (ff = true → m ≠ 0 → o.gov.zero = true ∨ o.v.val ∉ k.errs.vec → pays m →
               RanAt s u cl c e (fun a b => read m a b ∧ b = { a.setP o.gov.pred m with v := b.v }))))
         ∧ (p.instr = .vstg o → u.gateStoreTrap k.part places = none → u.gateStall k.part places = false →
           ((∀ l < act, u.elemPa c k (row l) true = .ok (pa l)) → pays act →
             ((v.noteAccesses c e.chunk e.n (accs act true)).core c).journalOver e.chunk = none →
             RanAt s u cl c e (fun a b => VecFrame p.instr [] a b ∧ b = { a with
               v := b.v
               gwrites := addPending a.gwrites ((storedBytes t.width act (fun l => lane a.v[o.v] t.width l)).map (fun w =>
                 (List.range w.2.length).map (fun i => (⟨e.chunk, e.n, pa w.1 + i, w.2[i]?.getD 0⟩ : GByte)))).flatten }))
           ∧ (m < act → (∀ l < m, u.elemPa c k (row l) true = .ok (pa l)) → u.elemPa c k (row m) true = .error f →
             exec (.sequencerEntryExecute cl) s = .next (u.raise c f .global (BitVec.ofInt 64 (row m)) 0)))))

namespace Sys2Proof.Claims

/-- acc(T, x) of R158 and R161 gives T' without a trap; `dom` says that tmode.dom is set. -/
def AccIs (c : TmCtx) (t : Total) (x : Nat) (t' : Total) (dom : Bool) : Prop :=
  let x := if c.fam = 0 ∧ x = 0x80000000 then 0 else x
  let v := Fmt.fp32.value x
  let s0 := if t.n = 0 then 0 else t.s
  t.n + 1 < 2 ^ 32 ∧ t'.n = t.n + 1
  ∧ (if c.valid v = false then c.quiet = true ∧ dom = true ∧ t'.m = nan32 ∧ t'.s = nan32
    else dom = false ∧ (if t.poisoned then t'.m = nan32 ∧ t'.s = nan32
      else match c.regime with
        | .general => if t.n = 0 then t'.m = x ∧ t'.s = one32
          else t'.m = c.pivot t.m x ∧ t'.s = r32 (sumExact .rne
            [(Fmt.fp32.value t.s).mul (Fmt.fp32.value (c.rho t.m t'.m)), Fmt.fp32.value (c.rho x t'.m)])
        | .extreme => t'.m = (if t.n = 0 then x else c.pivot t.m x) ∧ t'.s = one32
        | .additive => t'.m = 0 ∧ t'.s = Fmt.fp32.add .rne s0 (if c.fam = 0 then log2Seq v else x)
        | .tab => t'.m = 0 ∧ t'.s = Fmt.fp32.add .rne s0 (tableSeq c.entryLo c.entryHi c.entry v)))

/-- acc(T, x) traps with a cause (R161). -/
def AccTraps (c : TmCtx) (t : Total) (x : Nat) (cause : Cause) : Prop :=
  let x := if c.fam = 0 ∧ x = 0x80000000 then 0 else x
  let bad := c.valid (Fmt.fp32.value x) = false ∧ c.quiet = false
  (bad ∧ cause = .tmdomain) ∨ (¬bad ∧ 2 ^ 32 ≤ t.n + 1 ∧ cause = .tmcount)

/-- Terms accumulated in order. -/
def AccAll (c : TmCtx) : Total → List Nat → Total → Bool → Prop
  | t, [], t', dom => t' = t ∧ dom = false
  | t, x :: xs, t', dom => ∃ w d1 d2, AccIs c t x w d1 ∧ AccAll c w xs t' d2 ∧ dom = (d1 || d2)

/-- merge(A, B) of R159 and R161 gives T without a trap. -/
def MergeIs (c : TmCtx) (a b t : Total) : Prop :=
  if a.n = 0 then t = b else if b.n = 0 then t = a
  else a.n + b.n < 2 ^ 32 ∧ t.n = a.n + b.n
    ∧ (if a.poisoned || b.poisoned then t.m = nan32 ∧ t.s = nan32
      else match c.regime with
        | .general => t.m = c.pivot a.m b.m ∧ t.s = r32 (sumExact .rne
            [(Fmt.fp32.value a.s).mul (Fmt.fp32.value (c.rho a.m t.m)), (Fmt.fp32.value b.s).mul (Fmt.fp32.value (c.rho b.m t.m))])
        | .extreme => t.m = c.pivot a.m b.m ∧ t.s = one32
        | _ => t.m = 0 ∧ t.s = Fmt.fp32.add .rne a.s b.s)

/-- The pairwise tree of R164 over 2^n totals. -/
def FoldIs (c : TmCtx) : Nat → (Nat → Total) → Total → Prop
  | 0, a, t => t = a 0
  | n + 1, a, t => ∃ b : Nat → Total, (∀ i < 2 ^ n, MergeIs c (a (2 * i)) (a (2 * i + 1)) (b i)) ∧ FoldIs c n b t

/-- exit(T) of R160 is domain(T). -/
def ExitDomain (c : TmCtx) (t : Total) : Prop :=
  let q := Fmt.fp32.value t.mean
  t.n = 0 ∨ (t.poisoned = false ∧ c.regime = .tab ∧ ((Fmt.fp32.value c.exitLo).le q && q.le (Fmt.fp32.value c.exitHi)) = false)

/-- exit(T) of R160 where it is not domain(T). -/
def exitValue (c : TmCtx) (t : Total) : Nat :=
  let q := t.mean
  let qv := Fmt.fp32.value q
  if t.poisoned then nan32
  else match c.regime with
    | .general =>
      let z := Fmt.fp32.div .rne (log2Seq qv) c.p
      if c.fam = 0 then Fmt.fp32.mul .rne t.m (exp2Seq (Fmt.fp32.value z)) else Fmt.fp32.add .rne t.m z
    | .extreme => t.m
    | .additive => if c.fam = 0 then exp2Seq qv else q
    | .tab => tableSeq c.exitLo c.exitHi c.exit qv

/-- R152 to R155: the sequences are the interpolations of their tables, whose exact points R152 names; R149, R156: the
pivot of two numbers and their factor. -/
def SequencesAre : Prop :=
  ∀ (v : Sys2Proof.Num) (c : TmCtx) (x y lo hi : Nat) (knots : List Nat) (e : Int),
    let val := Fmt.fp32.value
    let fin := fun (k : Nat) => f32.mag k < f32.inf
    let nan := fun (k : Nat) => f32.inf < f32.mag k
    let a := f32.real x
    let b := f32.real y
    let p := f32.real c.p
    x < 2 ^ 32 → y < 2 ^ 32 → lo < 2 ^ 32 → hi < 2 ^ 32 → c.p < 2 ^ 32 →
      tlTable.length = 257 ∧ tlTable.getD 0 1 = 0 ∧ tlTable.getD 256 0 = 0x3F800000
      ∧ teTable.length = 257 ∧ teTable.getD 0 0 = 0x3F800000 ∧ teTable.getD 128 0 = 0x3FB504F3
      ∧ teTable.getD 256 0 = 0x40000000
      ∧ (v.isNan = true → log2Seq v = 0x7FC00000 ∧ exp2Seq v = 0x7FC00000)
      ∧ (v = .inf false → log2Seq v = 0x7F800000 ∧ exp2Seq v = 0x7F800000)
      ∧ (v = .inf true → log2Seq v = 0x7FC00000 ∧ exp2Seq v = 0)
      ∧ (v.isFin = true → ExpIs (numReal v) (exp2Seq v)
        ∧ (numReal v = 0 → log2Seq v = 0xFF800000) ∧ (numReal v < 0 → log2Seq v = 0x7FC00000)
        ∧ (0 < numReal v → LogIs (numReal v) (log2Seq v)))
      ∧ Rounds f32 .rne e (log2Seq (.fin false 1 e)) ∧ Rounds f32 .rne (2 ^ e) (exp2Seq (.ofInt e))
      ∧ (fin lo → fin hi → f32.real lo < f32.real hi → fin x → f32.real lo ≤ a → a ≤ f32.real hi →
        knots.length = 257 → (∀ k ∈ knots, k < 2 ^ 32 ∧ fin k) →
        TableIs (f32.real lo) (f32.real hi) (knots.getD · 0) a (tableSeq lo hi knots (val x)))
      ∧ (¬nan c.p → ¬nan x → ¬nan y → a < b ∨ (a = b ∧ f32.neg x ∧ ¬f32.neg y) →
        c.pivot x y = (if f32.neg c.p then x else y) ∧ c.pivot y x = c.pivot x y)
      ∧ c.pivot x x = x
      ∧ (¬nan x → ¬nan y → a = b → c.rho x y = 0x3F800000)
      ∧ (fin x → fin y → fin c.p → a ≠ b →
        (c.fam = 0 → 0 < a → 0 < b → ∃ la lb d, LogIs a la ∧ LogIs b lb ∧ Near32 (p * (f32.real la - f32.real lb)) d
          ∧ (fin d → ExpIs (f32.real d) (c.rho x y))
          ∧ (f32.mag d = f32.inf → c.rho x y = if f32.neg d then 0 else 0x7F800000))
        ∧ (c.fam = 0 → 0 < p → a = 0 → 0 < b → c.rho x y = 0)
        ∧ (c.fam ≠ 0 → ∃ d, Near32 (p * (a - b)) d ∧ (fin d → ExpIs (f32.real d) (c.rho x y))
          ∧ (f32.mag d = f32.inf → c.rho x y = if f32.neg d then 0 else 0x7F800000)))

/-- A total as three lanes of 32 bits hold it. -/
def low (t : Total) : Total := ⟨t.m % 2 ^ 32, t.s % 2 ^ 32, t.n % 2 ^ 32⟩

end Sys2Proof.Claims

/-- R147 to R151, R158 to R161, R164, R165: what the executed entry of page 4 does, in a repetition of VLOOP too: the
context is what the push captured and the selected pair of tables; TMCLR empties lanes, TMACC accumulates elements in
order, TMMERGE and TMFOLD merge totals, TMEXIT finishes them, with quiet or traps for a domain error and TMCOUNT for a
count of 2^32; TMTAB loads a table from the scratchpad, or traps and leaves it. R149, R152 to R156: the sequences, the
pivot and the factor are those of `SequencesAre`, in exact arithmetic. -/
def Obligations.TransformedMeanEntries : Prop :=
  SequencesAre ∧ ∀ (s u : State) (cl : ClusterId) (c : CoreId) (e : Entry) (p : Pushed) (j : Nat) (d x y : VReg) (r : XReg)
    (lx ly pair exit : Bool) (g : Gov) (o : VOne) (q : PReg) (f : Nat → Total) (dm : Nat → Bool) (t : Total) (cause : Cause),
    Ready s u cl c e p j →
    let k := u.core c
    let a := k.arch
    let ctx := tmCtx a p
    let act := min p.count 64
    let entry := a.tables[if p.tmode.getLsbD 3 then (2 : Fin 4) else 0]
    let out := a.tables[if p.tmode.getLsbD 3 then (3 : Fin 4) else 1]
    let triples := fun (i : Instr) (d : VReg) (dom : Prop) (P : Nat → Total → Prop) =>
      p.instr = i → Ran s u cl c e (fun a b => VecFrame i (triple d) a b ∧ b = { a with v := b.v, tmode := b.tmode }
        ∧ (∀ l < 64, P l (totalAt b d l)) ∧ (dom → b.tmode = a.tmode ||| 0x100) ∧ (¬dom → b.tmode = a.tmode))
    let other := fun (d : VReg) (zero : Bool) (l : Nat) => if zero then Total.empty else totalAt a d l
    let w := o.ty.width
    let n := min p.count (2048 / w)
    let el := fun (i : Nat) => Fmt.fp32.round .rne (o.ty.value (lane a.v[o.a] w i))
    let terms := fun (l : Nat) => (((List.range (32 / w)).map (fun i => 32 / w * l + i)).filter (· < n)).map el
    let merges := fun (a b : Total) => a.n ≠ 0 ∧ b.n ≠ 0 ∧ 2 ^ 32 ≤ a.n + b.n
    let b := p.xa.toNat % 2 ^ 56
    let word := fun (i : Nat) => memRead a.spad (b + i) 4
    let num := fun (i : Nat) => Fmt.fp32.value (word i)
    let i : Instr := .tmtab r pair exit
    let idx : Fin 4 := if pair then (if exit then 3 else 2) else if exit then 1 else 0
    ctx.p = p.shape.toNat % 2 ^ 32 ∧ ctx.fam = p.tmode.toNat % 4 ∧ ctx.quiet = p.tmode.getLsbD 2
    ∧ ctx.entryLo = entry.lo.toNat ∧ ctx.entryHi = entry.hi.toNat ∧ ctx.entry = entry.knots.toList.map (·.toNat)
    ∧ ctx.exitLo = out.lo.toNat ∧ ctx.exitHi = out.hi.toNat ∧ ctx.exit = out.knots.toList.map (·.toNat)
    ∧ triples (.tmclr d g) d False (fun l z => z = if l < act then Total.empty else other d g.zero l)
    ∧ ((∀ l < 64, AccAll ctx (totalAt a o.d l) (terms l) (f l) (dm l)) →
        triples (.tmacc o) o.d (∃ l < 64, dm l = true)
          (fun l z => z = if terms l = [] then other o.d o.gov.zero l else low (f l)))
    ∧ (p.instr = .tmacc o → w = 32 ∨ w = 16 → CanTrap u c e → ∀ i < n, ∀ h : Bool,
        let l := i / (32 / w)
        (∀ k < l, AccAll ctx (totalAt a o.d k) (terms k) (f k) (dm k)) →
        AccAll ctx (totalAt a o.d l) ((List.range (i % (32 / w))).map (fun m => el (32 / w * l + m))) t h →
        AccTraps ctx t (el i) cause → Trapped s cl c e ⟨cause, BitVec.ofNat 64 i⟩)
    ∧ ((∀ l < act, MergeIs ctx (totalAt a x l) (totalAt a y l) (f l)) →
        triples (.tmmerge d x lx y ly g) d False (fun l z => z = if l < act then low (f l) else other d g.zero l))
    ∧ (p.instr = .tmmerge d x lx y ly g → CanTrap u c e → ∀ l < act, merges (totalAt a x l) (totalAt a y l) →
        (∀ k < l, ¬merges (totalAt a x k) (totalAt a y k)) → Trapped s cl c e ⟨.tmcount, BitVec.ofNat 64 l⟩)
    ∧ (let leaf := fun (l : Nat) => if l < act then totalAt a x l else Total.empty
       (FoldIs ctx 6 leaf t → triples (.tmfold d x lx q) d False (fun l z => z = if l = 0 then low t else Total.empty))
       ∧ (p.instr = .tmfold d x lx q → CanTrap u c e → (∀ t, ¬FoldIs ctx 6 leaf t) → Trapped s cl c e ⟨.tmcount, 0⟩))
    ∧ (p.instr = .tmexit d x lx g → (ctx.quiet = true ∨ ∀ l < act, ¬ExitDomain ctx (totalAt a x l)) →
        Ran s u cl c e (fun a b => VecFrame p.instr [d] a b ∧ b = { a with v := b.v, tmode := b.tmode }
          ∧ LanesAre 32 64 act g.zero (fun l z => (ExitDomain ctx (totalAt a x l) → z = nan32)
            ∧ (¬ExitDomain ctx (totalAt a x l) → z = exitValue ctx (totalAt a x l) % 2 ^ 32)) a.v[d] b.v[d]
          ∧ ((∃ l < act, ExitDomain ctx (totalAt a x l)) → b.tmode = a.tmode ||| 0x100)
          ∧ ((∀ l < act, ¬ExitDomain ctx (totalAt a x l)) → b.tmode = a.tmode)))
    ∧ (p.instr = .tmexit d x lx g → ctx.quiet = false → CanTrap u c e → ∀ l < act, ExitDomain ctx (totalAt a x l) →
        (∀ k < l, ¬ExitDomain ctx (totalAt a x k)) → Trapped s cl c e ⟨.tmdomain, BitVec.ofNat 64 l⟩)
    ∧ (p.instr = i →
      (CanTrap u c e →
        (b % 4 ≠ 0 → Trapped s cl c e ⟨.align, BitVec.ofNat 64 b⟩)
        ∧ (b % 4 = 0 → b < a.stashSize → Trapped s cl c e ⟨.localbound, BitVec.ofNat 64 b⟩)
        ∧ (b % 4 = 0 → a.stashSize ≤ b → 0x7E000 < b + 1036 → Trapped s cl c e ⟨.localbound, BitVec.ofNat 64 (max b 0x7E000)⟩))
      ∧ (b % 4 = 0 → a.stashSize ≤ b → b + 1036 ≤ 0x7E000 → k.poisoned b 1036 = none →
        (CanTrap u c e → ∀ m < 259, (∀ i < m, (num (4 * i)).isFin = true) →
          (num (4 * m)).isFin = false ∨ (m = 258 ∧ (num 0x404).lt (num 0x408) = false) →
          Trapped s cl c e ⟨.tmdomain, BitVec.ofNat 64 (b + 4 * m)⟩)
        ∧ ((∀ i < 259, (num (4 * i)).isFin = true) → (num 0x404).lt (num 0x408) = true →
          Ran s u cl c e (fun a k => k = { a with tables := k.tables }
            ∧ (k.tables[idx]).lo = BitVec.ofNat 32 (word 0x404) ∧ (k.tables[idx]).hi = BitVec.ofNat 32 (word 0x408)
            ∧ (∀ i : Fin 257, (k.tables[idx]).knots[i] = BitVec.ofNat 32 (word (4 * i.val)))
            ∧ ∀ m, m ≠ idx → k.tables[m] = a.tables[m]))))

/-! ### Synchronisation (09) -/

namespace Sys2Proof.Claims

/-- The executing core's instruction has completed with effect f on its registers; its wait, if it had one, is over. -/
def finished (s : State) (f : Arch → Arch) : State := s.wake.completed (f s.wake.me.arch)

end Sys2Proof.Claims

/-- R189, R190: BARV on a line that the core does not use completes at once; on a line without an open arrival it
arrives, a release at the group's scope (R261), and completes, and its pend bit is set; with an open arrival it waits.
BWAIT completes unless an arrival is open, as an acquire at the group's scope.
BMASK arrives where it can and says which lines refused, which are enabled and which are pending. -/
def Obligations.BarrierInstructions : Prop :=
  ∀ (s : State) (n : Reg8) (d a : XReg),
    let e := ended s
    (Quiet s →
      (e.enabled n = false → exec (.barv n) s = .next (kept e))
      ∧ (e.enabled n = true → e.pending n = false →
          exec (.barv n) s = .next (kept (e.arriveMe n)) ∧ (e.arriveMe n).pending n = true)
      ∧ (e.enabled n = true → e.pending n = true → exec (.barv n) s = .next (e.block (.barv n) 0 0 (some (.pool n))))
      ∧ (let r := arriveMask (s.x a).toNat (List.finRange 8) e 0
         exec (.bmask d a) s = .next (finished r.1 (fun b => b.setX d
          (BitVec.ofNat 64 (r.2 * 0x10000 + r.1.me.arch.enMask * 0x100 + r.1.me.pend.toNat))))))
    ∧ (s.me.wait = none →
      (s.pending n = false → exec (.bwait n) s = .next (kept (s.groupAcquire s.turn n)))
      ∧ (s.pending n = true → exec (.bwait n) s = .next (s.block (.bwait n) 0 0 (some (.pool n)))))

/-- R194, R195: SEND to a bound channel with a free slot delivers its payload, a release, and raises the channel's
count; RECV and RPOLL take the oldest message, an acquire of its SEND (R261), return its length and address, and hold
its slot; RPOLL on an empty channel returns 0; RECV on one waits for its sender; a channel that is not enabled traps
with ILLEGAL. -/
def Obligations.ChannelInstructions : Prop :=
  ∀ (s : State) (d a : XReg) (req : Bool) (len : Fin 8) (ch : Fin 16),
    let e := ended s
    let n := 8 * (len.val + 1)
    let src := s.x a
    let dst := sendDst (s.x d)
    let q := sendCh (s.x d)
    let f := if req then e.setMe { e.me with arch := { e.me.arch with
        chcfg := e.me.arch.chcfg.set (sendReply (s.x d)) (chSetSender e.me.arch.chcfg[sendReply (s.x d)] dst) } } else e
    let w := (f.core dst).arch.chcfg[q]
    let c := (f.core dst).chans[q]
    let mine := s.me.chans[ch]
    let cfg := s.me.arch.chcfg[ch]
    let took := fun (u : State) =>
      let m := u.acquired s.turn (covering s.turn (mine.srcs[mine.head]?.getD 0)) (.slot s.turn ch mine.head)
      finished (m.setMe { m.me with chans := m.me.chans.set ch { mine with
          head := (mine.head + 1) % chSlots cfg, count := mine.count - 1, held := some mine.head } })
        (fun b => b.setX d (BitVec.ofNat 64 ((mine.lens[mine.head]?.getD 0) * 2 ^ 32 + chBase cfg + 64 * mine.head)))
    (Quiet s → payloadTrap s.me.arch.stashSize src n = none → s.me.poisoned src.toNat n = none →
      f.refuses dst s.turn = false → chEn w = true → c.free (chSlots w) = true → chSender w = s.turn →
      f.spadHeld dst (chBase w + 64 * ((c.head + c.count) % chSlots w)) n true = false →
      ∃ t, exec (.send d a req len) s = .next t
        ∧ t = finished ((f.released s.turn (covering s.turn dst)
            (some (.slot dst q ((c.head + c.count) % chSlots w)))).accept dst q n (s.me.arch.bodyAt src.toNat n)) id
        ∧ ((t.core dst).chans[q]).count = c.count + 1
        ∧ ((c.head + c.count) % chSlots w < c.srcs.size → ((t.core dst).chans[q]).srcs[(c.head + c.count) % chSlots w]? = some s.turn))
    ∧ (Quiet s → chEn cfg = true → mine.count ≠ 0 →
      exec (.recv d ch) s = .next (took (e.setMe { e.me with chans := e.me.chans.set ch { mine with held := none } }))
      ∧ exec (.rpoll d ch) s = .next (took e))
    ∧ (Quiet s → chEn cfg = true → mine.count = 0 →
      (∃ t, exec (.rpoll d ch) s = .next t ∧ (d ≠ 0 → t.x d = 0) ∧ (t.me.chans[ch]).held = none ∧ OnlyMe s t)
      ∧ (∃ t w, exec (.recv d ch) s = .next t ∧ t.me.wait = some w ∧ w.instr = .recv d ch
          ∧ w.edge = some (.core (chSender cfg))))
    ∧ (chEn cfg = false → exec (.recv d ch) s = s.trap .illegal (BitVec.ofNat 64 ch.val)
        ∧ exec (.rpoll d ch) s = s.trap .illegal (BitVec.ofNat 64 ch.val))

/-- R197, R198: FETAKE of a full word returns it and leaves it empty, naming the taker; of an empty word it is listed at
the word's bank; FEPUT reaches the bank and returns whether the word was full; FEPEEK of an own word reads it and its
state, in program order (01 R13: as entries before it will leave the word), and changes neither. -/
def Obligations.FullEmptyInstructions : Prop :=
  ∀ (s r : State) (d a b : XReg),
    let f := s.future
    let e := ended s
    let addr := s.x a
    let owner := addrCore addr
    let o := addrOffset addr
    let u := e.touchSpad owner o 8 false
    s.wordTrap addr 8 = none →
    (Quiet s → e.wordRefused addr = false → e.spadHeld owner o 8 true = false →
      ((e.core owner).poisoned o 8 = none → (u.core owner).isFull o = true →
        exec (.fetake d a) s = .next (finished
          ((u.acquired s.turn (covering s.turn owner) (.word owner o)).putWord owner o (BitVec.ofNat 64 s.turn.val) false)
          (fun k => k.setX d ((u.core owner).wordAt o))))
      ∧ ((e.core owner).poisoned o 8 = none → (u.core owner).isFull o = false → (u.core owner).bankUse o < 32 →
        exec (.fetake d a) s = .next ((u.onCore owner (fun k => { k with deferred := k.deferred ++ [⟨o, s.turn⟩] })).block
          (.fetake d a) 1 0 (some (.core ((u.core owner).holder o)))))
      ∧ exec (.feput d a b) s = .next (finished
          ((e.released s.turn (covering s.turn owner) (some (.word owner o))).put owner o (s.x b))
          (fun k => k.setX d (BitVec.ofNat 64 (b2n ((e.core owner).isFull o))))))
    ∧ (s.me.wait = none → owner = s.turn → s.readAhead f f.loc o 8 = some r → f.s.me.poisoned o 8 = none →
        let t := r.setMe (r.me.noteRead r.me.curChunk (linesOf o 8) [])
        exec (.fepeek d a b) s = .next (finished (t.acquired s.turn .core (.word owner o))
          (fun k => (k.setX d (f.s.me.wordAt o)).setX b (t.future.s.me.peekState o))))
    ∧ (s.me.seq = [] → f.s = s ∧ s.readAhead f f.loc o 8 = some s)

namespace Sys2Proof.Claims

/-- SSTEP's second arrival (R191, stage 4 of R182) from t, with outcome o: it waits while an arrival is open, and
arrives and waits for the release; on an unused line it completes, an acquire of the launch domain. -/
def SstepAgain (t : State) (o : Out) : Prop :=
  (t.enabled launchLine = false → o = .next (finished t.domainAcquire id))
  ∧ (t.enabled launchLine = true → t.pending launchLine = true → o = .next (t.block .sstep 4 0 (some (.pool launchLine))))
  ∧ (t.enabled launchLine = true → t.pending launchLine = false →
      o = .next ((t.arriveMe launchLine).block .sstep 5 0 (some (.pool launchLine))))

/-- Stage 3: the exchange, which is over once the core's copy commands and its plan are. -/
def SstepExchange (t : State) (o : Out) : Prop :=
  let ended := t.me.q2 = [] ∧ t.me.copy = none ∧ t.me.planAt = t.me.plan.length
  (ended → SstepAgain (t.setMe { t.me with planAt := 0 }) o) ∧ (¬ended → o = .next (t.block .sstep 3 0 none))

/-- Stage 2: the wait for the release of the first arrival; then the exchange begins with the plan's first entry. -/
def SstepRelease (t : State) (o : Out) : Prop :=
  (t.enabled launchLine = true ∧ t.pending launchLine = true → o = .next (t.block .sstep 2 0 (some (.pool launchLine))))
  ∧ (t.enabled launchLine = false ∨ t.pending launchLine = false → SstepExchange (t.setMe { t.me with planAt := 0 }) o)

end Sys2Proof.Claims

/-- R191: SSTEP's stages. On its enabled line the core waits while an arrival is open, arrives with a release of the
launch domain (R261), waits for the line's release, exchanges, arrives again, waits again, and completes with an
acquire; on an unused line, with nothing to exchange, it completes at once. R223, R224: SHPARK parks what leaves 2
shares usable, SHUNPARK takes parked shares back; both return the number, and wait while an earlier entry can still
trap (R18; how that is told before the entry executes is log 6's). -/
def Obligations.SuperstepAndShareInstructions : Prop :=
  ∀ (s : State) (d a : XReg),
    let e := ended s
    (Quiet s → e.enabled launchLine = false → s.me.q2 = [] → s.me.copy = none → s.me.plan = [] →
      ∃ t, exec .sstep s = .next t ∧ t.me.arch = s.me.arch.advance s.me.ilen ∧ t.me.planAt = 0 ∧ t.mem = s.mem
        ∧ (s.me.launch = none → OnlyMe s t))
    ∧ (s.me.breakRun.endChunk.chunks = [] → s.me.seq = [] → let o := exec .sstep s
      (s.stage ≤ 1 →
        (e.enabled launchLine = false → SstepRelease e.domainRelease o)
        ∧ (e.enabled launchLine = true → e.pending launchLine = true →
          o = .next (e.block .sstep 1 0 (some (.pool launchLine))))
        ∧ (e.enabled launchLine = true → e.pending launchLine = false →
          o = .next ((e.domainRelease.arriveMe launchLine).block .sstep 2 0 (some (.pool launchLine)))))
      ∧ (s.stage = 2 → SstepRelease e o) ∧ (s.stage = 3 → SstepExchange e o) ∧ (s.stage = 4 → SstepAgain e o)
      ∧ (s.stage = 5 → e.enabled launchLine = true → e.pending launchLine = true →
        o = .next (e.block .sstep 5 0 (some (.pool launchLine))))
      ∧ (s.stage = 5 → e.enabled launchLine = false ∨ e.pending launchLine = false → o = .next (finished e.domainAcquire id)))
    ∧ (let f := s.future
       let t := s.readEarly f
       let p := min (t.x a).toNat (t.me.power.own - t.me.arch.sparked - 2)
       let q := min (t.x a).toNat t.me.arch.sparked
       (f.risky = false →
         exec (.shpark d a) s =
           .next (t.completed ({ t.me.arch with sparked := t.me.arch.sparked + p }.setX d (BitVec.ofNat 64 p)))
         ∧ exec (.shunpark d a) s =
           .next (t.completed ({ t.me.arch with sparked := t.me.arch.sparked - q }.setX d (BitVec.ofNat 64 q))))
       ∧ (f.risky = true → exec (.shpark d a) s = .next s ∧ exec (.shunpark d a) s = .next s)
       ∧ (s.me.seq = [] → f.risky = false ∧ t = s))

/-! ### Memory instructions (14) -/

namespace Sys2Proof.Claims

/-- R269: the new value of each atomic operation and what d receives, by width and sign; floating sums and extremes are
those of ExactRounding. -/
def AtomsGive : Prop :=
  ∀ (ty : AtomTy) (old v cmp : Nat),
    let f := ty.fmt
    let w := f.width
    let new := fun (o : Aop) => atomNew o f old v cmp
    let int := fun (x : Nat) => reads false w x
    let float := fun (t : FpTy) =>
      new .add = t.fmt.add .rne old v ∧ new .min = t.fmt.fmin old v ∧ new .max = t.fmt.fmax old v
      ∧ (atomOld f old).toNat = old
    (w = if ty = .bf16 then 16 else if ty = .int64 then 64 else 32) ∧ (old < 2 ^ w → v < 2 ^ w →
      (ty = .int32 ∨ ty = .int64 →
        new .add = (old + v) % 2 ^ w
        ∧ (∀ i, (new .and).testBit i = (old.testBit i && v.testBit i) ∧ (new .or).testBit i = (old.testBit i || v.testBit i)
          ∧ (new .xor).testBit i = (old.testBit i ^^ v.testBit i))
        ∧ new .min < 2 ^ w ∧ int (new .min) = min (int old) (int v)
        ∧ new .max < 2 ^ w ∧ int (new .max) = max (int old) (int v) ∧ (atomOld f old).toInt = int old)
      ∧ (ty = .fp32 → float .fp32) ∧ (ty = .bf16 → float .bf16)
      ∧ new .swap = v ∧ new .cas = if old = cmp then v else old)

end Sys2Proof.Claims

/-- R268 to R271: an access whose pointer passes the checks, behind no migrating window, whose translation succeeds and
whose transfer's tokens are spent (R358; `s1`): LDG reads, STG and ATOM add pending bytes of the open chunk in their
places in program order, and d receives the old value; ATOML of an own word reads and writes the scratchpad, of another
core's word it acts at the owner's bank as a release and an acquire, once it is outside any chunk. R269: new and old
are those of `AtomsGive`. Reads behind entries that are still in the sequencer find the core as those will leave it
(`future`), and only a byte that is not known yet makes them wait (log 6); with an empty sequencer that is the core as
it stands. -/
def Obligations.GlobalAccesses : Prop :=
  AtomsGive ∧ ∀ (s s1 s2 : State) (d a b : XReg) (off : Int) (size : Size) (u acq rel : Bool) (sc : Scope) (aop : Aop) (ty : AtomTy)
      (pa : Nat),
    let n := size.bytes
    let p := s.x a
    let ea : Int := p.toNat % 2 ^ 56 + off * n
    let free := fun (x : Int) (m : Nat) => s.gateStall s.me.part [(x.toNat, m)] = false
    let x := s1.future
    let noted := fun (t : State) (va m : Nat) => t.noteAccess t.turn t.me.curChunk t.me.chunkCnt va pa m true
    let journal := fun (t : State) (va m v : Nat) =>
      let w := noted t va m
      w.setMe { w.me with arch := { w.me.arch with
        gwrites := addPending w.me.arch.gwrites (pendingBytes t.me.curChunk t.me.chunkCnt pa m v) } }
    let room := fun (t : State) (va m : Nat) => (noted t va m).me.journalOver t.me.curChunk = none
    (s1.me.seq = [] → x.s = s1 ∧ s1.readAhead x x.glob pa n = some s1)
    ∧ (s.globalTrap p (accessFmtBad p) ea n sc = none → free ea n → s.accessPa ea.toNat false true = .ok pa →
      s.payLines s.turn 0 [(ea.toNat, pa)] = (s1, true) → s1.readAhead x x.glob pa n = some s2 →
      let q := s2.beginAcquire acq sc ea.toNat
      let v := q.gRead q.turn x.s.me.arch (q.me.curChunk, q.me.chunkCnt) pa n
      let t := (q.endAcquire acq sc ea.toNat pa n).noteAccess q.turn q.me.curChunk q.me.chunkCnt ea.toNat pa n false
      exec (.ldg d a off size u acq sc) s =
        .next (wrote t d (if u then BitVec.ofNat 64 v else (BitVec.ofNat (8 * n) v).signExtend 64)))
    ∧ (s.globalTrap p (accessFmtBad p) ea n sc = none → free ea n → s.accessPa ea.toNat false true = .ok pa →
      s.payLines s.turn 0 [(ea.toNat, pa)] = (s1, true) → (∃ i < n, x.glob (pa + i) = .unknown) →
      exec (.ldg d a off size u acq sc) s = .next s1)
    ∧ (s.globalTrap p (accessFmtBad p) ea n sc = none → s.gateStoreTrap s.me.part [(ea.toNat, n)] = none → free ea n →
      s.accessPa ea.toNat true false = .ok pa → s.payLines s.turn 0 [(ea.toNat, pa)] = (s1, true) → room s1 ea.toNat n →
      exec (.stg d a off size rel sc) s =
        .next (kept ((journal s1 ea.toNat n (s.x d).toNat).noteRelease rel sc ea.toNat pa)))
    ∧ (∀ f : Fmt, atomType p = some f → ptrBlk p = 0 → (aop.logic && f.isFloat) = false →
      let m := f.width / 8
      let at_ : Int := p.toNat % 2 ^ 56
      let here := (s2.me.curChunk, s2.me.chunkCnt)
      let old := s2.gReadNow x.s.me.arch here pa m
      let new := atomNew aop f old ((s.x b).toNat % 2 ^ f.width) ((s.x d).toNat % 2 ^ f.width)
      let q := (s2.beginAcquire true sc at_.toNat).seen s2.turn here.1 here.2 pa true
      let t := (q.endAcquire true sc at_.toNat pa m).noteAccess q.turn q.me.curChunk q.me.chunkCnt at_.toNat pa m false
      s.globalTrap p false at_ m sc = none → s.gateStoreTrap s.me.part [(at_.toNat, m)] = none → free at_ m →
      s.accessPa at_.toNat true true = .ok pa → s.payLines s.turn 0 [(at_.toNat, pa)] = (s1, true) →
      s1.readAhead x x.glob pa m = some s2 → room t at_.toNat m →
      exec (.atom d a b aop sc) s =
        .next (wrote ((journal t at_.toNat m new).noteRelease true sc at_.toNat pa) d (atomOld f old)))
    ∧ (let f := ty.fmt
       let m := f.width / 8
       let o := addrOffset p
       let y := s.future
       let old := memRead y.s.me.arch.spad o m
       let new := atomNew aop f old ((s.x b).toNat % 2 ^ f.width) ((s.x d).toNat % 2 ^ f.width)
       s.wordTrap p m = none → addrCore p = s.turn → s.readAhead y y.loc o m = some s2 → y.s.me.poisoned o m = none →
       let k := s2.me.noteRead s2.me.curChunk (linesOf o m) []
       (k.noteWrite k.curChunk k.chunkCnt (linesOf o m) []).journalOver k.curChunk = none →
       ∃ t, exec (.atoml d a b aop ty) s = .next t ∧ (d ≠ 0 → t.x d = atomOld f old)
         ∧ (s.me.seq = [] → memRead t.me.arch.spad o m = new % 256 ^ m
           ∧ (∀ c, c < o ∨ o + m ≤ c → memGet t.me.arch.spad c = memGet s.me.arch.spad c) ∧ OnlyMe s t)
         ∧ (s.me.seq ≠ [] → t.me.arch.spad = s.me.arch.spad ∧ t.me.arch.slog = s.me.arch.slog
             ++ [⟨s.me.seq.length, o, (List.range m).map (fun i => BitVec.ofNat 8 (new / 256 ^ i))⟩]))
    ∧ (let f := ty.fmt
       let m := f.width / 8
       let o := addrOffset p
       let own := addrCore p
       let e := ended s
       let key := SyncKey.word own o
       let at_ := covering s.turn own
       let t := ((e.acquired s.turn at_ key).released s.turn at_ (some key)).touchSpad own o m true
       let old := memRead (t.core own).arch.spad o m
       let new := atomNew aop f old ((s.x b).toNat % 2 ^ f.width) ((s.x d).toNat % 2 ^ f.width)
       Quiet s → s.wordTrap p m = none → own ≠ s.turn → e.wordRefused p = false → e.spadHeld own o m true = false →
       (e.core own).poisoned o m = none →
       ∃ u, exec (.atoml d a b aop ty) s = .next u
         ∧ u = finished (t.putSpad own o ((List.range m).map (fun i => BitVec.ofNat 8 (new / 256 ^ i))))
             (fun r => r.setX d (atomOld f old))
         ∧ (d ≠ 0 → u.x d = atomOld f old) ∧ memRead (u.core own).arch.spad o m = new % 256 ^ m)

/-- R273, R113, R292: FENCE and CHUNK complete outside any chunk once the one before them is committed; a fence is a
release and an acquire of its scope (R260) and at GATE scope needs a mapped window; HALT, once the core's commands have
ended, sets pc to the next address, and the core is halted. That HALT takes no loop's step is the model's choice (log
21). -/
def Obligations.FenceChunkHalt : Prop :=
  ∀ (s : State) (sc : Scope),
    let e := ended s
    (Quiet s →
      (sc ≠ .gate ∨ s.windows s.me.part ≠ [] → exec (.fence sc) s = .next (kept (e.fenced s.turn sc)))
      ∧ exec .chunk s = .next (kept e)
      ∧ (s.me.enginesIdle = true → ∃ t, exec .halt s = .next t ∧ t.me.run = .halted
          ∧ t.me.arch = { s.me.arch with pc := s.npc }))
    ∧ (sc = .gate → s.windows s.me.part = [] → exec (.fence sc) s = s.trap .scope 0)

/-- R274 to R276: windows are read and written with the old word returned, and lines that no window covers any more
leave the stash; clean sends the modified lines of a range home and keeps them in E, flush also drops them; fetch
brings in the lines of a range in ascending order, waiting where one must wait for a token (R358) and going on there,
and skips a line that is held, not cacheable, or whose access would fault; each of the three returns 0. Which line a
fill of a full stash evicts is left open: log 15. (The order of a fetch, and that it goes on at the line that waited,
is the model's choice, log 15.) -/
def Obligations.StashInstructions : Prop :=
  ∀ (s : State) (d a b : XReg),
    let n := windowOf (s.x a)
    let v := s.x b
    let r := stashRange (s.x a) (s.x b)
    let first := s.me.fetchAt.getD r.1
    let c : Arch := { s.me.arch with sw := s.me.arch.sw.set n v }
    exec (.stashRdwin d a) s = .next (wrote s d s.me.arch.sw[n])
    ∧ (s.me.arch.windowBad n v = false →
        exec (.stashWrwin d a b) s = .next (State.completed
          (s.keepLines (fun l => !(l.core == s.turn) || c.cacheable (l.va * 64))) (c.setX d s.me.arch.sw[n])))
    ∧ (s.me.arch.windowBad n v = true → exec (.stashWrwin d a b) s = s.trap .resfield v)
    ∧ exec (.stashClean d a b) s = .next (wrote
        { s.writeBacks (s.stash.filter (s.stashReaches r)) with stash := s.stash.map (fun l =>
          if s.stashReaches r l && l.st == .m then { l with st := .e } else l) } d 0)
    ∧ exec (.stashFlush d a b) s = .next (wrote (s.keepLines (fun l => !s.stashReaches r l)) d 0)
    ∧ (∀ t : State, s.fetchLines first (r.2 - first) = (t, true) →
        exec (.stashFetch d a b) s = .next (wrote t d 0) ∧ t.me.fetchAt = none)
    ∧ (∀ t : State, s.fetchLines first (r.2 - first) = (t, false) →
        exec (.stashFetch d a b) s = .next t ∧ ∃ line, t.me.fetchAt = some line ∧ first ≤ line ∧ line < r.2)
    ∧ (∀ (t : State) (line m : Nat), s.fetchLine line = some t → s.fetchLines line (m + 1) = t.fetchLines (line + 1) m)
    ∧ (∀ line m : Nat, s.fetchLine line = none →
        s.fetchLines line (m + 1) = (s.setMe { s.me with fetchAt := some line }, false))
    ∧ (∀ line : Nat, s.me.arch.cacheable (line * 64) = false → s.fetchLine line = some s)
    ∧ (∀ (line : Nat) (f : FaultClass), s.translate s.turn s.me.part (line * 64) false = .error f →
        s.fetchLine line = some s)
    ∧ (∀ (line pa : Nat) (u : State), s.me.arch.cacheable (line * 64) = true → s.winAt s.me.part (line * 64) = none →
        s.translate s.turn s.me.part (line * 64) false = .ok pa → s.readBad s.turn pa = false →
        s.fetchLine line = some u → ∃ l ∈ u.stash, l.core = s.turn ∧ l.va = line)

/-- R277, R17: QPUSH adds to q0 while it has room and waits while it is full; QPOP takes the oldest element and waits
while there is none; QSTAT returns the depth and the number of elements, of which no queue holds more than its depth. An
element that an undone chunk had pushed and an entry has popped already is not pushed twice (log 6). -/
def Obligations.QueueInstructions : Prop :=
  ∀ (s : State) (d a : XReg) (q : Reg8) (v : Word) (vs : List Word),
    let arch := s.me.arch
    let depth := if q.val < 2 then 8 else if q.val % 2 = 0 then 2 else 4
    (s.me.wait = none →
      (arch.owed = [] → arch.q0.length < 8 →
        exec (.qpush a) s = .next (s.completed { arch with q0 := arch.q0 ++ [s.x a] }))
      ∧ (arch.owed = [] → arch.q0.length = 8 → exec (.qpush a) s = .next (s.block (.qpush a) 0 0 none))
      ∧ (arch.owed = v :: vs → ∃ t, exec (.qpush a) s = .next t ∧ t.me.arch.q0 = arch.q0 ∧ t.me.arch.owed = vs
        ∧ OnlyMe s t ∧ (v = s.x a → t = s.completed { arch with owed := vs })
        ∧ (v ≠ s.x a → ∀ ch ∈ t.me.chunks, ch.id = s.me.curChunk → ch.conflict = true))
      ∧ (arch.popQueue q = v :: vs → exec (.qpop d q) s = .next (s.completed ((arch.setPopQueue q vs).setX d v)))
      ∧ (arch.popQueue q = [] → exec (.qpop d q) s = .next (s.block (.qpop d q) 0 0 none)))
    ∧ exec (.qstat d q) s = .next (wrote s d (BitVec.ofNat 64 (depth * 256 + min depth (s.me.queueCount q))))
    ∧ (s.me.queueCount q ≤ depth →
      exec (.qstat d q) s = .next (wrote s d (BitVec.ofNat 64 (depth * 256 + s.me.queueCount q))))

/-! ### Engines: issuing commands, rings, stream words (15, 16, 23) -/

namespace Sys2Proof.Claims

/-- The first of a row of checks whose condition holds decides the trap; with none there is no trap. -/
def Checks : List (Prop × Trap) → Option Trap → Prop
  | [], o => o = none
  | (p, x) :: r, o => (p → o = some x) ∧ (¬p → Checks r o)

/-- x is the least of the integers with P, if there is one. -/
def LeastOf (P : Int → Prop) (x : Int) : Prop := ∀ y, P y → P x ∧ x ≤ y

/-- Address y is in a row of a side of a copy, and outside lo to hi (R286). -/
def RowByteOutside (v : Word) (len rows : Nat) (stride lo hi y : Int) : Prop :=
  (y < lo ∨ hi < y) ∧ ∃ r < rows, ∃ i < len, y = (v.toNat % 2 ^ 56 : Nat) + (r : Nat) * stride + (i : Nat)

/-- 15 R283 to R286: the operands on which CPY and CPYX trap, in order, each with its cause and tval: `xs` and `xd` are
the lowest bytes of the source and of the destination that are out of range. -/
def CopyChecks : Prop :=
  ∀ (stash : Nat) (kind : CopyKind) (dst src ctl : Word) (shape : Option Word) (xs xd : Int),
    let c := ctl.toNat
    let sh := (shape.getD (BitVec.ofNat 64 (2 ^ 48))).toNat
    let global := fun (source : Bool) => match kind with
      | .g2l => source | .l2g => !source | .g2g => true | .l2l => false
    let out := fun (source : Bool) =>
      RowByteOutside (if source then src else dst) (c % 2 ^ 32) (sh / 2 ^ 48)
        (reads false 24 (sh / (if source then 2 ^ 24 else 1) % 2 ^ 24 : Nat))
        (if global source then 0 else stash) (if global source then 2 ^ 56 - 1 else 0x7DFFF)
    let side := fun (source : Bool) (x : Int) =>
      let v := if source then src else dst
      let t := v.toNat / 2 ^ 56
      [(global source = true ∧ (16 ≤ t / 8 ∨ t % 8 ∈ [1, 2, 6, 7]), (⟨.fmt, v⟩ : Trap)),
        (∃ y, out source y, ⟨if global source then .ptrovf else .localbound, BitVec.ofInt 64 x⟩)]
    LeastOf (out true) xs → LeastOf (out false) xd →
    Checks ([(c / 2 ^ 32 % 2 ^ 20 ≠ 0, ⟨.resfield, ctl⟩), (sh / 2 ^ 48 = 0, ⟨.resfield, shape.getD 0⟩)]
      ++ side true xs ++ side false xd) (copyTrap stash (copyCmd kind dst src ctl shape) ctl shape)

/-- 16 R300, R308, R313: the operands on which MMA and MDRAIN trap, in order (that a bad byp names the PAGE prefix
whatever the order of the prefixes is log 8's). -/
def MatrixChecks : Prop :=
  ∀ (ar : Arch) (c : CoreId) (d a b : Reg8) (m : MmaMode) (k : Nat) (ctl : Word) (dm : DrainMode),
    let ra := ar.rings[a]
    let rb := ar.rings[b]
    let n := fun (p : Bool) (v : Nat) => if p then v else 0
    let fmt := fun (r : Ring) => r.base.toNat / 2 ^ 59 % 2 ^ 5
    let blk := fun (r : Ring) => r.base.toNat / 2 ^ 56 % 2 ^ 3
    let slots := fun (r : Ring) => r.size.toNat % 2 ^ 16
    let bytes := fun (r : Ring) => r.tile.toNat % 2 ^ 16
    let resMode := ar.accmode.toNat / 2 ^ d.val % 2 = 1
    let hasB := m.gang = false ∨ c.val % 64 = ar.gang.toNat / 2 ^ 8 % 2 ^ 6
    let x := fmt ra
    let y := fmt rb
    let pairs := [(5, 5), (6, 6), (7, 7), (7, 8), (8, 7), (8, 8), (9, 9), (1, 1), (3, 3), (1, 3), (3, 1)]
    let integer := x ∈ [1, 3]
    let ring := fun (r : Reg8) => (⟨.ring, BitVec.ofNat 64 r.val⟩ : Trap)
    let f := (Fmt.ofCode x).getD .raw
    Checks [
      (m.gang = true ∧ ar.gang.toNat % 2 ^ 4 = 0, ⟨.matrix, 0⟩),
      (m.byp = true ∧ (k ≠ 1 ∨ m.perm = true),
        ⟨.resfield, BitVec.ofNat 64 (0xFD80 + n m.byp 8 + n m.perm 4 + n m.gang 2 + n m.zero 1)⟩),
      (slots ra = 0, ring a), (hasB ∧ slots rb = 0, ring b),
      ((hasB ∧ (x, y) ∉ pairs) ∨ x ∉ [1, 3, 5, 6, 7, 8, 9] ∨ ¬(resMode ↔ integer)
          ∨ (integer ∧ (blk ra ≠ 0 ∨ (hasB ∧ blk rb ≠ 0))),
        ⟨.matrix, BitVec.ofNat 64 (x + (if hasB then y else 0xFF) * 2 ^ 8 + (if resMode then 1 else 0) * 2 ^ 16)⟩),
      (m.byp = false ∧ (bytes ra < 3072 ∨ slots ra < if hasB ∧ x = 1 ∧ y = 3 then 2 else 1), ring a),
      (hasB ∧ (bytes rb < 3072 ∨ slots rb < if x = 3 ∧ y = 1 then 2 else 1), ring b)] (mmaTrap ar c d a b m k)
    ∧ Checks [
      (ctl.toNat / 2 ^ 32 % 2 ^ 24 ≠ 0, ⟨.resfield, ctl⟩),
      (dm.nor = true ∧ dm.byp = false,
        ⟨.resfield, BitVec.ofNat 64 (0xFD80 + n dm.byp 8 + n dm.nor 4 + n dm.sat 2 + n dm.clr 1)⟩),
      (slots ra = 0, ring a),
      (x ∉ [1, 3, 5, 6, 7, 8, 9] ∧ (dm.byp = true ∨ (x ∉ [4, 11] ∧ ¬(x = 12 ∧ resMode))),
        ⟨.matrix, BitVec.ofNat 64 (x + 0xFF * 2 ^ 8 + (if resMode then 1 else 0) * 2 ^ 16)⟩),
      (dm.nor = false ∧ bytes ra < 32 * 32 * f.width / 8, ring a)] (drainTrap ar d a ctl dm)

/-- 23 R395: the operands on which RTSEND traps, in order: `x` is the lowest byte of the source or the scales that is
out of range. -/
def SendChecks : Prop :=
  ∀ (stash : Nat) (stream p ctl : Word) (x : Int),
    let c := ctl.toNat
    let t := p.toNat / 2 ^ 56
    let npk := c % 2 ^ 16
    let sbase : Nat := c / 2 ^ 32 % 2 ^ 19
    let scaled := t % 8 ≠ 0
    let lo : Nat := p.toNat % 2 ^ 56
    let w := ((Fmt.ofCode (t / 8)).getD .raw).width
    let L := 2 ^ (t % 8)
    let bytes := if scaled then npk * 16 * w / 8 else 64 * npk
    let scales := (npk * 16 + L - 1) / L
    let out := fun (y : Int) => (y < stash ∨ 0x7DFFF < y)
      ∧ ((lo ≤ y ∧ y < lo + bytes) ∨ (scaled ∧ sbase ≤ y ∧ y < sbase + 4 * scales))
    LeastOf out x → Checks [
      (stream.toNat / 2 ^ 48 % 2 ^ 16 ≠ 0 ∨ stream.toNat / 2 ^ 6 % 2 ^ 26 ≠ 0, ⟨.resfield, stream⟩),
      (c / 2 ^ 51 % 2 ^ 5 ≠ 0 ∨ (¬scaled ∧ sbase ≠ 0), ⟨.resfield, ctl⟩),
      (16 ≤ t / 8 ∨ t % 8 ∈ [1, 2, 6, 7] ∨ (scaled ∧ t / 8 ∉ [1, 3, 7, 8, 9]), ⟨.fmt, p⟩),
      (¬scaled ∧ lo % 64 ≠ 0, ⟨.align, p⟩), (scaled ∧ sbase % 4 ≠ 0, ⟨.align, ctl⟩),
      (∃ y, out y, ⟨.localbound, BitVec.ofInt 64 x⟩)] (rtsendTrap stash stream p ctl)

end Sys2Proof.Claims

/-- R283 to R286, R308, R313, R395: the operands on which a command traps, with cause and tval, are those of
`CopyChecks`, `MatrixChecks` and `SendChecks`, and it traps on them whatever the state of the core; a command that
passes its checks enters its queue while the queue has room, outside any chunk; one more waits. (That a lost collective
is forgotten when its cid is pushed again is the model's reading, log 14; which prefix a bad byp names is log 8's.) -/
def Obligations.EngineCommandsIssue : Prop :=
  CopyChecks ∧ MatrixChecks ∧ SendChecks ∧ ∀ (s : State) (kind : CopyKind) (d a b c : XReg) (z ra rb : Reg8) (m : MmaMode) (dm : DrainMode) (k : Nat),
    let e := ended s
    let copies := fun (i : Instr) (shape : Option Word) =>
      let cmd := copyCmd kind (s.x d) (s.x a) (s.x b) shape
      (∀ x, copyTrap s.me.arch.stashSize cmd (s.x b) shape = some x → exec i s = s.takeTrap x)
      ∧ (copyTrap s.me.arch.stashSize cmd (s.x b) shape = none → Quiet s →
        (s.me.q2.length < 2 → exec i s = .next (kept (e.setMe { e.me with q2 := e.me.q2 ++ [cmd] })))
        ∧ (s.me.q2.length = 2 → exec i s = .next (e.block i 0 0 none)))
    let slices := fun (i : Instr) (cmd : MatCmd) (t : Option Trap) =>
      (∀ x, t = some x → exec i s = s.takeTrap x)
      ∧ (t = none → Quiet s →
        (s.me.q4.length < 2 → exec i s = .next (kept (e.setMe { e.me with q4 := e.me.q4 ++ [cmd] })))
        ∧ (s.me.q4.length = 2 → exec i s = .next (e.block i 0 0 none)))
    let sent := rtsendTrap s.me.arch.stashSize (s.x d) (s.x a) (s.x b)
    copies (.cpy kind d a b) none ∧ copies (.cpyx kind d a b c) (some (s.x c))
      ∧ slices (.mma z ra rb m k) ⟨z, ra, .mma rb m k⟩ (mmaTrap s.me.arch s.turn z ra rb m k)
      ∧ slices (.mdrain z ra b dm) ⟨z, ra, .drain dm ((s.x b).setWidth 32) ((s.x b).toNat / 2 ^ 56 % 256)⟩
          (drainTrap s.me.arch z ra (s.x b) dm)
      ∧ (∀ x, sent = some x → exec (.rtsend d a b) s = s.takeTrap x)
      ∧ (sent = none → Quiet s →
          let cmd := rtCmd s.me.arch (s.x d) (s.x a) (s.x b)
          (s.me.q6.length < 2 → exec (.rtsend d a b) s = .next ((e.setMe { e.me with
              q6 := e.me.q6 ++ [cmd], lostCids := e.me.lostCids.filter (· != cmd.cid) }).completed
            { s.me.arch with mark := s.me.arch.mark &&& ~~~(1#64 <<< cmd.entry.val) }))
          ∧ (s.me.q6.length = 2 → exec (.rtsend d a b) s = .next (e.block (.rtsend d a b) 0 0 none)))

/-- R298, R321, R322: RINGSET waits until no command names the ring, checks a geometry, its res bits among it, and
writes it, with head and tail at 0 (that RESFIELD's tval is the whole geometry word is the model's reading, log 21);
RINGADV moves an end within what the ring holds, and traps with RING otherwise. R393, R394: RTSET reads or exchanges a
word of a stream view; RTMARK marks an entry. -/
def Obligations.RingAndStreamInstructions : Prop :=
  ∀ (s : State) (d a b : XReg) (z : Reg8) (head : Bool) (n : Nat) (en : Fin 64),
    let arch := s.me.arch
    let g := (s.x b).toNat
    let r : Ring := ⟨s.x a, BitVec.ofNat 64 (g % 2 ^ 16), 0, 0, BitVec.ofNat 64 (g / 2 ^ 16 % 2 ^ 16), BitVec.ofNat 64 (g / 2 ^ 40 % 2 ^ 24)⟩
    let old := arch.rings[z]
    let x := (s.x a).toNat
    let sel := x / 2 ^ 8 % 8
    let entry : Fin 64 := ⟨x % 64, Nat.mod_lt _ (by decide)⟩
    let v := arch.views[entry]
    let named := x / 2 ^ 11 = 0 ∧ x / 2 ^ 6 % 4 = 0 ∧ sel < 6
    (s.me.ringNamed z = true → exec (.ringset z a b) s = .next s)
    ∧ (s.me.ringNamed z = false →
      (g / 2 ^ 32 % 2 ^ 8 = 0 →
        (r.check arch.stashSize = none → exec (.ringset z a b) s = .next (s.completed (arch.setRing z r)))
        ∧ (∀ bad, r.check arch.stashSize = some bad →
            exec (.ringset z a b) s = s.takeTrap (bad.trap (s.x a) (s.x b) (s.x a))))
      ∧ (g / 2 ^ 32 % 2 ^ 8 ≠ 0 → r.check 0 ≠ some .fmt → r.check 0 ≠ some .base →
        exec (.ringset z a b) s = s.trap .resfield (s.x b)))
    ∧ (old.slots ≠ 0 → head = false → old.count + n ≤ old.slots →
      exec (.ringadv z head n) s = .next (s.completed (arch.setRing z
        { old with tail := BitVec.ofNat 64 ((old.tail.toNat + n) % (2 * old.slots)) })))
    ∧ (old.slots ≠ 0 → head = true → n ≤ old.count →
      exec (.ringadv z head n) s = .next (s.completed (arch.setRing z
        { old with head := BitVec.ofNat 64 ((old.head.toNat + n) % (2 * old.slots)) })))
    ∧ (old.slots = 0 ∨ (head = false ∧ old.slots < old.count + n) ∨ (head = true ∧ old.count < n) →
      exec (.ringadv z head n) s = s.trap .ring old.status)
    ∧ (named → sel < 5 → exec (.rtset d a b true) s = .next (wrote s d (v.word sel)))
    ∧ (named → sel = 5 → exec (.rtset d a b true) s = .next (wrote s d (s.me.entries[entry]).stateWord)
        ∧ exec (.rtset d a b false) s = s.trap .rdonly (s.x a))
    ∧ (named → sel < 5 → rtsetTrap arch.stashSize sel (s.x b) = none →
      exec (.rtset d a b false) s = .next (s.completed
        ({ arch with views := arch.views.set entry (v.write sel (s.x b)) }.setX d (v.word sel))))
    ∧ (¬named → exec (.rtset d a b false) s = s.trap .resfield (s.x a) ∧ exec (.rtset d a b true) s = s.trap .resfield (s.x a))
    ∧ exec (.rtmark en) s = .next (s.completed { arch with mark := arch.mark ||| (1#64 <<< en.val) })

namespace Sys2Proof.Claims

/-- R363, R368, R369: what a gate in each of its states answers to the caller with entry `ent`, case by case: the gate
as it is left, the result word, the payload taken. R364, R370: what GSTAT returns. -/
def GatesReply : Prop :=
  ∀ (s : State) (g : Gate) (ent : Nat) (sl : GateSlot) (payload : Body) (idx : Lane) (o : GateOp) (sel : GSel)
    (p : Post) (ps : List Post) (id : Nat) (q : Part),
    let reply := fun (o : GateOp) => s.gateReply g ent sl o payload idx
    let status := fun (o : GateOp) (st : Nat) => reply o = ⟨g, BitVec.ofNat 64 (ent * 256 + st), none⟩
    let word := fun (n : Word) (inc : BitVec 16) (e : Nat) =>
      BitVec.ofNat 64 (n.toNat % 2 ^ 32 * 2 ^ 32 + inc.toNat * 2 ^ 16 + e * 256)
    let dry := sl.entry.rate ≠ 0 ∧ sl.bucket = 0
    let spent := if sl.entry.rate = 0 then g.slots else g.slots.set ent { sl with bucket := sl.bucket - 1 }
    let stat := s.gstat g ent sel
    g.slots[ent]? = some sl →
      (reply (.stat sel) = ⟨g, stat, none⟩)
      ∧ ((∀ z, o ≠ .stat z) → (g.state = .closed → status o 6) ∧ (g.state = .migrating → status o 2))
      ∧ (g.state = .error → status .post 5 ∧ status .take 5 ∧ status .err 5
        ∧ (g.recBy ≠ ent → status .rearm 8)
        ∧ (g.recBy = ent → reply .rearm = ⟨{ g with state := .run, idx := idx }, BitVec.ofNat 64 (ent * 256), none⟩))
      ∧ (g.state = .run →
        (dry → status .post 1 ∧ status .take 1)
        ∧ (¬dry → g.queue.length = 16 → status .post 3)
        ∧ (¬dry → g.queue.length ≠ 16 → let inc := s.incOf sl.entry.part
          reply .post = ⟨{ g with slots := spent, posts := g.posts + 1, queue := g.queue ++ [⟨payload, g.posts + 1, ent, inc⟩] },
            word (g.posts + 1) inc ent, none⟩)
        ∧ (¬dry → g.queue = [] → status .take 4)
        ∧ (¬dry → g.queue = p :: ps → reply .take =
          ⟨{ g with slots := spent, takes := g.takes + 1, queue := ps }, word p.n p.inc p.ent, some p.payload⟩)
        ∧ reply .err = ⟨{ g with state := .error, idx := idx, recBy := ent }, BitVec.ofNat 64 (ent * 256), none⟩
        ∧ status .rearm 7)
      ∧ (sel = .posts → stat = g.posts) ∧ (sel = .takes → stat = g.takes) ∧ (sel = .idx → stat = g.idx.setWidth 64)
      ∧ (sel = .peers → stat.extractLsb' 32 32 = 0 ∧ ∀ j < 8, stat.extractLsb' (4 * j) 4 = (match g.slots[j]? with
        | none => (0 : BitVec 4)
        | some y => if y.entry.v = true then BitVec.ofNat 4 (s.peerStatus y.entry.part) else 0))
      ∧ (sel = .status → ent < 8 → g.recBy < 8 → g.queue.length ≤ 16 →
        stat.extractLsb' 0 8 = (match g.state with
          | .unset => (0 : BitVec 8) | .run => 1 | .error => 2 | .migrating => 3 | .closed => 4)
        ∧ (stat.extractLsb' 8 8).toNat = g.queue.length ∧ (stat.extractLsb' 16 8).toNat = ent
        ∧ (stat.extractLsb' 24 8).toNat = g.recBy
        ∧ (stat.extractLsb' 32 32).toNat = (match g.window with
          | none => 0
          | some w => w.size.val))
      ∧ (tabFind s.parts id = some q → s.incOf id = (s.vfs[q.vf]).inc
        ∧ s.peerStatus id = if q.faulted then 4 else if q.wasReset then 2 else if q.migrating then 3 else match q.stop with
          | .stopped | .resuming _ => 5
          | _ => 1)

end Sys2Proof.Claims

/-- R368: a gate instruction whose address names a gate that lists its partition with the right that it needs, whose
function has a token and whose buffer is sound gets the gate's reply: the gate as the procedure leaves it, the result
word in d, and for a take the payload in the buffer. R363, R364, R368 to R370: the reply of a gate to each of the five
instructions in each of its states is the one of `GatesReply`. (That a partition being put back is STOPPED until it
runs, and RESET goes before MIGRATING, is log 17's reading.) -/
def Obligations.GateInstructions : Prop :=
  GatesReply ∧ ∀ (s t : State) (d a b : XReg) (sel : GSel) (key ent : Nat) (sl : GateSlot),
    let e := ended s
    let g := e.gate key
    let addr := s.x a
    let off := (s.x b).toNat
    let serves := fun (i : Instr) (o : GateOp) (buffer : Option Word) (payload : Body) (idx : Lane) =>
      o.allowed sl.entry = true → s.gateTrap addr buffer = none → (o = .post → s.me.poisoned off 64 = none) →
      e.windowHeld g o = false →
      let r := e.gateReply g ent sl o payload idx
      let u := ((t.gateOrder s.turn key).setGate key r.gate).windowWritten g r.gate
      let u := match r.taken with
        | none => u
        | some p => u.putSpad s.turn off (bodyBytes p 64)
      exec i s = .next (finished u (fun k => k.setX d r.word))
    Quiet s → e.gateNamed (ptrAddr addr) = some key → s.me.part.bind g.slotFor = some (ent, sl) →
    (match e.myVf with
      | none => some e
      | some v => e.spendToken v gateTokens) = some t → t.turn = s.turn →
      serves (.gpost d a b) .post (some (s.x b)) (s.me.arch.bodyAt off 64) 0
      ∧ serves (.gtake d a b) .take (some (s.x b)) 0 0
      ∧ serves (.gstat d a sel) (.stat sel) none 0 0
      ∧ serves (.gerr d a b) .err none 0 ((s.x b).setWidth 32)
      ∧ serves (.grearm d a b) .rearm none 0 ((s.x b).setWidth 32)

/-! ### Events of a core (09 R180, R194, R198, R199, 08 R172, 13 R264) -/

/-- R199: a blocked QPOP takes an element that has come; R194: a waiting SEND is delivered once the channel can take
it; R198, R251: a take that was refused, and a put that was held back, reach the bank; R180: a release clears the line's
pend bit at every member of the group and touches no other core; R172, R264: a start message and a write of an
instruction store act on a core in reset or held, and a refused write changes no core. -/
def Obligations.CoreEvents : Prop :=
  ∀ (s : State) (c : CoreId) (n q : Reg8) (d a b : XReg) (v : Word) (vs : List Word) (req : Bool) (len : Fin 8)
    (w l : Half) (x : Wait),
    let k := s.core c
    let r : State := { s with turn := c }
    let e := ended r
    let waits := fun (i : Instr) (st : Nat) => k.wait = some x ∧ x.instr = i ∧ x.stage = st ∧ k.run = .running
    let dst := sendDst (k.arch.getX d)
    let ch := sendCh (k.arch.getX d)
    let cfg := (s.core dst).arch.chcfg[ch]
    let m := (s.core dst).chans[ch]
    let bytes := 8 * (len.val + 1)
    let addr := k.arch.getX a
    let o := addrOffset addr
    let own := addrCore addr
    let u := e.touchSpad own o 8 false
    let starts := k.run = .inReset ∨ k.run = .held
    (waits (.qpop d q) 0 → k.arch.popQueue q = v :: vs →
      exec (.waitResume c) s = .next (finished r (fun g => (g.setPopQueue q vs).setX d v)))
    ∧ (waits (.send d a req len) 1 → s.refuses dst c = false → chEn cfg = true → m.free (chSlots cfg) = true →
      chSender cfg = c → s.spadHeld dst (chBase cfg + 64 * ((m.head + m.count) % chSlots cfg)) bytes true = false →
      exec (.sendDelivery c) s = .next (finished ((r.released c (covering c dst)
        (some (.slot dst ch ((m.head + m.count) % chSlots cfg)))).accept dst ch bytes x.payload) id))
    ∧ (k.chunks = [] → k.seq = [] → r.wordTrap addr 8 = none → e.wordRefused addr = false →
      e.spadHeld own o 8 true = false →
      (waits (.fetake d a) 2 → (e.core own).poisoned o 8 = none → (u.core own).isFull o = true →
        exec (.fetakeRetry c) s = .next (finished
          ((u.acquired c (covering c own) (.word own o)).putWord own o (BitVec.ofNat 64 c.val) false)
          (fun g => g.setX d ((u.core own).wordAt o))))
      ∧ (waits (.feput d a b) 4 →
        exec (.remoteOperation c) s = .next (finished
          ((e.released c (covering c own) (some (.word own o))).put own o (k.arch.getX b))
          (fun g => g.setX d (BitVec.ofNat 64 (b2n ((e.core own).isFull o)))))))
    ∧ (s.phaseDone c n = true → ∃ t, exec (.barrierRelease c n) s = .next t
      ∧ (∀ g ∈ s.members n (k.groupKey c n), (t.core g).pend = (s.core g).pend &&& ~~~(1#8 <<< n.val))
      ∧ (∀ g, g ∉ s.members n (k.groupKey c n) → t.core g = s.core g))
    ∧ (starts → exec (.startMessage c w) s =
        .next (s.setCore c { k with run := .held, arch := { k.arch with pc := w &&& 0xFFFE } }))
    ∧ (let at_ := w.toNat / 2 * 2
       (starts → ∃ t, exec (.instructionStoreWrite c w l) s = .next t
        ∧ t = s.setCore c { k with istore := (t.core c).istore } ∧ memRead (t.core c).istore at_ 2 = l.toNat
        ∧ ∀ i, i < at_ ∨ at_ + 2 ≤ i → memGet (t.core c).istore i = memGet k.istore i)
       ∧ (¬starts → ∃ t, exec (.instructionStoreWrite c w l) s = .next t ∧ t.cores = s.cores ∧ t.mem = s.mem))

/-! ### Shares and levels (10) -/

/-- R202, R203: the cost of each level; a core's target is the highest level that its eff pays for, and below 2 shares
there is none; a step moves the level by one toward what the core pays for, and below level 0 the core is gated. -/
def Obligations.LevelSteps : Prop :=
  ∀ (s : State) (c : CoreId) (l : Nat),
    let k := s.core c
    (List.range 12).map levelCost = [2, 4, 5, 6, 8, 9, 10, 12, 14, 17, 20, 24]
    ∧ (k.target = some l ↔ l < 12 ∧ levelCost l ≤ k.eff ∧ ∀ j < 12, levelCost j ≤ k.eff → j ≤ l)
    ∧ (k.target = none ↔ k.eff < 2)
    ∧ (k.power.mode = .run ∨ k.power.mode = .recalling → k.power.cur < 12 →
      (∀ g, k.stepGoal = some g → k.power.cur < g →
        exec (.levelStep c) s = .next (s.setCore c { k with power := { k.power with cur := k.power.cur + 1 } }))
      ∧ (∀ g, k.stepGoal = some g → g < k.power.cur →
        ∃ t, exec (.levelStep c) s = .next t ∧ (t.core c).power.cur = k.power.cur - 1 ∧ (t.core c).arch = k.arch)
      ∧ (k.stepGoal = none → ∃ t, exec (.levelStep c) s = .next t
        ∧ (t.core c).power.cur = (if k.power.cur = 0 then 15 else k.power.cur - 1) ∧ (t.core c).arch = k.arch))

/-- R212 to R218: the oldest message reaches a core, which is the model's order of delivery (log 11). Lent shares add
to what a core that lends nothing holds; a recall is answered at once from spare shares, parked or not (log 11); an
own share that returns is no longer out, and at a halted core passes to the governor; a notice gives a waiting core
WCYCLE at its waiting instruction and ends its wait. -/
def Obligations.AmberMessages : Prop :=
  ∀ (s : State) (c o tgt : CoreId) (src origin : Holder) (hop amt len : Nat) (last : Bool) (ms : List Amber) (b : Contrib),
    let k := s.core c
    let p := k.power
    (s.amber = .lend src (.core c) origin hop amt :: ms → p.mode ≠ .lend → origin ≠ .core c →
      p.inb.all (fun x => !x.is src origin hop) = true →
      ∃ t, exec (.lend 0) s = .next t ∧ (t.core c).power.inHere = p.inHere + amt ∧ (t.core c).power.own = p.own
        ∧ t.amber = ms ∧ t.governor = s.governor ∧ ∀ d, d ≠ c → t.core d = s.core d)
    ∧ (s.amber = .recallMsg src (.core c) origin hop amt last :: ms → p.mode ≠ .lend → p.inb = [b] →
      b.sender = src → b.origin = origin → b.hop = hop → b.due = 0 → 0 < amt → amt ≤ b.here → amt ≤ k.spare →
      ∃ t, exec (.recallMsg 0) s = .next t ∧ (t.core c).power.inHere = b.here - amt
        ∧ t.amber = ms ++ [.ret (.core c) src origin hop amt] ∧ ∀ d, d ≠ c → t.core d = s.core d)
    ∧ (s.amber = .ret src (.core c) (.core c) 1 amt :: ms →
      (p.mode = .run → ∃ t, exec (.returnMsg 0) s = .next t ∧ (t.core c).power.sentOwn = p.sentOwn - amt
        ∧ t.amber = ms ∧ t.governor = s.governor)
      ∧ (p.mode = .halted → ∃ t, exec (.returnMsg 0) s = .next t ∧ (t.core c).power.sentOwn = p.sentOwn - amt
        ∧ t.amber = ms ∧ t.governor = s.governor + amt))
    ∧ (s.amber = .notice c o len :: ms → p.mode = .lend → p.edge = some (.core tgt) → k.satisfied = false →
      k.arch.waitcfg.getLsbD 1 = false → k.arch.inHandler = false → k.arch.tvec ≠ 0 →
      ∃ t, exec (.cycleNotice 0) s = .next t ∧ (t.core c).wait = none
        ∧ (t.core c).arch = { k.arch with
            tpc := k.arch.pc.setWidth 64, tcause := BitVec.ofNat 64 Cause.wcycle.code, tsave := 1
            tval := BitVec.ofNat 64 (len * 2 ^ 24 + o.val * 2 ^ 12 + tgt.val)
            pc := k.arch.tvec.setWidth 16, owed := [], pushes := 0, redo := none })

/-- R219: what is parked at a core, in contributions and by SHPARK, passes to the governor, and the core's eff stays
as it was; at a stopped core nothing is parked (R220); at the end of a cycle the governor owes no core an own share
that SHUNPARK has asked for, and time stands at the next multiple of 1700 (log 3). R222, 23 R398: a link's change
completes, and what a narrower link frees goes to the domains of the clusters whose slices ran, as evenly as it
divides (that one with none ran gets it later, and which gives back, is log 11). 24 R410, R222: a regulator that fails
leaves its core dark, with all it held at the governor, and its launch with a POWER fault. R203, R325, 17 R328: at a
boundary of a cluster that draws no more than its lane groups, a wake is granted, the level becomes the target, and
the record shows the wake and what the cluster drew: 2 for each lane group bound in its last vector cycle (that this
cycle is the one of its last sequencer entry to execute, that a cluster is recorded while a Slate region is attached,
and that each boundary is recorded once, is the model's choice, log 10: R323 binds in the cycle before the
boundary). -/
def Obligations.GovernorAndRegulators : Prop :=
  ∀ (s : State) (c : CoreId) (cl : ClusterId) (l : Fin 18) (w : Width) (id : Nat) (wk : Wake),
    let k := s.core c
    let old := s.links[l].width.shares
    let freed := old - w.shares
    let ran := s.sliceClusters
    let total := fun (t : Tab Nat) => (t.map (·.2)).sum
    (k.run = .stopped → exec (.parkedShareTimeout c) s = .next s)
    ∧ (k.run ≠ .stopped → ∃ t, exec (.parkedShareTimeout c) s = .next t
      ∧ t.governor = s.governor + min k.parked k.power.inHere + k.sparkHere
      ∧ (t.core c).power.inHere = k.power.inHere - k.parked
      ∧ (k.power.own ≤ 24 → k.power.mode = .run ∨ k.power.mode = .recalling → (t.core c).parked = 0)
      ∧ (t.core c).eff = k.eff ∧ ∀ d, d ≠ c → t.core d = s.core d)
    ∧ (s.time.toNat + 1700 < 2 ^ 64 → ∃ t, exec .governorCycle s = .next t
      ∧ t.time.toNat = (s.time.toNat / 1700 + 1) * 1700 ∧ t.mem = s.mem
      ∧ ∀ d, (t.core d).power.gov = min (s.core d).power.gov (s.core d).arch.sparked)
    ∧ (s.links[l].change = some w → ∃ t, exec (.linkWidthChange l) s = .next t
      ∧ t = { s with links := t.links, vecTrade := t.vecTrade }
      ∧ t.links[l] = ⟨w, none⟩ ∧ (∀ j, j ≠ l → t.links[j] = s.links[j])
      ∧ (w.shares ≤ old → ran = [] → t.vecTrade = tabPut s.vecTrade 512 (tabGet 0 s.vecTrade 512 + freed))
      ∧ (w.shares ≤ old → ran ≠ [] → ∀ n, let m := tabGet 0 t.vecTrade n - tabGet 0 s.vecTrade n
          tabGet 0 s.vecTrade n ≤ tabGet 0 t.vecTrade n
          ∧ if n ∈ ran then freed / ran.length ≤ m ∧ m ≤ freed / ran.length + 1 else m = 0)
      ∧ (old < w.shares → total t.vecTrade = total s.vecTrade - (w.shares - old)))
    ∧ (k.power.mode ≠ .dark → k.launch = some id → ∃ t, exec (.regulatorFailure c) s = .next t
      ∧ (t.core c).power.mode = .dark ∧ (t.core c).power.own = 0 ∧ (t.core c).power.gov = 0
      ∧ t.governor = s.governor + (k.power.own - k.power.gov - k.power.sentOwn) + k.power.inHere
      ∧ (t.core c).run = .frozen ∧ (t.core c).arch = k.arch
      ∧ t.pendingFaults = s.pendingFaults ++ [⟨.power, .idCore, BitVec.ofNat 64 c.val, 0, c, k.part, k.launch⟩]
      ∧ t.boot.columnFaults = s.boot.columnFaults ++ [s.physColumn c])
    ∧ (c ∈ clusterCores cl → k.power.wake = some wk → (∀ i : Fin 10, 4 ≤ (s.rampUp[i]).val) →
      (∀ d ∈ clusterCores cl, let q := (s.core d).slice
        q.cmd = none ∧ q.endedNow = false ∧ q.filling = false ∧ (d ≠ c → (s.core d).power.wake = none)) →
      ∃ t, exec (.slewBoundary cl) s = .next t ∧ (t.core c).power.wake = none
        ∧ (t.core c).power.cur = k.target.getD 15 ∧ (t.core c).arch = k.arch ∧ (∀ d, d ≠ c → t.core d = s.core d)
        ∧ (k.launch = some id → s.attachedTo c = true →
            ∃ line ∈ tabGet [] t.slewLog cl.val, slotOf c ∈ line.wake
              ∧ (tabGet [] s.slewLog cl.val = [] → line.dp = 2 * line.lanes
                ∧ line.lanes = ((s.groupsOf cl).toList.filter Option.isSome).length)))

/-! ### Commits, walks and directories (12, 13) -/

/-- R248, R249: the oldest run of a core that presents it commits: its pending bytes reach memory, the last of each
address standing, leave the core's journal, and its chunks' squashes count no more (the core keeps what is younger,
unless priority passes to a chunk of its own that may be squashed by then, R251); a run with a conflict is
squashed and counted (R251), and the core is back at the start of it, memory untouched. R235, R236: a walk ends in the
cluster's cache or in the access's fault, and walks the partition's table where neither a window nor the device page
stands; an invalidation leaves no entry for the page. R240: after a write no other core holds the line, and the writer
holds it M; after a read the others hold it S; after an agent's write no stash holds it; a line that is uncorrectable at
its home is not filled (that the request then changes nothing is log 23's choice: the access itself faults). 23 R389: a
commit brings the router the views that disable an entry. -/
def Obligations.MemoryEvents : Prop :=
  ∀ (s : State) (c : CoreId) (va : BitVec 56) (w : Bool) (id part line pa : Nat) (p : Part) (lf : Leaf) (f : FaultClass)
    (ch : Chunk) (cs : List Chunk) (e : Fin 64),
    let k := s.core c
    let run := k.headRun
    let mine := fun (g : GByte) => run.any (fun h => h.id == g.chunk)
    let page := va.toNat
    let free := s.heldBack (some c) [pa / 64] = false ∧ s.translate c k.part (line * 64) false = .ok pa
      ∧ s.fillBad c pa = false
    (s.commitReady c = true → run.find? k.cutEarly = none →
      (run.any (·.conflict) = false → s.journalBad c (runLines run) = none →
        (∀ h ∈ k.chunks, h.clean = true) ∨ (∀ h ∈ k.chunks, tabGet 0 k.squashes h.start.pc.toNat < 8) →
        ∃ t, exec (.chunkCommit c false) s = .next t
        ∧ t.mem = (k.arch.gwrites.filter mine).foldl (fun m g => memSet m g.pa g.val) s.mem
        ∧ (t.core c).arch = { k.arch with gwrites := k.arch.gwrites.filter (fun g => !mine g) }
        ∧ (t.core c).chunks.length = k.chunks.length - run.length
        ∧ (∀ h ∈ run, tabGet 0 (t.core c).squashes h.start.pc.toNat = 0)
        ∧ (t.core c).entries[e] = (k.entries[e]).commitView (t.core c).committed.views[e])
      ∧ (run.any (·.conflict) = true → k.chunks = ch :: cs → ∃ t, exec (.chunkCommit c false) s = .next t
        ∧ t.mem = s.mem ∧ (t.core c).arch = ch.start ∧ (t.core c).chunks = cs.filter (fun h => h.id < ch.id)
        ∧ tabGet 0 (t.core c).squashes ch.start.pc.toNat = tabGet 0 k.squashes ch.start.pc.toNat + 1))
    ∧ (page < 2 ^ 55 → inGateRegion page = false → page < devPageVa → s.winAt (some id) page = none →
        s.leafFor id p page = s.walk page p.root 5)
    ∧ (k.part = some id → tabFind s.parts id = some p → k.run = .running →
      (s.leafFor id p page = .ok lf → (w = true → lf.w = true) →
        ∃ t, exec (.pageWalk c va w) s = .next t ∧ t = { s with tlb := t.tlb }
          ∧ t.tlb.head? = some ⟨⟨clusterOf c % 512, Nat.mod_lt _ (by decide)⟩, id, page / lf.size * lf.size, lf.size,
              lf.base, lf.w, lf.nc⟩)
      ∧ (s.leafFor id p page = .ok lf → w = true → lf.w = false →
        exec (.pageWalk c va w) s = .next (s.raise c .violation .global (va.setWidth 64) 0))
      ∧ (s.leafFor id p page = .error f →
        exec (.pageWalk c va w) s = .next (s.raise c f .global (va.setWidth 64) 0)))
    ∧ (∃ t, exec (.translationInvalidate part va) s = .next t ∧ t = { s with tlb := t.tlb }
      ∧ ∀ e, e ∈ t.tlb ↔ e ∈ s.tlb ∧ ¬(e.part = part ∧ e.page ≤ page ∧ page < e.page + e.size))
    ∧ (free → s.translate c k.part (line * 64) true = .ok pa → ∃ t, exec (.directoryRequest c line .write) s = .next t
      ∧ t.mem = s.mem ∧ ∀ e ∈ t.stash, e.line = pa / 64 → e.core = c ∧ e.st = .m)
    ∧ (free → ∃ t, exec (.directoryRequest c line .read) s = .next t
      ∧ t.mem = s.mem ∧ ∀ e ∈ t.stash, e.line = pa / 64 → e.core ≠ c → e.st = .s)
    ∧ (∃ t, exec (.directoryRequest c line .evict) s = .next t
      ∧ t.mem = s.mem ∧ ∀ e ∈ t.stash, ¬(e.core = c ∧ e.va = line))
    ∧ (s.heldBack none [line] = false → ∃ t, exec (.directoryRequest c line .agentWrite) s = .next t
      ∧ t.mem = s.mem ∧ ∀ e ∈ t.stash, e.line ≠ line)

/-! ### Engines at work (15, 16, 23) -/

namespace Sys2Proof.Claims

/-- Whether row r of one side of a copy command, whose rows begin at base + r * stride, covers an address. -/
def CoversRow (m : CopyCmd) (base : Word) (stride : Int) (r a : Nat) : Prop :=
  let x : Int := (base.toNat % 2 ^ 56 : Nat) + r * stride
  r < m.rows ∧ x ≤ a ∧ (a : Int) < x + m.len

/-- Byte i of a command, counted in row order, goes to address a. -/
def GoesTo (m : CopyCmd) (i a : Nat) : Prop :=
  i < m.len * m.rows ∧ (a : Int) = (m.dst.toNat % 2 ^ 56 : Nat) + (i / m.len : Nat) * m.dstr + (i % m.len : Nat)

/-- Byte i is the one that remains at address a: no later row goes there (R287). -/
def Remains (m : CopyCmd) (i a : Nat) : Prop :=
  GoesTo m i a ∧ ∀ r, i / m.len < r → ¬CoversRow m m.dst m.dstr r a

/-- Byte f is the first that goes to the aligned dword of address a. -/
def FirstOf (m : CopyCmd) (f a : Nat) : Prop :=
  (∃ b, b / 8 = a / 8 ∧ GoesTo m f b) ∧ ∀ g < f, ∀ b, b / 8 = a / 8 → ¬GoesTo m g b

/-- The source address of byte i. -/
def sourceOf (m : CopyCmd) (i : Nat) : Nat :=
  ((m.src.toNat % 2 ^ 56 : Nat) + (i / m.len : Nat) * m.sstr + (i % m.len : Nat) : Int).toNat

/-- The source byte at an address as the command's next segments copy it, `tr` giving the physical addresses. -/
def sourceByte (s : State) (c : CoreId) (r : CopyRun) (tr : Nat → Nat) (a : Nat) : Byte :=
  if srcGlobal r.cmd.kind then (keptAt r.keptG (tr a)).getD (s.physByte (tr a))
  else (keptAt r.keptL a).getD (memGet (s.core c).arch.spad a)

/-- The byte at a destination address. -/
def destByte (s : State) (c : CoreId) (m : CopyCmd) (tr : Nat → Nat) (a : Nat) : Byte :=
  if dstGlobal m.kind then memGet s.mem (tr a) else memGet (s.core c).arch.spad a

/-- The rows of both sides lie at addresses from 0 on, and the partition maps the global ones by `tr`, one to one, with
the rights that they need. -/
def CopyMapped (s : State) (c : CoreId) (m : CopyCmd) (tr : Nat → Nat) : Prop :=
  (∀ r < m.rows, 0 ≤ ((m.src.toNat % 2 ^ 56 : Nat) : Int) + r * m.sstr ∧ 0 ≤ ((m.dst.toNat % 2 ^ 56 : Nat) : Int) + r * m.dstr)
  ∧ (∀ a b, tr a = tr b → a = b)
  ∧ (srcGlobal m.kind = true → ∀ r a, CoversRow m m.src m.sstr r a → s.translate c (s.core c).part a false = .ok (tr a))
  ∧ (dstGlobal m.kind = true → ∀ r a, CoversRow m m.dst m.dstr r a → s.translate c (s.core c).part a true = .ok (tr a))

/-- Nothing holds a core's copy engine up: no stop, no uncorrectable dword or stash line, no gate in the way, no core
with priority, no token to wait for, and no uncommitted chunk of the core. -/
def CopyFree (s : State) (c : CoreId) : Prop :=
  let k := s.core c
  k.enginesRun = true ∧ k.halting = false ∧ k.chunks = [] ∧ k.poison = [] ∧ s.memPoison = []
  ∧ s.stash.all (!·.bad) = true ∧ (∀ as, s.gateStall k.part as = false ∧ s.gateStoreTrap k.part as = none)
  ∧ s.cores.any (·.2.prio) = false ∧ ∀ ls, (s.payLines c 2 ls).2 = true

end Sys2Proof.Claims

/-- R281, R287 to R291: the engine takes the oldest command. A segment of a command of any kind, with any number of
rows, writes at most 4 KiB; it leaves in every aligned destination dword whose first byte it holds what the command's
source held, where rows overlap the later row's, and every other destination byte as it was; what later segments copy
is what the source held before this one wrote. (That a segment is the next bytes in row order, at most 4096 of them,
and that an aligned dword is written by the segment that holds its first byte, is the model's reading, log 13.) After
the last segment the ring has advanced, unless it is full, and the element is in q3. R294, R295: a plan entry copies
its bytes to its destination core, and the plan goes on. -/
def Obligations.CopyEngineEvents : Prop :=
  ∀ (s : State) (c : CoreId) (m : CopyCmd) (ms : List CopyCmd) (r : CopyRun) (e : PlanEntry) (tr : Nat → Nat),
    let k := s.core c
    let total := r.cmd.len * r.cmd.rows
    let ring := k.arch.rings[r.cmd.ring]
    let fullRing := r.cmd.adv && ring.full
    k.enginesRun = true → k.halting = false →
    (k.q2 = m :: ms → k.copy = none → k.arch.q3.length < 4 →
      exec (.copyCommand c) s = .next (s.setCore c { k with q2 := ms, copy := some ⟨m, 0, [], [], false⟩ }))
    ∧ (k.copy = some r → r.corrected = false → CopyFree s c → CopyMapped s c r.cmd tr →
      ∃ t n, exec (.copySegment c false) s = .next t ∧ n ≤ 4096 ∧ (r.pos < total → 0 < n ∧ r.pos + n ≤ total)
        ∧ (∃ as : List Nat, as.length ≤ 4096 ∧ ∀ a, a ∉ as → destByte t c r.cmd tr a = destByte s c r.cmd tr a)
        ∧ (∀ i f a, Remains r.cmd i a → FirstOf r.cmd f a → destByte t c r.cmd tr a =
            if r.pos ≤ f ∧ f < r.pos + n then sourceByte s c r tr (sourceOf r.cmd i) else destByte s c r.cmd tr a)
        ∧ (∀ a, (dstGlobal r.cmd.kind = true ∨ ∀ x, ¬CoversRow r.cmd r.cmd.dst r.cmd.dstr x a) →
            memGet (t.core c).arch.spad a = memGet k.arch.spad a)
        ∧ (∀ y, (dstGlobal r.cmd.kind = false ∨ ∀ x a, CoversRow r.cmd r.cmd.dst r.cmd.dstr x a → tr a ≠ y) →
            memGet t.mem y = memGet s.mem y)
        ∧ (t.core c).arch.x = k.arch.x ∧ (∀ d, d ≠ c → (t.core d).arch = (s.core d).arch)
        ∧ (r.pos + n < total → ∃ q, (t.core c).copy = some q ∧ q.cmd = r.cmd ∧ q.pos = r.pos + n
            ∧ (∀ a, sourceByte t c q tr a = sourceByte s c r tr a)
            ∧ (t.core c).arch.q3 = k.arch.q3 ∧ (t.core c).arch.rings = k.arch.rings)
        ∧ (total ≤ r.pos + n → (t.core c).copy = none
            ∧ (t.core c).arch.rings[r.cmd.ring] = (if r.cmd.adv = true ∧ ring.full = false then
                { ring with tail := BitVec.ofNat 64 ((ring.tail.toNat + 1) % (2 * ring.slots)) } else ring)
            ∧ (t.core c).arch.q3 = k.arch.q3 ++ [BitVec.ofNat 64 (r.cmd.tag * 2 ^ 56 + b2n fullRing * 2 ^ 52
                + b2n r.cmd.x * 2 ^ 48 + r.cmd.rows * 2 ^ 32 + r.cmd.len)]))
    ∧ (k.plan[k.planAt]? = some e → k.inExchange = true → k.q2 = [] → k.copy = none →
      k.poisoned e.soff e.len = none → s.spadHeld e.dst e.doff e.len true = false →
      ∃ t, exec (.planEntry c) s = .next t ∧ (t.core c).planAt = k.planAt + 1 ∧ t.mem = s.mem
        ∧ ∀ i < e.len, memGet (t.core e.dst).arch.spad (e.doff + i) = memGet k.committed.spad (e.soff + i))

namespace Sys2Proof.Claims

/-- The code of element j of operand row r, of the tile in the head slot and, from the second tile on, the next (R29,
R297, R301). -/
def elemCode (g : Ring) (m : List Host.Cell) (r j : Nat) : Nat :=
  let w := g.fmt.width
  let per := 768 / w
  let slot := (g.head.toNat + j / per) % (g.size.toNat % 2 ^ 16)
  memRead m (g.base.toNat % 2 ^ 19 + slot * (g.tile.toNat % 2 ^ 16) + 96 * r) 96 / 2 ^ (w * (j % per)) % 2 ^ w

/-- The scale of channel j of a row: 1, or the container of its block in the head slot's scale area (R297, R301). -/
def elemScale (g : Ring) (m : List Host.Cell) (r j : Nat) : Sys2Proof.Num :=
  match blkLen (g.base.toNat / 2 ^ 56 % 8) with
  | none => .ofInt 1
  | some l =>
    let w := g.fmt.width
    let slot := g.head.toNat % (g.size.toNat % 2 ^ 16)
    Fmt.s24.layout.value (memRead m (g.scale.toNat % 2 ^ 24 + slot * (4 * (g.tile.toNat % 2 ^ 16) * 8 / (w * l))
      + 4 * ((96 * r * 8 / w + j) / l)) 4)

/-- Operand A of a step at row r, channel j: its format, its code and its scale. The bypass holds 32 channels of a row,
in order (R311); a ring is read through pi (R303, R305). -/
def operandA (s : State) (t : Step) (pi : Nat → Nat) (r j : Nat) : Fmt × Nat × Sys2Proof.Num :=
  let k := s.core t.core
  match (if t.mode.byp then k.bypass else none) with
  | none =>
    let g := s.ringA t
    (g.fmt, elemCode g k.committed.spad r (pi j), elemScale g k.committed.spad r j)
  | some y =>
    let i := 32 * r + j
    (y.fmt, y.elems.toNat / 2 ^ (y.fmt.width * i) % 2 ^ y.fmt.width, match blkLen y.blk with
      | none => .ofInt 1
      | some l => Fmt.s24.layout.value (y.scales.getD (i / l) 0).toNat)

/-- Element e of a tile. -/
def tileElem (z : Tile) (e : Nat) : Nat := z.toNat / 2 ^ (32 * e) % 2 ^ 32

/-- A member of a gang can run the step t: its MMA runs, its tiles are present, all it reads is correct, and it has no
uncommitted chunk. -/
def CanStep (s : State) (d : CoreId) (t : Step) : Prop :=
  s.stepOf d = some t ∧ (s.core d).stepping = true ∧ s.tilesHere t = true ∧ s.stepBad t = false
  ∧ (s.core d).chunks = [] ∧ (s.core d).poison = [] ∧ (s.core d).errs.acc = []

end Sys2Proof.Claims

/-- R309: the slice takes the oldest MMA, which waits for its gang, ends with NOBYPASS, or is ready; R317, R318: a gang
whose members match is ready together; R319, R299: a step of a gang gives every member the tile of its own A and the
leader's B, moves its own ring a on, or empties its bypass (R311), and the leader's B ring, and counts. R305, R306:
each element of the tile becomes the element before plus the sum of the exact products, rounded once, or summed in each
residue. R315, R316: a command that has retired its K steps completes with its element in q5, and with done arrives on
its line or waits while an arrival there is open. R314: a drain completes with its element in q5; one that writes no
ring and clears leaves the tile 0; one that writes an unscaled ring puts every element times the multiplier, rounded
once, into the tail slot, which the ring's tail then passes. -/
def Obligations.MatrixEvents : Prop :=
  ∀ (s : State) (c : CoreId) (m : MatCmd) (ms : List MatCmd) (b : Reg8) (mode : MmaMode) (dm : DrainMode) (n tag : Nat)
    (mult : Lane) (r : SliceRun) (t : Step) (l : CoreId) (gs : List CoreId) (ty : FpTy),
    let k := s.core c
    let takes := k.enginesRun = true ∧ k.slice.cmd = none ∧ k.q4 = m :: ms ∧ k.arch.q5.length < 4
    let run := fun (ph : Phase) => { k with q4 := ms, slice := { k.slice with cmd := some ⟨m, ph, 0, [], false⟩ } }
    let rb := s.ringB t
    let pi := k.committed.channelPerm t.mode.perm t.p.e
    let sb := (s.core t.leader).committed.spad
    let oa := operandA s t pi
    let pa := fun (row j : Nat) => (oa row j).2.2.mul ((oa row j).1.value (oa row j).2.1)
    let pb := fun (col j : Nat) => (elemScale rb sb col j).mul (rb.fmt.value (elemCode rb sb col (pi j)))
    let channels := List.range (if t.mode.byp = true then 32 else t.p.e)
    let products := fun (row col : Nat) => channels.map (fun j => (pa row j).mul (pb col j))
    let f32 := float4 .fp32
    let before := k.z[t.cmd.d]
    (takes → m.op = .mma b mode n →
      exec (.mmaCommand c) s = .next (s.setCore c (run (if mode.gang then .joining
        else if mode.byp && !k.bypassFits m.a then .ended 4 else .ready))))
    ∧ (takes → m.op = .drain dm mult tag → exec (.mdrainCommand c false) s = .next (s.setCore c (run .ready)))
    ∧ (k.gangCores c = l :: gs → c ∈ l :: gs → (s.core l).gangMma = some (m, b, mode, n) → s.unfit (l :: gs) = [] →
      (∀ d ∈ l :: gs, (s.core d).enginesRun = true ∧ (s.core d).part = k.part
        ∧ (s.core d).committed.gang = k.committed.gang ∧ (s.core d).mismatch ((s.core l).bFmt b) mode.perm n = false) →
      k.gangMma.isSome = true →
      ∃ u, exec (.gangJoin c) s = .next u ∧ ∀ d ∈ l :: gs,
        (u.core d).slice.cmd = (s.core d).slice.cmd.map (fun q => { q with phase := .ready, gang := l :: gs }))
    ∧ (k.slice.cmd = some r → (if r.gang = [] then [c] else r.gang) = l :: gs → (l :: gs).Nodup →
      (∀ d ∈ l :: gs, (∃ q, (s.core d).slice.cmd = some q ∧ q.gang = r.gang) ∧ ∃ y, CanStep s d y) →
      ∃ u, exec (.kStep c) s = .next u ∧ u.mem = s.mem ∧ ∀ d ∈ l :: gs, ∀ y, s.stepOf d = some y →
        let g := (s.core d).arch.rings[y.cmd.a]
        (u.core d).z = (s.core d).z.set y.cmd.d (s.stepTile y)
        ∧ (u.core d).slice.cmd = (s.core d).slice.cmd.map (fun q => { q with k := q.k + 1 })
        ∧ (u.core d).arch.x = (s.core d).arch.x ∧ (u.core d).arch.spad = (s.core d).arch.spad
        ∧ (u.core d).bypass = (if y.mode.byp = true then none else (s.core d).bypass)
        ∧ (d ≠ l → (u.core d).arch.rings = if y.mode.byp = true then (s.core d).arch.rings
            else (s.core d).arch.rings.set y.cmd.a
              { g with head := BitVec.ofNat 64 ((g.head.toNat + y.p.ta) % (2 * (g.size.toNat % 2 ^ 16))) })
        ∧ (d = l → y.mode.byp = true ∨ y.cmd.a ≠ y.b → let h := (s.core l).arch.rings[y.b]
            (u.core l).arch.rings[y.b] = { h with
              head := BitVec.ofNat 64 ((h.head.toNat + y.p.tb) % (2 * (h.size.toNat % 2 ^ 16))) }))
    ∧ (s.stepOf c = some t → ∀ row < 32, ∀ col < 32,
      let e := 32 * row + col
      let new := tileElem (s.stepTile t) e
      let sum := f32.real (tileElem before e) + ((products row col).map numReal).sum
      (t.p.res = false →
        (f32.mag (tileElem before e) < f32.inf → (products row col).all (·.isFin) = true → sum ≠ 0 →
          Rounds f32 .rne sum new)
        ∧ ((products row col).any (·.isNan) = true → new = f32.nan))
      ∧ (t.p.res = true → (∀ j, (oa row j).2.2 = .ofInt 1) → rb.blk = 0 →
        let dot : Int := (channels.map (fun j => reads false (oa row j).1.width (oa row j).2.1
          * reads false rb.fmt.width (elemCode rb sb col (pi j)))).sum
        let a := resParts (tileElem before e)
        let z := resParts new
        (z.1 : Int) = (a.1 + dot) % 257 ∧ (z.2.1 : Int) = (a.2.1 + dot) % 255 ∧ (z.2.2 : Int) = (a.2.2 + dot) % 256))
    ∧ (k.slice.cmd = some r → r.phase = .running → r.cmd.op = .mma b mode n → n ≤ r.k → r.corrected = false →
      mode.gang = false → k.enginesRun = true → k.halting = false →
      let arrives := mode.done = true ∧ (k.arch.bm[mode.line]).getLsbD 7 = true
      (arrives → k.pend.getLsbD mode.line.val = true → exec (.mmaCompletion c false) s = .next s)
      ∧ (¬arrives ∨ k.pend.getLsbD mode.line.val = false →
        ∃ u, exec (.mmaCompletion c false) s = .next u ∧ (u.core c).slice.cmd = none
          ∧ (u.core c).arch.q5 = k.arch.q5 ++ [BitVec.ofNat 64 (mode.tag.val * 2 ^ 56 + r.cmd.d.val * 2 ^ 48 + r.k)]
          ∧ (u.core c).pend = (if arrives then k.pend ||| (1#8 <<< mode.line.val) else k.pend)
          ∧ (u.core c).z = k.z ∧ u.mem = s.mem))
    ∧ (k.slice.cmd = some r → r.phase = .running → r.cmd.op = .drain dm mult tag → k.errs.acc = [] →
      k.enginesRun = true → k.halting = false → k.chunks = [] →
      let g := k.arch.rings[r.cmd.a]
      let w := g.fmt.width
      let slot := g.base.toNat % 2 ^ 19 + g.tail.toNat % (g.size.toNat % 2 ^ 16) * (g.tile.toNat % 2 ^ 16)
      ∃ u, exec (.mdrainCommand c false) s = .next u ∧ (u.core c).slice.cmd = none
        ∧ (u.core c).arch.q5 = k.arch.q5 ++ [BitVec.ofNat 64 (tag * 2 ^ 56 + 2 ^ 51 + r.cmd.d.val * 2 ^ 48 + 32)]
        ∧ (u.core c).z = (if dm.clr then k.z.set r.cmd.d 0 else k.z)
        ∧ (dm.byp = true → (u.core c).bypass.isSome = true) ∧ (dm.byp = false → (u.core c).bypass = k.bypass)
        ∧ (dm.nor = true → (u.core c).arch.spad = k.arch.spad ∧ (u.core c).arch.rings = k.arch.rings)
        ∧ (dm.nor = false → (u.core c).arch.rings = k.arch.rings.set r.cmd.a
            { g with tail := BitVec.ofNat 64 ((g.tail.toNat + 1) % (2 * (g.size.toNat % 2 ^ 16))) })
        ∧ (dm.nor = false → dm.sat = false → k.arch.resTile r.cmd.d = false → g.blk = 0 → g.fmt = ty.fmt →
          ∀ e < 1024, let x := tileElem k.z[r.cmd.d] e
            let v := f32.real x * f32.real mult.toNat
            f32.mag x < f32.inf → f32.mag mult.toNat < f32.inf → v ≠ 0 →
            Rounds (float4 ty) .rne v (memRead (u.core c).arch.spad slot (128 * w) / 2 ^ (w * e) % 2 ^ w)))

/-- R395: the router takes the oldest command, injects its packets one by one at the local port, and completes it with
its element in q7; R397: a core that stands still takes no packet and emits none; R390: a packet that the external
switch returns holds a count that would have reached 2^32 where its body does; R388: an emission towards the core
writes the packet's body at its place; R389: an idle entry of a core that no fault has frozen takes the words that the
core has set; R390: an int32 sum is lane by lane modulo 2^32; R396: a LOST notice completes a pending command of its
collective at once, nothing of the collective is written through L afterwards, and nothing of it is awaited or taken
from outside; R385: a lost access is a LINK fault; R384: every link attaches at a router and port of its own. (That a
returned lane of the words of a NaN and 0xFFFFFFFF is the mark of such a count, and that a core remembers which
collectives it lost, are the model's readings, log 14.) -/
def Obligations.RouterEvents : Prop :=
  ∀ (s : State) (c : CoreId) (e : Fin 64) (m : RtCmd) (ms : List RtCmd) (r : RtRun) (x : Packet) (ps : List (Fin 5))
    (cid : BitVec 16) (a : BitVec 56) (ctl : Word) (b1 b2 : Body) (l : Fin 18) (y : ExtPacket),
    let k := s.core c
    let n := k.entries[e]
    let lo := ctlBase n.words.ctl + 64 * x.idx
    let room := k.enginesRun = true ∧ k.halting = false ∧ k.arch.q7.length < 4
    (k.enginesRun = true → k.rcmd = none → k.q6 = m :: ms →
      exec (.routerCommand c) s = .next (s.setCore c { k with q6 := ms, rcmd := some ⟨m, 0, false⟩ }))
    ∧ (k.enginesRun = true → k.rcmd = some r → r.cmd.lost = false → k.roomAt r.cmd.entry 0 = true →
      r.sent < r.cmd.npk → k.poison = [] →
      exec (.routerCommand c) s = .next (s.setCore c { k with
        rcmd := some { r with sent := r.sent + 1 }
        entries := k.entries.set r.cmd.entry ((k.entries[r.cmd.entry]).put 0
          ⟨false, r.cmd.cid, r.sent, r.cmd.body k.committed.spad r.sent, false⟩) }))
    ∧ (s.back = [] → n.nextEmission = some (x, ps) → portOut n.words.ports[n.cur] = 1 → x.marker = false →
      k.run = .running → k.prio = false →
      (x.cid ∉ k.lostCids → s.emitBad c e x = false →
        ∃ t, exec (.streamPacket c ⟨e, none⟩) s = .next t ∧ memRead (t.core c).arch.spad lo 64 = x.body.toNat
          ∧ (t.core c).entries[e] = { n.after x ps with results := n.results ++ [x.ovf] } ∧ t.mem = s.mem)
      ∧ (x.cid ∈ k.lostCids →
        ∃ t, exec (.streamPacket c ⟨e, none⟩) s = .next t ∧ (t.core c).arch = k.arch
          ∧ (t.core c).entries[e] = n.after x ps ∧ t.mem = s.mem))
    ∧ (k.run = .frozen ∨ k.run = .stopped → exec (.streamPacket c ⟨e, some y⟩) s = .next s)
    ∧ (k.run = .running → y.cid ∉ k.lostCids → linkAt c y.port = some l → ∃ p : Packet,
      (s.returned c e y).back = s.back ++ [⟨l, c, y.port, e, p⟩] ∧ p.marker = y.marker ∧ p.cid = y.cid ∧ p.idx = y.idx
      ∧ p.body = y.body ∧ (p.ovf = true ↔ y.marker = false
        ∧ ∃ j < 5, y.body.extractLsb' (96 * j) 96 = (0xFFFFFFFF7FC000007FC00000 : BitVec 96)))
    ∧ (y.cid ∈ k.lostCids → exec (.streamPacket c ⟨e, some y⟩) s = exec (.streamPacket c ⟨e, none⟩) s)
    ∧ (k.committed.views[e] ≠ n.words → n.idle = true →
      (k.run ≠ .frozen → ∃ t, exec (.entryUpdate c e) s = .next t ∧ ((t.core c).entries[e]).words = k.committed.views[e]
        ∧ (∀ j, j ≠ e → (t.core c).entries[j] = k.entries[j]) ∧ (t.core c).arch = k.arch)
      ∧ (k.run = .frozen → exec (.entryUpdate c e) s = .next s))
    ∧ (k.rcmd = some r → r.cmd.lost = false → k.q6.all (!·.lost) = true → r.sent = r.cmd.npk → r.cmd.mark = false →
      r.cmd.nres ≤ (k.entries[r.cmd.entry]).results.length → (k.entries[r.cmd.entry]).results.all (!·) = true → room →
      ∃ t, exec (.rtsendCompletion c false) s = .next t ∧ (t.core c).rcmd = none
        ∧ (t.core c).arch.q7 = k.arch.q7 ++ [BitVec.ofNat 64
            (r.cmd.tag * 2 ^ 56 + r.cmd.cid.toNat * 2 ^ 32 + r.cmd.nres * 2 ^ 16 + r.cmd.npk)])
    ∧ (∃ t, exec (.lostNotice c cid) s = .next t ∧ cid ∈ (t.core c).lostCids
      ∧ (∀ q ∈ (t.core c).q6, q.cid = cid → q.lost = true) ∧ (∀ q, (t.core c).rcmd = some q → q.cmd.cid = cid → q.cmd.lost = true)
      ∧ (∀ o ∈ t.gone ++ t.back, ¬(o.core = c ∧ o.packet.cid = cid)) ∧ (t.core c).arch.spad = k.arch.spad
      ∧ (k.rcmd = some r → r.cmd.cid = cid → k.q6 = [] → room → (t.core c).rcmd = none
          ∧ (t.core c).arch.q7 = k.arch.q7 ++ [BitVec.ofNat 64
            (r.cmd.tag * 2 ^ 56 + 2 ^ 52 + r.cmd.cid.toNat * 2 ^ 32 + r.cmd.nres * 2 ^ 16 + r.cmd.npk)]))
    ∧ exec (.linkFailure (.access c a)) s = .next (s.raise c .link .global (a.setWidth 64) 0)
    ∧ linkAt (linkPort l).1 (linkPort l).2 = some l
    ∧ (∀ i < 16, bodyLane (combine 1 ctl [(b1, false), (b2, false)]).1 32 i
        = (bodyLane b1 32 i + bodyLane b2 32 i) % 2 ^ 32)

/-! ### Faults and stops (19, 20 R357, 23 R399) -/

/-- R338 to R342: the first fault of a partition freezes its cores that are not in reset, marks the partition faulted
and writes the record into its function's log, and its nodes merge (20 R353); a later fault's record has sec = 1 and
names the launch of the first; R343: an uncorrectable line that a partition maps becomes a MEMERR fault at its global
address (that its record names core 0 is the model's choice, log 23); R344: a core without progress for the interval
is a WATCHDOG fault at its pc. -/
def Obligations.FaultHandling : Prop :=
  ∀ (s : State) (d : Detected) (ds : List Detected) (id va w : Nat) (p : Part) (c : CoreId) (pa : BitVec 52),
    let k := s.core c
    let logs := fun (t : State) (launch : Nat) (sec : Bool) => (t.vfs[p.vf]).log = newest 256 ((s.vfs[p.vf]).log
      ++ [faultRecord d (s.vfs[p.vf]).nextSeq launch s.pkg.val sec])
    (s.pendingFaults = d :: ds → d.part = some id → tabFind s.parts id = some p →
      (p.faulted = false → ∃ t, exec .fault s = .next t ∧ (∃ more, t.pendingFaults = ds ++ more)
        ∧ (∃ q, tabFind t.parts id = some q ∧ q.faulted = true ∧ q.faultOf = d.launch.getD 0
          ∧ q.nodes = mergeNodes (fun _ => false) p.nodes)
        ∧ (∀ x ∈ s.coresOf id, (s.core x).run ≠ .inReset → (t.core x).run = .frozen ∧ (t.core x).wait = none)
        ∧ logs t (d.launch.getD 0) false)
      ∧ (p.faulted = true → ∃ t, exec .fault s = .next t ∧ t.pendingFaults = ds ∧ t.cores = s.cores ∧ t.parts = s.parts
        ∧ logs t p.faultOf true))
    ∧ (s.parts = [(id, p)] → s.mapsTo id p pa.toNat = some va →
      ∃ t, exec (.scrubError pa) s = .next t ∧ pa.toNat / 8 ∈ t.memPoison ∧ t.mem = s.mem
        ∧ t.pendingFaults = s.pendingFaults ++ [⟨.memErr, .global, BitVec.ofNat 64 va, 0, 0, some id,
            (s.launchesOf id .running).head?.map (·.1)⟩])
    ∧ (s.watchdogCycles k = some w → k.run = .running → k.dbg.hold = false → w ≤ s.time.toNat - k.progress.toNat →
      exec (.watchdog c) s = .next (s.raise c .watchdog .pc (k.arch.pc.setWidth 64) 0))

/-- R345, R349, R348: a stop is requested at least 1,700 cycles ahead; the flush tokens sweep a router, with what the
switch has returned to it; once all are swept the partition is put away with the state of its cores saved, unless the
write-back of a modified line meets an uncorrectable one (R341, R343): then nothing is saved. R350: a resume puts a
saved core back, and at T2 it runs as before, but for one that a regulator failure has lost (10 R222). 20 R357: a
partition that shares a node and runs is asked to stop at the end of its slice, or 1,700 cycles from now where that is
later (the reading of log 17, as is a slice of 100,000 us where no entry has set one). 23 R399: a migration moves the
partition to nodes that no other partition holds or is moving to, and holds the gates that list it; the cutover lets
them go, and resumes the partition with the current time as T2 (the model's choice, log 23), or leaves it frozen where
it has faulted (R338). -/
def Obligations.StopAndResume : Prop :=
  ∀ (s : State) (id : Nat) (p : Part) (c : CoreId) (k : Core) (t t2 : Word) (dst : List Node) (us va : Nat) (y : StashLine),
    let q := s.core c
    let becomes := fun (i : Instr) (r : Part) => ∃ u, exec i s = .next u ∧ tabFind u.parts id = some r
    let ends := p.since.toNat + us * 1700
    tabFind s.parts id = some p →
    (p.stop = .none → p.faulted = false → s.time.toNat + 1700 ≤ t.toNat →
      becomes (.synchronisedStop id t) { p with stop := .requested t })
    ∧ (q.part = some id → p.stop = .sweeping → q.flushed = false →
      ∃ u, exec (.flushToken c) s = .next u ∧ u = { s with cores := u.cores, back := s.back.filter (fun o => o.core != c) }
        ∧ (∀ d, d ≠ c → u.core d = s.core d)
        ∧ u.core c = { q with
          flushed := true
          saveBuf := q.saveBuf
            ++ ((List.finRange 64).map (fun e => ((q.entries[e]).buf.map (fun b => (e, b.1, b.2))))).flatten
            ++ (s.back.filter (fun o => o.core == c)).map (fun o => (o.entry, o.port, o.packet))
          entries := q.entries.map (fun e => { e with buf := [] }) })
    ∧ (p.stop = .sweeping → s.pendingFaults = [] → (s.coresOf id).all (fun x => (s.core x).flushed) = true →
      (s.stash.all (!·.bad) = true →
        becomes (.stopAtT id) { p with stop := .stopped, saved := (s.coresOf id).map (fun x => (x, s.core x)) })
      ∧ (y ∈ s.stash → y.st = .m → y.bad = true → y.core ∈ s.coresOf id → s.mapsTo id p (64 * y.line) = some va →
        ∃ u, exec (.stopAtT id) s = .next u ∧ tabFind u.parts id = some p ∧ u.cores = s.cores
          ∧ ∃ f ∈ u.pendingFaults, f.part = some id ∧ f.cls = .memErr ∧ f.addr = BitVec.ofNat 64 va))
    ∧ (p.stop = .stopped → p.faulted = false → p.migrating = false → s.time.toNat ≤ t2.toNat → s.hasSlice id p = true →
      s.turnCame id p = true → s.quiet id p.saved = true →
      becomes (.resume id t2) { p with stop := .resuming t2 }
      ∧ (p.saved = [(c, k)] → k.run ≠ .inReset → ∃ u, exec (.resume id t2) s = .next u
          ∧ (u.core c).run = (if q.power.mode = .dark then .frozen else .stopped)
          ∧ (u.core c).arch = k.arch ∧ (u.core c).z = k.z ∧ (u.core c).wait = k.wait))
    ∧ (p.stop = .resuming t2 → t2.toNat ≤ s.time.toNat →
      becomes (.resumeRelease id) { p with stop := .none, saved := [], since := s.time, begun := some s.fresh }
      ∧ (p.saved = [(c, k)] → ∃ u, exec (.resumeRelease id) s = .next u
          ∧ (u.core c).run = (if q.power.mode = .dark then q.run else k.run) ∧ (u.core c).arch = q.arch))
    ∧ (s.sharers id p ≠ [] → s.launchesOf id .running ≠ [] → p.stop = .none → p.faulted = false →
      (leastNat (p.shared.map (·.slice))).getD 100000 = us →
      (ends ≤ s.time.toNat + 1700 →
        becomes (.sliceEnd id) { p with stop := .requested (BitVec.ofNat 64 (max ends (s.time.toNat + 1700))) })
      ∧ (s.time.toNat + 1700 < ends → exec (.sliceEnd id) s = .next s))
    ∧ (s.mayMigrate id p dst = true →
      (∀ e ∈ s.parts, e.1 ≠ id → ∀ m ∈ e.2.nodes ++ e.2.dest.map (·.2), ∀ n ∈ dst, m.meets n = false)
      ∧ ∃ u r, exec (.migration id dst) s = .next u ∧ tabFind u.parts id = some r
        ∧ r.migrating = true ∧ r.dest = p.nodes.zip dst ∧ r.nodes = p.nodes
        ∧ ∀ g ∈ u.gates, g.2.lists id = true → g.2.state ≠ .run ∧ g.2.state ≠ .error)
    ∧ (s.mayMigrate id p dst = false → exec (.migration id dst) s = .next s)
    ∧ (p.migrating = true → s.quiet id p.movedSaved = true → ∃ u r, exec (.cutover id) s = .next u
      ∧ tabFind u.parts id = some r ∧ r.migrating = false ∧ r.dest = []
      ∧ r.stop = (if p.stop ≠ .stopped then p.stop else if p.faulted then .none else .resuming s.time)
      ∧ (s.launchesOf id .running = [] → r.nodes = mergeNodes (fun _ => false)
          ((s.domain.map (fun g => (List.range 512).filterMap (fun n =>
            if p.movedHas g.val n then some (⟨g.val, 0, n⟩ : Node) else none))).flatten))
      ∧ ∀ g ∈ u.gates, g.2.lists id = true → g.2.state ≠ .migrating ∨ g.2.prior = .migrating)

/-! ### Gates, partitions and functions (20) -/

namespace Sys2Proof.Claims

/-- The rows of a reconfiguration command. -/
def IsReconf (i : Instr) (op : ReOp) (e : ReconfEntry) : Prop :=
  match op with
  | .add => i = .reconfigureAdd e
  | .remove => i = .reconfigureRemove e
  | .share => i = .reconfigureShare e
  | .unshare => i = .reconfigureUnshare e
  | .slice => i = .reconfigureSlice e

end Sys2Proof.Claims

/-- R361, R363: a gate is set up from UNSET, with a window of zeros (log 17's reading of 22 R377), closed, and
released to UNSET, and no other gate changes; R361: a refill adds the rate of every whole microsecond up to the burst;
R359: where nothing is owed a period gives every account its allotment, and an eighth, rounded up, of what was drawn
in the period before is paid out of it; R368, R370: a status request that waited for a token is answered; 24 R407:
another packet for a Slate core is dropped and recorded (that its record has class 0 is log 22's reading; that a refill
and a token period leave time at the next multiple of their period is the model's choice, log 3). -/
def Obligations.GateAndTokenEvents : Prop :=
  ∀ (s t : State) (g : GateId) (es : List GateEntry) (win : Option WindowSpec) (c : CoreId) (x : Wait) (d a : XReg)
    (sel : GSel) (key ent : Nat) (sl : GateSlot) (acc : Tokens) (n : Nat),
    let q := s.gate (gateKey g)
    let becomes := fun (u : State) (new : Gate) =>
      u.gate (gateKey g) = new ∧ ∀ n, n ≠ gateKey g → u.gate n = s.gate n
    let sets := fun (i : Instr) (new : Gate) => ∃ u, exec i s = .next u ∧ u = { s with gates := u.gates } ∧ becomes u new
    let at_ := fun (period last : Nat) => if last < s.time.toNat / period then s.time.toNat
      else (s.time.toNat / period + 1) * period
    (q.state = .unset → entriesOk es = true → (∀ w, win = some w → s.windowOk g es w = true) → g.pkg ∈ s.domain →
      ∃ u, exec (.gateSetup g es win) s = .next u
        ∧ becomes u ⟨.run, es.map (fun e => ⟨e, e.burst⟩), [], 0, 0, win, 0, 0, .run⟩
        ∧ (win = none → u = { s with gates := u.gates, bucketsAt := u.bucketsAt })
        ∧ (∀ w, win = some w → ∀ y, memGet u.mem y =
            if w.base ≤ y ∧ y < w.base + winBytes w.size.val then 0 else memGet s.mem y)
        ∧ ∀ e, (u.core e).arch = (s.core e).arch)
    ∧ (q.state ≠ .unset → sets (.gateClose g) { q with state := .closed })
    ∧ (q.state = .closed → sets (.gateRelease g) Gate.unset)
    ∧ (let now := at_ 1700 s.bucketsAt
       now < 2 ^ 64 → ∃ u, exec .bucketRefill s = .next u
        ∧ u = { s with gates := u.gates, time := BitVec.ofNat 64 now, bucketsAt := now / 1700 }
        ∧ u.gates = s.gates.map (fun e => (e.1, { e.2 with slots := e.2.slots.map (fun y =>
          { y with bucket := min y.entry.burst (y.bucket + (now / 1700 - s.bucketsAt) * y.entry.rate) }) })))
    ∧ (let now := at_ 17000 s.tokensAt
       now < 2 ^ 64 → now / 17000 = s.tokensAt + 1 →
       (∀ (v : Fin 16) (r : Fin 5), ((s.vfs[v]).tokens[r]).plan = [] ∧ ((s.vfs[v]).tokens[r]).drawn = 0) →
      ∃ u, exec .tokenPeriod s = .next u
        ∧ u = { s with vfs := u.vfs, idle := u.idle, time := BitVec.ofNat 64 now, tokensAt := now / 17000 }
        ∧ ∀ (v : Fin 16) (r : Fin 5) (n : Nat), ((s.vfs[v]).tokens[r]).allot = some n →
          ((u.vfs[v]).tokens[r]).left = n ∧ ((u.vfs[v]).tokens[r]).drawn = 0)
    ∧ (acc.allot = some n → acc.plan = [] → (acc.drawn + 7) / 8 ≤ n →
        acc.refill.1.left = n - (acc.drawn + 7) / 8 ∧ acc.refill.1.drawn = 0)
    ∧ (let r : State := { s with turn := c }
       let k := s.core c
       k.wait = some x → x.instr = .gstat d a sel → x.stage = 1 → k.run = .running →
       s.gateNamed (ptrAddr (k.arch.getX a)) = some key → k.part.bind (s.gate key).slotFor = some (ent, sl) →
       (match r.myVf with
        | none => some r
        | some v => r.spendToken v gateTokens) = some t →
       exec (.gateRequest ⟨c, .gate⟩) s = .next (finished (((t.gateOrder t.turn key).setGate key (s.gate key)).windowWritten
          (s.gate key) (s.gate key)) (fun b => b.setX d (r.gstat (s.gate key) ent sel))))
    ∧ exec (.gateRequest ⟨c, .other⟩) s =
        .next (s.logOnly ⟨.refusal, .none, 0, 0, c, (s.core c).part, (s.core c).launch⟩)

/-- R364, 24 R409: a function is enabled once, with a policy that has been loaded and a front end in the boot table; a
reset raises its incarnation and gives it the newest policy, the one of the highest version (log 17). R354: a resize
is noted behind earlier ones, and the oldest applies once no launch stands on what changes (that a cluster of another
partition is waited for, and that masks without a cluster are ignored, is log 17). R355: the entries of a command are
noted until the last one, and then checked in order, each against what those before it leave; a command whose entries
all pass is applied, to the cores as well; one with a failing entry changes nothing and answers with the entry's index
and reason (the order of the reasons, and what a new partition holds beside its nodes, is log 17). R205, R359, 04 R88,
12 R233, 16 R324, 21 R374, 24 R407: settings are written, or refused as a whole (that the Slate setting attaches the
region is the model's choice, log 23, and how the firewall is set is log 22's). -/
def Obligations.PartitionEvents : Prop :=
  ∀ (s : State) (vf : Fin 16) (id n base size : Nat) (p : Part) (ms : List (Nat × BitVec 512))
    (rest : List (List (Nat × BitVec 512))) (op : ReOp) (e : ReconfEntry) (res : Fin 5) (mask : BitVec 16)
    (up down : Vector (Fin 73) 10) (why : Nat) (i : Instr) (w : Word),
    let v := s.vfs[vf]
    let setVf := fun (w : Vf) => { s with vfs := s.vfs.set vf w }
    let becomes := fun (i : Instr) (r : Part) => ∃ u, exec i s = .next u ∧ u = { s with parts := u.parts } ∧ tabFind u.parts id = some r
    let empty := ms.all (fun m => m.2 == 0)
    let formed := s.reconfPart op e (if s.parts = [] then Part.fresh (entryVf e) else p)
    (v.enabled = false → s.boot.done = true → n ∈ s.boot.policies → s.boot.hasFrontEnd vf = true →
      exec (.vfEnable vf n) s =
        .next (setVf { v with enabled := true, policy := n, inc := if v.inc = 0 then 1 else v.inc }))
    ∧ (v.enabled = true → ∃ u, exec (.vfReset vf) s = .next u ∧ (u.vfs[vf]).inc = v.inc + 1
        ∧ (u.vfs[vf]).policy = s.boot.policies.foldl max 0 ∧ ∀ w, w ≠ vf → (u.vfs[w]).inc = (s.vfs[w]).inc)
    ∧ (empty = true → exec (.resize id ms) s = .next s)
    ∧ (tabFind s.parts id = some p →
      (empty = false → ms.all (fun m => s.domain.any (fun g => g.val == m.1)) = true →
          becomes (.resize id ms) { p with resize := p.resize ++ [ms] })
      ∧ (p.resize = ms :: rest → p.migrating = false →
          (s.launchesOf id .running).all (fun l => (s.resizeChanges p ms).all (fun x => !l.2.node.hasCluster x.1 x.2)) = true →
          (s.parts.all (fun q => q.1 == id || (s.resizeChanges p ms).all (fun x =>
            !maskHas ms x.1 x.2 || !inNodes (q.2.nodes ++ q.2.dest.map (·.2)) x.1 x.2))) = true →
          ∃ u r, exec (.resizeApply id) s = .next u ∧ tabFind u.parts id = some r ∧ r.resize = rest
            ∧ r.nodes = s.nodesFor id p (s.domain.map (·.val)) (maskHas ms))
      ∧ (s.otherAllotments id + n ≤ 65536 - s.reserve → becomes (.allotmentWrite (.shares id n)) { p with allot := some n })
      ∧ becomes (.slateSetting (.loadArea id base size)) { p with loadBase := base, loadSize := size }
      ∧ becomes (.slateSetting (.attach id true)) { p with attached := true })
    ∧ (s.otherAllotments id + n > 65536 - s.reserve → exec (.allotmentWrite (.shares id n)) s = .next s)
    ∧ (∃ u, exec (.allotmentWrite (.tokens vf res n)) s = .next u ∧ ((u.vfs[vf]).tokens[res]).allot = some n
        ∧ ∀ r, r ≠ res → (u.vfs[vf]).tokens[r] = v.tokens[r])
    ∧ exec (.slateSetting (.wayMask vf mask)) s = .next (setVf { v with wayMask := mask })
    ∧ ((∀ i : Fin 10, 8 ≤ (up[i]).val ∧ 8 ≤ (down[i]).val) →
        exec (.slateSetting (.ramp up down)) s = .next { s with rampUp := up, rampDown := down })
    ∧ exec (.slateSetting (.firewall n w)) s = .next { s with firewall := tabPut s.firewall n w }
    ∧ (IsReconf i op e → e.first = true → e.last = false → exec i s = .next { s with reconf := some [(op, e)] })
    ∧ (IsReconf i op e → e.first = false →
        (s.reconf = none → exec i s = .next s)
        ∧ (∀ r, s.reconf = some r → (64 ≤ r.length → exec i s = .next s)
          ∧ (r.length < 64 → e.last = false → exec i s = .next { s with reconf := some (r ++ [(op, e)]) })
          ∧ (r.length < 64 → e.last = true → s.reconfRun 0 s.parts (r ++ [(op, e)]) = .error (n, why) →
            exec i s = .next { s with reconf := none, reply := some (n, why) })
          ∧ (∀ ps, r.length < 64 → e.last = true → s.reconfRun 0 s.parts (r ++ [(op, e)]) = .ok ps →
            exec i s = .next (({ s with reconf := none, reply := none } : State).commitParts ps))))
    ∧ (∀ (ps : Tab Part) (es : List (ReOp × ReconfEntry)), s.reconfRun n ps [] = .ok ps
        ∧ (s.reconfReason ps op e = some why → s.reconfRun n ps ((op, e) :: es) = .error (n, why))
        ∧ (s.reconfReason ps op e = none →
          s.reconfRun n ps ((op, e) :: es) = s.reconfRun (n + 1) (s.reconfApply ps op e) es))
    ∧ (IsReconf i op e → e.first = true → e.last = true → s.reconfReason s.parts op e = some why →
        exec i s = .next { s with reconf := none, reply := some (0, why) })
    ∧ (IsReconf i op e → e.first = true → e.last = true → s.reconfReason s.parts op e = none →
        s.parts = [] ∨ s.parts = [(e.part, p)] →
        ∃ u, exec i s = .next u ∧ u.reconf = none ∧ u.reply = none ∧ u.mem = s.mem
          ∧ (formed.nodes = [] → u.parts = [])
          ∧ (formed.nodes ≠ [] → ∃ r, u.parts = [(e.part, r)] ∧ r.vf = formed.vf ∧ r.nodes = formed.nodes
              ∧ r.shared = formed.shared
              ∧ ∀ c, (tabFind s.cores c.val).isSome = true → (s.core c).part = none → s.coreIn r.nodes c = true →
                (u.core c).part = some e.part ∧ (u.core c).run = .inReset))

/-! ### The host and management (24, 11 R226, 21 R374) -/

namespace Sys2Proof.Claims

/-- 24 R404: what a record says, and which condition of a launch and its record gives which code, in the order in which
they are tested (log 22): 13 a res field; 9 the node or the function; 8 the grid or a preset that 08 R176 refuses; 12
the interval; 1 to 7 a load failure (04 R89), 5 also where the load area is too small; 10 the shares; 11 a plan that 15
R294 refuses. -/
def RefusalsAre : Prop :=
  ∀ (s : State) (l : Launch) (rec_ : Nat) (p : Part) (f : LoadFail) (d : Loaded) (used : List (Nat × Nat)) (vf : Fin 16)
    (hseq arg : Word),
    let v := s.launchRefusal l rec_
    let r := s.hostNat vf arg.toNat 144
    let y := s.readLaunch vf hseq arg
    let at_ := fun (lo n : Nat) => r / 2 ^ lo % 2 ^ n
    let triple := fun (lo : Nat) => (at_ lo 32, at_ (lo + 32) 32, at_ (lo + 64) 32)
    let field := fun (lo n : Nat) => rec_ / 2 ^ lo % 2 ^ n
    let bad := field 112 16 ≠ 0 ∨ field 128 16 ≠ 0 ∨ field 151 1 ≠ 0 ∨ field 156 4 ≠ 0 ∨ field 169 7 ≠ 0
      ∨ field 352 32 ≠ 0 ∨ field 480 32 ≠ 0 ∨ field 608 32 ≠ 0
    let size := l.g.1 * l.g.2.1 * l.g.2.2
    let node := p.vf = l.vf ∧ l.node.ok = true ∧ ∃ n ∈ p.nodes, l.node.order ≤ n.order ∧ n.hasCluster l.node.pkg l.node.origin = true
    let preset := fun (w : Word) => let v := w.toNat
      2 ^ 12 ≤ v ∨ v / 8 % 16 ≠ 0 ∨ 6 ≤ v % 8 ∨ 10 ≤ v / 256 % 16 ∨ (v / 256 % 16 ≠ 0 ∧ v % 8 ≠ 2)
    let grid := size ≠ 0 ∧ size ≤ 8 * 2 ^ l.node.order ∧ l.s.1 ≠ 0 ∧ l.s.2.1 ≠ 0 ∧ l.s.2.2 ≠ 0 ∧ ∀ w ∈ l.bms, ¬preset w
    let plan := ∃ es ∈ d.plans, ∃ e ∈ es, size ≤ e.rank ∨ e.len = 0 ∨ e.soff < d.stash * 0x10000 ∨ 0x7E000 < e.soff + e.len
      ∨ e.doff < d.stash * 0x10000 ∨ 0x7E000 < e.doff + e.len
    let head := objNat l.object 0 64
    (y.vf = vf ∧ y.hseq = hseq ∧ y.kernel = at_ 96 16 ∧ y.part = at_ 176 16 ∧ y.node = ⟨at_ 144 7, at_ 152 4, at_ 160 9⟩
      ∧ y.interval = (if at_ 192 64 = 0 then 100000 else at_ 192 64) ∧ y.g = triple 256 ∧ y.s = triple 384
      ∧ y.t = triple 512 ∧ y.args.toNat = at_ 640 64 ∧ y.bms.map (·.toNat) = (List.range 7).map (fun i => at_ (704 + 64 * i) 64))
    ∧ (bad → v = .error 13) ∧ (¬bad → tabFind s.parts l.part = none → v = .error 9)
    ∧ (tabFind s.parts l.part = some p → ¬bad →
      (¬node → v = .error 9)
      ∧ (node → ¬grid → v = .error 8)
      ∧ (node → grid → l.interval < 1000 ∨ 10000000 < l.interval → v = .error 12)
      ∧ (node → grid → 1000 ≤ l.interval → l.interval ≤ 10000000 →
        (s.loadFor l p [] = .error f → v = .error (match f with
          | .badMagic => 1 | .badVersion => 2 | .noVariant => 3 | .reloc => 4 | .layout => 5 | .trSpace => 6 | .badKpf => 7))
        ∧ (s.loadFor l p [] = .ok (some d) → let asked := size * (if d.share = 0 then 10 else d.share)
          (p.allotment < asked → v = .error 10) ∧ (asked ≤ p.allotment → plan → v = .error 11)
          ∧ (asked ≤ p.allotment → ¬plan → v = .ok d))))
    ∧ (l.object.length < 64 ∨ head % 2 ^ 32 ≠ 0x00464F4D → s.loadFor l p used = .error .badMagic)
    ∧ (64 ≤ l.object.length → head % 2 ^ 32 = 0x00464F4D → head / 2 ^ 32 % 2 ^ 16 ≠ 1 →
      s.loadFor l p used = .error .badVersion)

end Sys2Proof.Claims

/-- 24 R400 to R405: the oldest submission is carried out. A launch is accepted with the next identifier or refused
with its code, as `RefusalsAre` says; an accepted launch that nothing holds back starts, its cores held at the entry,
with a share for each that no regulator failure has lost, unless its data where they stand now make its plan invalid
(log 19); RESETPART puts a partition's cores into reset; READLOG sends the oldest records, RESYNC the retained events
after its argument with their own bodies in order, then RESYNCED, or is refused where one of them is gone. The doorbell
reads a good entry; the event index, the queue registers are written. (That one refusal code of several that apply is
given in a fixed order, and that READLOG takes counts 1 to 256, are log 22's readings.) -/
def Obligations.HostEvents : Prop :=
  RefusalsAre ∧ ∀ (s : State) (vf : Fin 16) (x : Submission) (xs : List Submission) (v : Word) (code id : Nat) (d : Loaded) (l : Launch)
    (p : Part) (reg : Fin 3),
    let q := s.vfs[vf]
    let setVf := fun (w : Vf) => { s with vfs := s.vfs.set vf w }
    let done := setVf { q with subs := xs }
    let lr := s.readLaunch vf x.hseq x.arg
    let rec_ := s.hostNat vf x.arg.toNat 144
    let cores := (nodeCores l.node).take l.size
    (q.subs = x :: xs →
      (x.kind = 1 → s.launchRefusal lr rec_ = .error code →
        exec (.launch vf) s = .next (done.event vf x.hseq 0 code 3 0))
      ∧ (x.kind = 1 → s.launchRefusal lr rec_ = .ok d → ∃ u, exec (.launch vf) s = .next u
          ∧ tabFind u.launches s.nextLaunch.toNat = some
              { lr with share := if d.share = 0 then 10 else d.share, allot := ((tabFind s.parts lr.part).map Part.allotment).getD 0 }
          ∧ u.nextLaunch = (if s.nextLaunch = 0xFFFFFFFF then 1 else s.nextLaunch + 1) ∧ u.cores = s.cores)
      ∧ (x.kind = 2 → tabFind s.parts x.arg.toNat = some p → p.vf = vf → s.launchesOf x.arg.toNat .running = [] →
          ∃ u r, exec (.resetpart vf) s = .next u ∧ tabFind u.parts x.arg.toNat = some r
            ∧ r.faulted = false ∧ r.wasReset = true ∧ r.stop = .none
            ∧ ∀ c ∈ s.coresOf x.arg.toNat, (u.core c).run = .inReset ∧ (u.core c).arch = Arch.reset (s.core c).arch.spad)
      ∧ (x.kind = 3 → 1 ≤ x.arg.toNat → x.arg.toNat ≤ 256 →
          exec (.readlog vf) s = .next ((q.log.take x.arg.toNat).foldl (fun (u : State) r => u.event vf x.hseq 0 0 5 r.toNat) done))
      ∧ (x.kind = 4 → q.dseq.toNat ≤ x.arg.toNat ∨ (∃ e ∈ q.retained, e.1.toNat = x.arg.toNat + 1) →
          exec (.resync vf) s = .next
            (((q.retained.filter (fun e => x.arg.toNat < e.1.toNat && e.1.toNat <= q.dseq.toNat)).foldl
              (fun (u : State) e => u.sendEvent vf e.2) done).event vf x.hseq 0 0 8 (x.arg + 1).toNat))
      ∧ (x.kind = 4 → x.arg.toNat < q.dseq.toNat → (∀ e ∈ q.retained, e.1.toNat ≠ x.arg.toNat + 1) →
          exec (.resync vf) s = .next (done.event vf x.hseq 0 14 3 0)))
    ∧ (tabFind s.launches id = some l → tabFind s.parts l.part = some p → s.mayStart id l p = true →
      s.loadFor l p (s.areaUse l.part) = .ok (some d) →
      (d.planBad l.size = true → exec (.launchStart id) s =
        .next (({ s with launches := tabDel s.launches id } : State).refuseEvent l.vf l.hseq 11))
      ∧ (d.planBad l.size = false → ∃ u, exec (.launchStart id) s = .next u
        ∧ tabFind u.launches id = some { l with state := .running, data := d.places }
        ∧ u.governor = s.governor - (cores.filter (fun c => (s.core c).power.mode != .dark)).length * l.share
        ∧ ∀ c ∈ cores, (u.core c).run = .held ∧ (u.core c).arch.pc = d.entry &&& 0xFFFE ∧ (u.core c).launch = some id))
    ∧ (q.enabled = true → q.sqread % q.sqSize ≠ v.toNat % q.sqSize → (q.sqread + 1) % q.sqSize = v.toNat % q.sqSize →
      entryOk (s.sqEntry vf) = true → BitVec.ofNat 64 (s.sqEntry vf) = q.hseq + 1 →
      exec (.sqtail vf v) s = .next (setVf { q with
        sqtail := v, gap := false, hseq := q.hseq + 1, sqread := (q.sqread + 1) % q.sqSize
        subs := q.subs ++ [⟨q.hseq + 1, s.sqEntry vf / 2 ^ 64 % 2 ^ 8, BitVec.ofNat 64 (s.sqEntry vf / 2 ^ 128)⟩] }))
    ∧ (q.enabled = true → q.held = [] → exec (.eqhead vf v) s = .next (setVf { q with eqhead := v }))
    ∧ exec (.barRegisterWrite vf reg v) s = .next (setVf
        (if reg = 0 then { q with sqbase := v } else if reg = 1 then { q with eqbase := v } else { q with qsize := v }))

/-- R406, R408: a boot whose table and images hold leaves the machine reset under the table; one that stops says at
which step and starts nothing, with memory listing nothing (log 1). R411, R409: updates, policies and telemetry, one
record for each voltage domain. (That telemetry is due at the multiples of 1,700,000 cycles is log 3's choice, that
soft errors arise through POISON is log 23's; that a table which does not describe a package fails at step 2, that a
boot without a spare column for a failed one fails at step 4, and what a monitor update makes of the translator's word
is log 22's reading.) R401: a restarted monitor reads a queue on. R226, R374: the debugger's breakpoint and its poison
need its attachment; its single step and its release act on cores that it holds and ask for nothing more (log 20). 19
R343: an error arises in a protected word of each store. -/
def Obligations.ManagementEvents : Prop :=
  ∀ (s : State) (b : BootInput) (n : Nat) (tr : BitVec 16) (c : CoreId) (pc : Half) (o : BitVec 19)
    (pa : BitVec 52) (vf : Fin 16) (z : Reg8) (row : Fin 32) (v : VReg) (recs : List (Nat × Nat × Nat)),
    let k := s.core c
    let boots := fun (t : State) (dn : Bool) (f : Option Nat) => t.boot.done = dn ∧ t.boot.failed = f ∧ t.cores = []
      ∧ t.mem = [] ∧ t.time = 0 ∧ t.host = s.host
    let newErrs := fun (e : Errs) => s.setCore c { k with errs := e }
    (b.fetched = true → b.tableOk = true → BootTable.ok b.table = true → b.imagesOk = true → s.boot.columnFaults = [] →
      ∃ t, exec (.powerOn b) s = .next t ∧ boots t true none ∧ t.boot.table = some b.table ∧ t.boot.umber = b.umber
        ∧ t.boot.policies = b.policies ∧ t.pkg = b.table.pkg ∧ t.domain = b.table.domain ∧ t.reserve = b.table.reserve)
    ∧ (b.fetched = false → ∃ t, exec (.powerOn b) s = .next t ∧ boots t false (some 1))
    ∧ (b.fetched = true → b.tableOk = false ∨ BootTable.ok b.table = false →
      ∃ t, exec (.powerOn b) s = .next t ∧ boots t false (some 2))
    ∧ (b.fetched = true → b.tableOk = true → BootTable.ok b.table = true → b.imagesOk = false →
      ∃ t, exec (.powerOn b) s = .next t ∧ boots t false (some 3))
    ∧ (b.fetched = true → b.tableOk = true → BootTable.ok b.table = true → b.imagesOk = true →
      ∀ f, s.boot.columnFaults = [f] → f.2 ∈ usedColumns b.table f.1 →
      (∀ x ∈ b.table.spareColumns, x.1 = f.1 → x.2 ∈ usedColumns b.table f.1) →
      ∃ t, exec (.powerOn b) s = .next t ∧ boots t false (some 4))
    ∧ (s.boot.umber < n → exec (.monitorUpdate ⟨n, tr⟩ true) s = .next { s with
        boot := { s.boot with umber := n }, translator := if s.translator.toNat < tr.toNat then tr else s.translator })
    ∧ (n ≤ s.boot.umber → exec (.monitorUpdate ⟨n, tr⟩ true) s = .next s) ∧ exec (.monitorUpdate ⟨n, tr⟩ false) s = .next s
    ∧ (n ∉ s.boot.policies →
      exec (.policyImageLoad n true) s = .next { s with boot := { s.boot with policies := s.boot.policies ++ [n] } })
    ∧ (let ends := (s.telemetryAt + 1) * 1700000
       ∃ t, exec (.telemetryInterval recs) s = .next t
        ∧ t = { s with time := t.time, boot := t.boot, telemetryAt := s.telemetryAt + 1 }
        ∧ t.boot = { s.boot with telemetry := newest 1000 (s.boot.telemetry ++ [(BitVec.ofNat 64 ends,
            (List.range voltageDomains).map (fun d => (d, recs[d]?.getD (Config.measured s.fresh d))))]) }
        ∧ (ends ≤ s.time.toNat → t.time = s.time)
        ∧ (s.time.toNat < ends → s.time.toNat / 1700000 = s.telemetryAt → ends < 2 ^ 64 → t.time.toNat = ends))
    ∧ ((∀ w, w ≠ vf → (s.vfs[w]).enabled = false) → (s.vfs[vf]).enabled = true →
      exec .monitorRestart s = .next ((State.readQueue vf (s.vfs[vf]).sqSize s).pumpEvents vf))
    ∧ (s.attachedTo c = false → exec (.debugHold c pc) s = .next s ∧ exec (.poison (.debug c o)) s = .next s)
    ∧ (s.attachedTo c = true → k.run = .running → k.wait = none → k.arch.pc ≠ pc → pc ∉ k.dbg.brks →
      exec (.debugHold c pc) s = .next (s.setCore c { k with dbg := { k.dbg with brks := k.dbg.brks ++ [pc] } }))
    ∧ (s.attachedTo c = true → k.run = .running → k.wait = none → k.arch.pc = pc → pc ∈ k.dbg.brks → k.dbg.hold = false →
      exec (.debugHold c pc) s = .next (s.setCore c { k with dbg := { k.dbg with hold := true, stepOne := false, since := s.time } }))
    ∧ (k.dbg.hold = true →
      exec (.debugStep c) s = .next (s.setCore c { k with dbg := { k.dbg with stepOne := true } }))
    ∧ (∃ t, exec .debugRun s = .next t ∧ ∀ d : CoreId, (t.core d).dbg.hold = false ∧ (t.core d).arch = (s.core d).arch)
    ∧ (s.attachedTo c = true → k.arch.stashSize ≤ o.toNat / 8 * 8 → o.toNat / 8 * 8 ≤ 0x7DFFF →
      ∃ t, exec (.poison (.debug c o)) s = .next t ∧ o.toNat / 8 ∈ (t.core c).poison ∧ (t.core c).arch = k.arch)
    ∧ (∃ t, exec (.poison (.soft (.spad c o))) s = .next t ∧ o.toNat / 8 ∈ (t.core c).poison ∧ (t.core c).arch = k.arch)
    ∧ (∃ t, exec (.poison (.soft (.memory pa))) s = .next t ∧ t = { s with memPoison := t.memPoison }
      ∧ pa.toNat / 8 ∈ t.memPoison)
    ∧ (k.errs = ⟨[], [], [], []⟩ →
      exec (.poison (.soft (.istore c pc))) s = .next (newErrs ⟨[pc.toNat / 2 * 2], [], [], []⟩)
      ∧ exec (.poison (.soft (.acc c z row))) s = .next (newErrs ⟨[], [32 * z.val + row.val], [], []⟩)
      ∧ exec (.poison (.soft (.vec c v))) s = .next (newErrs ⟨[], [], [v.val], []⟩))

/-! ### Reset (01 R27), and what every step keeps -/

/-- R27: a core reset leaves the listed state and every other register at the value that its definition gives, keeps the
instruction store and the scratchpad, and holds the core until a start message, after which it begins at the pc written;
a core that has halted executes nothing. -/
def Obligations.CoreReset : Prop :=
  ∀ (k : Core) (s : State) (c : CoreId) (w : Half),
    let r := k.toReset
    let a := r.arch
    (r.run = .inReset ∧ r.istore = k.istore ∧ a.spad = k.arch.spad)
    ∧ (a.pc = 0 ∧ (∀ n, a.getX n = 0) ∧ (∀ p, p ≠ 0 → a.getP p = 0) ∧ (∀ v, a.isLive v = false)
      ∧ a.q0 = [] ∧ a.q1 = [] ∧ r.q2 = [] ∧ a.q3 = [] ∧ r.q4 = [] ∧ a.q5 = [] ∧ r.q6 = [] ∧ a.q7 = []
      ∧ (∀ n : Fin 8, r.z[n] = 0) ∧ a.accmode = 0 ∧ r.seq = [] ∧ a.loop0 = 0 ∧ a.loop1 = 0
      ∧ a.tvec = 0 ∧ a.tcause = 0 ∧ a.tpc = 0 ∧ a.tval = 0 ∧ a.tsave = 0 ∧ a.amax = 0 ∧ a.amaxf = 0
      ∧ a.shape = 0 ∧ a.tmode = 0 ∧ a.perm = 0 ∧ r.chunkCnt = 0)
    ∧ (a.chunkLim = 1024 ∧ a.waitcfg = 0 ∧ a.stashCfg = 0 ∧ a.gang = 0 ∧ a.empties = [] ∧ r.pend = 0 ∧ a.mark = 0
      ∧ r.levelReg = 0xF ∧ r.shareOwn = 0 ∧ r.bypass = none
      ∧ (∀ n : Fin 8, a.bm[n] = 0 ∧ a.rings[n] = ⟨0, 0, 0, 0, 0, 0xFFFFFF⟩)
      ∧ (∀ n : Fin 16, a.sw[n] = 0 ∧ a.chcfg[n] = 0 ∧ (r.chans[n]).count = 0 ∧ (r.chans[n]).held = none)
      ∧ (∀ n : Fin 64, (a.views[n]).ctl = 0 ∧ ∀ j : Fin 4, (a.views[n]).ports[j] = 0))
    ∧ (s.core c = r → ∃ t, exec (.startMessage c w) s = .next t ∧ (t.core c).run = .held ∧ (t.core c).arch.pc = w &&& 0xFFFE)
    ∧ ((s.core c).run = .inReset ∨ (s.core c).run = .held ∨ (s.core c).run = .halted →
        s.coreTurn c = (s, .done (.next { s with turn := c })))

/-- 01 R10, R27, 10 R201, 19 R334: the machine at reset. Time is 0, memory lists nothing and reads 0 (log 1), every
core is in reset with a pc of 0 and an instruction store that reads 0, and the governor holds the package's 65,536
shares. (Memory's contents and the other registers are the model's choices of log 1.) -/
def Obligations.ResetState : Prop :=
  let s := State.reset
  s.time = 0 ∧ s.governor = 65536 ∧ s.amber = [] ∧ s.stash = [] ∧ s.pendingFaults = [] ∧ s.parts = [] ∧ s.launches = []
  ∧ (∀ a n, memRead s.mem a n = 0)
  ∧ ∀ c : CoreId, (s.core c).run = .inReset ∧ (s.core c).arch.pc = 0 ∧ (s.core c).part = none
    ∧ (∀ a, memGet (s.core c).istore a = 0)

/-- The machine at reset meets the two conditions that every step keeps or needs: memory in canonical form, and an
agenda of turns. -/
def Obligations.ResetIsSound : Prop := State.reset.memOk ∧ State.reset.agendaOk = true

/-- Every step keeps memory in its canonical form: addresses rising, no byte listed that an unlisted address reads as.
-/
def Obligations.StepKeepsMemoryCanonical : Prop := ∀ s t : State, s.memOk → step s = .next t → t.memOk

/-- Every trap, fault and refusal of the spec is a next state: from a state whose agenda lists turns (log 2, the model's
own order of turns), every step has one, so that no instruction and no event stops the machine. -/
def Obligations.EveryStepHasANextState : Prop := ∀ s : State, s.agendaOk = true → Safe (step s)

/-- 01 R8, 03 R52, R66: a turn of a core that executes fetches the five halfwords at its pc, little-endian, and
executes the instruction that they decode to, with its length noted and, but for a boundary instruction (13 R245), its
chunk open, which takes priority where its start calls for it (13 R251); words that decode to none trap, and a fetch
of a word that is uncorrectable is a MEMERR at the pc (19 R343). The decoder is given the pc, for of several words
that offend the one at the lowest address is named. Time has passed, each interval of 1 ms that has ended is recorded
(24 R411), and the turn is spent; nothing else differs. -/
def Obligations.StepRunsDecodedInstruction : Prop :=
  ∀ (s : State) (c : CoreId) (r : List Turn) (i : Instr) (len : Nat) (x : Trap),
    let k := s.core c
    let ms := s.tick.time.toNat / 1700000
    let t : State := { s.tick with agenda := r, turn := c }
    let halves := (List.range 5).map (fun j =>
      (memGet k.istore (k.arch.pc + BitVec.ofNat 16 (2 * j) + 1).toNat ++ memGet k.istore (k.arch.pc + BitVec.ofNat 16 (2 * j)).toNat : Half))
    let latched : Core := { k with ilen := len }
    s.agenda = .core c :: r → s.tick.due = none → k.run = .running → k.wait = none → k.power.cur ≠ 15 →
    k.dbg.hold = false → k.arch.pc ∉ k.dbg.brks → s.settling k = false → k.waitsForRun = false →
    (s.tick = { s with
      time := s.tick.time, fresh := s.fresh + 1, telemetryAt := max ms s.telemetryAt
      boot := { s.boot with telemetry := s.tick.boot.telemetry } })
    ∧ (ms ≤ s.telemetryAt → s.boot.telemetry.length ≤ 1000 → s.tick.boot = s.boot)
    ∧ (k.fetchBad = true → step s = t.faultMe .memErr .istore (coreAddr c k.arch.pc.toNat))
    ∧ (k.fetchBad = false →
      (decodeAt k.arch.pc halves = .ok (i, len) → step s = exec i
        ((t.setMe (if isBoundary c k.arch i then { latched with await := false } else latched.beginChunk)).notePrio c))
      ∧ (decodeAt k.arch.pc halves = .error x → step s = t.takeTrap x))

/-! ### Encodings (03) -/

/-- The words that the spec writes beside an instruction's assembly form, one or two for each page, decode to it (05
R98, R99, 06 R117, 07 R163, 09 R186, 14 R266, 16 R312, 20 R367, 23 R393), and the refused words of R66 are refused
with its causes and values; of two words that offend, the lower-addressed is named, where an instruction wraps past
0xFFFE too (R10). -/
def Obligations.SpecWordsDecode : Prop :=
  decode [0x0000] = .ok (.nop, 2)
  ∧ decode [0b0110110100000011] = .ok (.li 5 3, 2)
  ∧ decode [0b1111110001000000, 0b0000101110010100] = .ok (.div 3 4 5, 4)
  ∧ decode [0b1111110010000100, 0b1111111010000000, 0b0000001100101010] =
      .ok (.vadd ⟨3, 1, true, .vec 2 false, ⟨2, false⟩, .fp32, false, false, .rne⟩, 6)
  ∧ decode [0b1111110100000000, 0b0010100011100011] = .ok (.tmtab 7 true true, 4)
  ∧ decode [0b1111110101000111, 0b0001110111000000] = .ok (.send 5 6 false 7, 4)
  ∧ decode [0b1111110110001011, 0b0000010111000111] = .ok (.ldg 5 6 1 .dword false true .pkg, 4)
  ∧ decode [0b1111110110000011, 0b0111101001111100] = .ok (.mdrain 2 3 7 ⟨false, false, true, true⟩, 4)
  ∧ decode [0b1111110111000100, 0b0001010111000000] = .ok (.gstat 5 6 .peers, 4)
  ∧ (let refuses := fun (ws : List Half) (x : Trap) => decodeAt 0x0100 ws = .error x
     refuses [0xFC84, 0xFC84, 0x032A] ⟨.prefixed, 0xFC84⟩
     ∧ refuses [0xF800, 0xF800, 0xF800, 0xF800, 0x0000] ⟨.prefixed, 0xF800⟩
     ∧ refuses [0xF800, 0x0000] ⟨.prefixed, 0x0000⟩
     ∧ refuses [0xE800] ⟨.illegal, 0xE800⟩ ∧ refuses [0x0300] ⟨.illegal, 0x0300⟩
     ∧ refuses [0x0001] ⟨.resfield, 0x0001⟩ ∧ refuses [0xFC54, 0x194C] ⟨.resfield, 0xFC54⟩
     ∧ refuses [0xFC54, 0x200B] ⟨.resfield, 0xFC54⟩)
  ∧ decodeAt 0xFFFE [0xFC54, 0x200B] = .error ⟨.resfield, 0x200B⟩

/-- The scalar instructions of pages 0 and 1: decoding what the encoder writes, at any address, gives the instruction
back, with every operand at every value that the encoding admits, and its length. -/
def Obligations.ScalarRoundTrip : Prop :=
  ∀ (i : Instr) (pc : Half) (rest : List Half), i.hasWords = true → i.wf = true → i.fits = true → i.fields.page < 2 →
    decodeAt pc (encode i ++ rest) = .ok (i, 2 * (encode i).length)

/-- The vector instructions of pages 2 to 4: decoding what the encoder writes, at any address, gives the instruction
back. -/
def Obligations.VectorRoundTrip : Prop :=
  ∀ (i : Instr) (pc : Half) (rest : List Half), i.hasWords = true → i.wf = true → i.fits = true → 2 ≤ i.fields.page →
    i.fields.page < 5 → decodeAt pc (encode i ++ rest) = .ok (i, 2 * (encode i).length)

/-- The instructions of pages 5 to 7 (synchronisation, memory, engines and gates): decoding what the encoder writes, at
any address, gives the instruction back. -/
def Obligations.SystemRoundTrip : Prop :=
  ∀ (i : Instr) (pc : Half) (rest : List Half), i.hasWords = true → i.wf = true → i.fits = true → 5 ≤ i.fields.page →
    decodeAt pc (encode i ++ rest) = .ok (i, 2 * (encode i).length)
end

