-- ==== Sys2Proof/Laws/State.lean ====
section
/-!
SUPPORT. Every field of a state, a core and a core's registers under every named update: one small lemma each, so that
no later proof unfolds a record update.
-/

namespace Sys2Proof.Machine

/-! ### Tables -/

theorem tabGet_tabPut_same {α : Type} (d : α) (t : Tab α) (n : Nat) (a : α) : tabGet d (tabPut t n a) n = a := by
  induction t with
  | nil => simp [tabPut, tabGet]
  | cons e t ih =>
    obtain ⟨k, v⟩ := e
    simp only [tabPut]
    split
    · simp [tabGet]
    · split
      · simp [tabGet]
      · simp [tabGet, *]

theorem tabGet_tabPut_ne {α : Type} (d : α) (t : Tab α) (n m : Nat) (a : α) (h : m ≠ n) :
    tabGet d (tabPut t n a) m = tabGet d t m := by
  induction t with
  | nil => simp [tabPut, tabGet, h]
  | cons e t ih =>
    obtain ⟨k, v⟩ := e
    simp only [tabPut]
    split
    · simp [tabGet, h]
    · split
      · rename_i _ hk
        subst hk
        simp [tabGet, h]
      · simp [tabGet, ih]

theorem tabGet_tabDel_same {α : Type} (d : α) (t : Tab α) (n : Nat) : tabGet d (tabDel t n) n = d := by
  induction t with
  | nil => rfl
  | cons e t ih =>
    obtain ⟨k, v⟩ := e
    by_cases h : k = n
    · subst h; simpa [tabDel] using ih
    · simp only [tabDel, List.filter_cons, bne_iff_ne, ne_eq, h, not_false_eq_true, if_true, tabGet, Ne.symm h, if_false]
      exact ih

theorem tabGet_tabDel_ne {α : Type} (d : α) (t : Tab α) (n m : Nat) (h : m ≠ n) :
    tabGet d (tabDel t n) m = tabGet d t m := by
  induction t with
  | nil => rfl
  | cons e t ih =>
    obtain ⟨k, v⟩ := e
    by_cases hk : k = n
    · subst hk
      simp only [tabDel, List.filter_cons, bne_self_eq_false, tabGet, h, if_false]
      exact ih
    · simp only [tabDel, List.filter_cons, bne_iff_ne, ne_eq, hk, not_false_eq_true, if_true, tabGet]
      rw [show tabGet d (List.filter (fun e => e.1 != n) t) m = tabGet d t m from ih]

/-! ### Cores of the machine -/

@[simp] theorem core_setCore_same (s : State) (c : CoreId) (k : Core) : (s.setCore c k).core c = k :=
  tabGet_tabPut_same _ _ _ _

theorem core_setCore_ne (s : State) (c d : CoreId) (k : Core) (h : d ≠ c) : (s.setCore c k).core d = s.core d :=
  tabGet_tabPut_ne _ _ _ _ _ (fun e => h (Fin.ext e))

@[simp] theorem me_setMe (s : State) (k : Core) : (s.setMe k).me = k := core_setCore_same s s.turn k

theorem core_setMe_ne (s : State) (d : CoreId) (k : Core) (h : d ≠ s.turn) : (s.setMe k).core d = s.core d :=
  core_setCore_ne s s.turn d k h

@[simp] theorem onCore_core_same (s : State) (c : CoreId) (f : Core → Core) : (s.onCore c f).core c = f (s.core c) :=
  core_setCore_same s c _

theorem onCore_core_ne (s : State) (c d : CoreId) (f : Core → Core) (h : d ≠ c) : (s.onCore c f).core d = s.core d :=
  core_setCore_ne s c d _ h

@[simp] theorem me_completed (s : State) (a : Arch) :
    (s.completed a).me = { s.me.retire a with progress := s.time } := me_setMe s _

@[simp] theorem me_jumped (s : State) (a : Arch) (pc : BitVec 16) :
    (s.jumped a pc).me = { s.me.retireTo a pc with progress := s.time } := me_setMe s _

/-! ### Fields of the machine -/

@[simp] theorem setCore_time (s : State) (c : CoreId) (k : Core) : (s.setCore c k).time = s.time := rfl
@[simp] theorem setCore_mem (s : State) (c : CoreId) (k : Core) : (s.setCore c k).mem = s.mem := rfl
@[simp] theorem setCore_stash (s : State) (c : CoreId) (k : Core) : (s.setCore c k).stash = s.stash := rfl
@[simp] theorem setCore_near (s : State) (c : CoreId) (k : Core) : (s.setCore c k).near = s.near := rfl
@[simp] theorem setCore_stale (s : State) (c : CoreId) (k : Core) : (s.setCore c k).stale = s.stale := rfl
@[simp] theorem setCore_groups (s : State) (c : CoreId) (k : Core) : (s.setCore c k).groups = s.groups := rfl
@[simp] theorem setCore_pendingFaults (s : State) (c : CoreId) (k : Core) : (s.setCore c k).pendingFaults = s.pendingFaults := rfl
@[simp] theorem setCore_amber (s : State) (c : CoreId) (k : Core) : (s.setCore c k).amber = s.amber := rfl
@[simp] theorem setCore_governor (s : State) (c : CoreId) (k : Core) : (s.setCore c k).governor = s.governor := rfl
@[simp] theorem setCore_reserve (s : State) (c : CoreId) (k : Core) : (s.setCore c k).reserve = s.reserve := rfl
@[simp] theorem setCore_pools (s : State) (c : CoreId) (k : Core) : (s.setCore c k).pools = s.pools := rfl
@[simp] theorem setCore_links (s : State) (c : CoreId) (k : Core) : (s.setCore c k).links = s.links := rfl
@[simp] theorem setCore_vecTrade (s : State) (c : CoreId) (k : Core) : (s.setCore c k).vecTrade = s.vecTrade := rfl
@[simp] theorem setCore_rampUp (s : State) (c : CoreId) (k : Core) : (s.setCore c k).rampUp = s.rampUp := rfl
@[simp] theorem setCore_rampDown (s : State) (c : CoreId) (k : Core) : (s.setCore c k).rampDown = s.rampDown := rfl
@[simp] theorem setCore_slewLog (s : State) (c : CoreId) (k : Core) : (s.setCore c k).slewLog = s.slewLog := rfl
@[simp] theorem setCore_parts (s : State) (c : CoreId) (k : Core) : (s.setCore c k).parts = s.parts := rfl
@[simp] theorem setCore_launches (s : State) (c : CoreId) (k : Core) : (s.setCore c k).launches = s.launches := rfl
@[simp] theorem setCore_nextLaunch (s : State) (c : CoreId) (k : Core) : (s.setCore c k).nextLaunch = s.nextLaunch := rfl
@[simp] theorem setCore_vfs (s : State) (c : CoreId) (k : Core) : (s.setCore c k).vfs = s.vfs := rfl
@[simp] theorem setCore_host (s : State) (c : CoreId) (k : Core) : (s.setCore c k).host = s.host := rfl
@[simp] theorem setCore_gates (s : State) (c : CoreId) (k : Core) : (s.setCore c k).gates = s.gates := rfl
@[simp] theorem setCore_bucketsAt (s : State) (c : CoreId) (k : Core) : (s.setCore c k).bucketsAt = s.bucketsAt := rfl
@[simp] theorem setCore_tokensAt (s : State) (c : CoreId) (k : Core) : (s.setCore c k).tokensAt = s.tokensAt := rfl
@[simp] theorem setCore_slateLog (s : State) (c : CoreId) (k : Core) : (s.setCore c k).slateLog = s.slateLog := rfl
@[simp] theorem setCore_reconf (s : State) (c : CoreId) (k : Core) : (s.setCore c k).reconf = s.reconf := rfl
@[simp] theorem setCore_reply (s : State) (c : CoreId) (k : Core) : (s.setCore c k).reply = s.reply := rfl
@[simp] theorem setCore_boot (s : State) (c : CoreId) (k : Core) : (s.setCore c k).boot = s.boot := rfl
@[simp] theorem setCore_slewAt (s : State) (c : CoreId) (k : Core) : (s.setCore c k).slewAt = s.slewAt := rfl
@[simp] theorem setCore_telemetryAt (s : State) (c : CoreId) (k : Core) : (s.setCore c k).telemetryAt = s.telemetryAt := rfl
@[simp] theorem setCore_tlb (s : State) (c : CoreId) (k : Core) : (s.setCore c k).tlb = s.tlb := rfl
@[simp] theorem setCore_gone (s : State) (c : CoreId) (k : Core) : (s.setCore c k).gone = s.gone := rfl
@[simp] theorem setCore_back (s : State) (c : CoreId) (k : Core) : (s.setCore c k).back = s.back := rfl
@[simp] theorem setCore_idle (s : State) (c : CoreId) (k : Core) : (s.setCore c k).idle = s.idle := rfl
@[simp] theorem setCore_pkg (s : State) (c : CoreId) (k : Core) : (s.setCore c k).pkg = s.pkg := rfl
@[simp] theorem setCore_domain (s : State) (c : CoreId) (k : Core) : (s.setCore c k).domain = s.domain := rfl
@[simp] theorem setCore_cxl (s : State) (c : CoreId) (k : Core) : (s.setCore c k).cxl = s.cxl := rfl
@[simp] theorem setCore_memPoison (s : State) (c : CoreId) (k : Core) : (s.setCore c k).memPoison = s.memPoison := rfl
@[simp] theorem setCore_firewall (s : State) (c : CoreId) (k : Core) : (s.setCore c k).firewall = s.firewall := rfl
@[simp] theorem setCore_translator (s : State) (c : CoreId) (k : Core) : (s.setCore c k).translator = s.translator := rfl
@[simp] theorem setCore_turn (s : State) (c : CoreId) (k : Core) : (s.setCore c k).turn = s.turn := rfl
@[simp] theorem setCore_agenda (s : State) (c : CoreId) (k : Core) : (s.setCore c k).agenda = s.agenda := rfl
@[simp] theorem setCore_fresh (s : State) (c : CoreId) (k : Core) : (s.setCore c k).fresh = s.fresh := rfl
@[simp] theorem setMe_time (s : State) (k : Core) : (s.setMe k).time = s.time := rfl
@[simp] theorem setMe_mem (s : State) (k : Core) : (s.setMe k).mem = s.mem := rfl
@[simp] theorem setMe_stash (s : State) (k : Core) : (s.setMe k).stash = s.stash := rfl
@[simp] theorem setMe_near (s : State) (k : Core) : (s.setMe k).near = s.near := rfl
@[simp] theorem setMe_stale (s : State) (k : Core) : (s.setMe k).stale = s.stale := rfl
@[simp] theorem setMe_groups (s : State) (k : Core) : (s.setMe k).groups = s.groups := rfl
@[simp] theorem setMe_pendingFaults (s : State) (k : Core) : (s.setMe k).pendingFaults = s.pendingFaults := rfl
@[simp] theorem setMe_amber (s : State) (k : Core) : (s.setMe k).amber = s.amber := rfl
@[simp] theorem setMe_governor (s : State) (k : Core) : (s.setMe k).governor = s.governor := rfl
@[simp] theorem setMe_reserve (s : State) (k : Core) : (s.setMe k).reserve = s.reserve := rfl
@[simp] theorem setMe_pools (s : State) (k : Core) : (s.setMe k).pools = s.pools := rfl
@[simp] theorem setMe_links (s : State) (k : Core) : (s.setMe k).links = s.links := rfl
@[simp] theorem setMe_vecTrade (s : State) (k : Core) : (s.setMe k).vecTrade = s.vecTrade := rfl
@[simp] theorem setMe_rampUp (s : State) (k : Core) : (s.setMe k).rampUp = s.rampUp := rfl
@[simp] theorem setMe_rampDown (s : State) (k : Core) : (s.setMe k).rampDown = s.rampDown := rfl
@[simp] theorem setMe_slewLog (s : State) (k : Core) : (s.setMe k).slewLog = s.slewLog := rfl
@[simp] theorem setMe_parts (s : State) (k : Core) : (s.setMe k).parts = s.parts := rfl
@[simp] theorem setMe_launches (s : State) (k : Core) : (s.setMe k).launches = s.launches := rfl
@[simp] theorem setMe_nextLaunch (s : State) (k : Core) : (s.setMe k).nextLaunch = s.nextLaunch := rfl
@[simp] theorem setMe_vfs (s : State) (k : Core) : (s.setMe k).vfs = s.vfs := rfl
@[simp] theorem setMe_host (s : State) (k : Core) : (s.setMe k).host = s.host := rfl
@[simp] theorem setMe_gates (s : State) (k : Core) : (s.setMe k).gates = s.gates := rfl
@[simp] theorem setMe_bucketsAt (s : State) (k : Core) : (s.setMe k).bucketsAt = s.bucketsAt := rfl
@[simp] theorem setMe_tokensAt (s : State) (k : Core) : (s.setMe k).tokensAt = s.tokensAt := rfl
@[simp] theorem setMe_slateLog (s : State) (k : Core) : (s.setMe k).slateLog = s.slateLog := rfl
@[simp] theorem setMe_reconf (s : State) (k : Core) : (s.setMe k).reconf = s.reconf := rfl
@[simp] theorem setMe_reply (s : State) (k : Core) : (s.setMe k).reply = s.reply := rfl
@[simp] theorem setMe_boot (s : State) (k : Core) : (s.setMe k).boot = s.boot := rfl
@[simp] theorem setMe_slewAt (s : State) (k : Core) : (s.setMe k).slewAt = s.slewAt := rfl
@[simp] theorem setMe_telemetryAt (s : State) (k : Core) : (s.setMe k).telemetryAt = s.telemetryAt := rfl
@[simp] theorem setMe_tlb (s : State) (k : Core) : (s.setMe k).tlb = s.tlb := rfl
@[simp] theorem setMe_gone (s : State) (k : Core) : (s.setMe k).gone = s.gone := rfl
@[simp] theorem setMe_back (s : State) (k : Core) : (s.setMe k).back = s.back := rfl
@[simp] theorem setMe_idle (s : State) (k : Core) : (s.setMe k).idle = s.idle := rfl
@[simp] theorem setMe_pkg (s : State) (k : Core) : (s.setMe k).pkg = s.pkg := rfl
@[simp] theorem setMe_domain (s : State) (k : Core) : (s.setMe k).domain = s.domain := rfl
@[simp] theorem setMe_cxl (s : State) (k : Core) : (s.setMe k).cxl = s.cxl := rfl
@[simp] theorem setMe_memPoison (s : State) (k : Core) : (s.setMe k).memPoison = s.memPoison := rfl
@[simp] theorem setMe_firewall (s : State) (k : Core) : (s.setMe k).firewall = s.firewall := rfl
@[simp] theorem setMe_translator (s : State) (k : Core) : (s.setMe k).translator = s.translator := rfl
@[simp] theorem setMe_turn (s : State) (k : Core) : (s.setMe k).turn = s.turn := rfl
@[simp] theorem setMe_agenda (s : State) (k : Core) : (s.setMe k).agenda = s.agenda := rfl
@[simp] theorem setMe_fresh (s : State) (k : Core) : (s.setMe k).fresh = s.fresh := rfl
@[simp] theorem onCore_time (s : State) (c : CoreId) (f : Core → Core) : (s.onCore c f).time = s.time := rfl
@[simp] theorem onCore_mem (s : State) (c : CoreId) (f : Core → Core) : (s.onCore c f).mem = s.mem := rfl
@[simp] theorem onCore_stash (s : State) (c : CoreId) (f : Core → Core) : (s.onCore c f).stash = s.stash := rfl
@[simp] theorem onCore_near (s : State) (c : CoreId) (f : Core → Core) : (s.onCore c f).near = s.near := rfl
@[simp] theorem onCore_stale (s : State) (c : CoreId) (f : Core → Core) : (s.onCore c f).stale = s.stale := rfl
@[simp] theorem onCore_groups (s : State) (c : CoreId) (f : Core → Core) : (s.onCore c f).groups = s.groups := rfl
@[simp] theorem onCore_pendingFaults (s : State) (c : CoreId) (f : Core → Core) : (s.onCore c f).pendingFaults = s.pendingFaults := rfl
@[simp] theorem onCore_amber (s : State) (c : CoreId) (f : Core → Core) : (s.onCore c f).amber = s.amber := rfl
@[simp] theorem onCore_governor (s : State) (c : CoreId) (f : Core → Core) : (s.onCore c f).governor = s.governor := rfl
@[simp] theorem onCore_reserve (s : State) (c : CoreId) (f : Core → Core) : (s.onCore c f).reserve = s.reserve := rfl
@[simp] theorem onCore_pools (s : State) (c : CoreId) (f : Core → Core) : (s.onCore c f).pools = s.pools := rfl
@[simp] theorem onCore_links (s : State) (c : CoreId) (f : Core → Core) : (s.onCore c f).links = s.links := rfl
@[simp] theorem onCore_vecTrade (s : State) (c : CoreId) (f : Core → Core) : (s.onCore c f).vecTrade = s.vecTrade := rfl
@[simp] theorem onCore_rampUp (s : State) (c : CoreId) (f : Core → Core) : (s.onCore c f).rampUp = s.rampUp := rfl
@[simp] theorem onCore_rampDown (s : State) (c : CoreId) (f : Core → Core) : (s.onCore c f).rampDown = s.rampDown := rfl
@[simp] theorem onCore_slewLog (s : State) (c : CoreId) (f : Core → Core) : (s.onCore c f).slewLog = s.slewLog := rfl
@[simp] theorem onCore_parts (s : State) (c : CoreId) (f : Core → Core) : (s.onCore c f).parts = s.parts := rfl
@[simp] theorem onCore_launches (s : State) (c : CoreId) (f : Core → Core) : (s.onCore c f).launches = s.launches := rfl
@[simp] theorem onCore_nextLaunch (s : State) (c : CoreId) (f : Core → Core) : (s.onCore c f).nextLaunch = s.nextLaunch := rfl
@[simp] theorem onCore_vfs (s : State) (c : CoreId) (f : Core → Core) : (s.onCore c f).vfs = s.vfs := rfl
@[simp] theorem onCore_host (s : State) (c : CoreId) (f : Core → Core) : (s.onCore c f).host = s.host := rfl
@[simp] theorem onCore_gates (s : State) (c : CoreId) (f : Core → Core) : (s.onCore c f).gates = s.gates := rfl
@[simp] theorem onCore_bucketsAt (s : State) (c : CoreId) (f : Core → Core) : (s.onCore c f).bucketsAt = s.bucketsAt := rfl
@[simp] theorem onCore_tokensAt (s : State) (c : CoreId) (f : Core → Core) : (s.onCore c f).tokensAt = s.tokensAt := rfl
@[simp] theorem onCore_slateLog (s : State) (c : CoreId) (f : Core → Core) : (s.onCore c f).slateLog = s.slateLog := rfl
@[simp] theorem onCore_reconf (s : State) (c : CoreId) (f : Core → Core) : (s.onCore c f).reconf = s.reconf := rfl
@[simp] theorem onCore_reply (s : State) (c : CoreId) (f : Core → Core) : (s.onCore c f).reply = s.reply := rfl
@[simp] theorem onCore_boot (s : State) (c : CoreId) (f : Core → Core) : (s.onCore c f).boot = s.boot := rfl
@[simp] theorem onCore_slewAt (s : State) (c : CoreId) (f : Core → Core) : (s.onCore c f).slewAt = s.slewAt := rfl
@[simp] theorem onCore_telemetryAt (s : State) (c : CoreId) (f : Core → Core) : (s.onCore c f).telemetryAt = s.telemetryAt := rfl
@[simp] theorem onCore_tlb (s : State) (c : CoreId) (f : Core → Core) : (s.onCore c f).tlb = s.tlb := rfl
@[simp] theorem onCore_gone (s : State) (c : CoreId) (f : Core → Core) : (s.onCore c f).gone = s.gone := rfl
@[simp] theorem onCore_back (s : State) (c : CoreId) (f : Core → Core) : (s.onCore c f).back = s.back := rfl
@[simp] theorem onCore_idle (s : State) (c : CoreId) (f : Core → Core) : (s.onCore c f).idle = s.idle := rfl
@[simp] theorem onCore_pkg (s : State) (c : CoreId) (f : Core → Core) : (s.onCore c f).pkg = s.pkg := rfl
@[simp] theorem onCore_domain (s : State) (c : CoreId) (f : Core → Core) : (s.onCore c f).domain = s.domain := rfl
@[simp] theorem onCore_cxl (s : State) (c : CoreId) (f : Core → Core) : (s.onCore c f).cxl = s.cxl := rfl
@[simp] theorem onCore_memPoison (s : State) (c : CoreId) (f : Core → Core) : (s.onCore c f).memPoison = s.memPoison := rfl
@[simp] theorem onCore_firewall (s : State) (c : CoreId) (f : Core → Core) : (s.onCore c f).firewall = s.firewall := rfl
@[simp] theorem onCore_translator (s : State) (c : CoreId) (f : Core → Core) : (s.onCore c f).translator = s.translator := rfl
@[simp] theorem onCore_turn (s : State) (c : CoreId) (f : Core → Core) : (s.onCore c f).turn = s.turn := rfl
@[simp] theorem onCore_agenda (s : State) (c : CoreId) (f : Core → Core) : (s.onCore c f).agenda = s.agenda := rfl
@[simp] theorem onCore_fresh (s : State) (c : CoreId) (f : Core → Core) : (s.onCore c f).fresh = s.fresh := rfl
@[simp] theorem completed_time (s : State) (a : Arch) : (s.completed a).time = s.time := rfl
@[simp] theorem completed_mem (s : State) (a : Arch) : (s.completed a).mem = s.mem := rfl
@[simp] theorem completed_stash (s : State) (a : Arch) : (s.completed a).stash = s.stash := rfl
@[simp] theorem completed_near (s : State) (a : Arch) : (s.completed a).near = s.near := rfl
@[simp] theorem completed_stale (s : State) (a : Arch) : (s.completed a).stale = s.stale := rfl
@[simp] theorem completed_groups (s : State) (a : Arch) : (s.completed a).groups = s.groups := rfl
@[simp] theorem completed_pendingFaults (s : State) (a : Arch) : (s.completed a).pendingFaults = s.pendingFaults := rfl
@[simp] theorem completed_amber (s : State) (a : Arch) : (s.completed a).amber = s.amber := rfl
@[simp] theorem completed_governor (s : State) (a : Arch) : (s.completed a).governor = s.governor := rfl
@[simp] theorem completed_reserve (s : State) (a : Arch) : (s.completed a).reserve = s.reserve := rfl
@[simp] theorem completed_pools (s : State) (a : Arch) : (s.completed a).pools = s.pools := rfl
@[simp] theorem completed_links (s : State) (a : Arch) : (s.completed a).links = s.links := rfl
@[simp] theorem completed_vecTrade (s : State) (a : Arch) : (s.completed a).vecTrade = s.vecTrade := rfl
@[simp] theorem completed_rampUp (s : State) (a : Arch) : (s.completed a).rampUp = s.rampUp := rfl
@[simp] theorem completed_rampDown (s : State) (a : Arch) : (s.completed a).rampDown = s.rampDown := rfl
@[simp] theorem completed_slewLog (s : State) (a : Arch) : (s.completed a).slewLog = s.slewLog := rfl
@[simp] theorem completed_parts (s : State) (a : Arch) : (s.completed a).parts = s.parts := rfl
@[simp] theorem completed_launches (s : State) (a : Arch) : (s.completed a).launches = s.launches := rfl
@[simp] theorem completed_nextLaunch (s : State) (a : Arch) : (s.completed a).nextLaunch = s.nextLaunch := rfl
@[simp] theorem completed_vfs (s : State) (a : Arch) : (s.completed a).vfs = s.vfs := rfl
@[simp] theorem completed_host (s : State) (a : Arch) : (s.completed a).host = s.host := rfl
@[simp] theorem completed_gates (s : State) (a : Arch) : (s.completed a).gates = s.gates := rfl
@[simp] theorem completed_bucketsAt (s : State) (a : Arch) : (s.completed a).bucketsAt = s.bucketsAt := rfl
@[simp] theorem completed_tokensAt (s : State) (a : Arch) : (s.completed a).tokensAt = s.tokensAt := rfl
@[simp] theorem completed_slateLog (s : State) (a : Arch) : (s.completed a).slateLog = s.slateLog := rfl
@[simp] theorem completed_reconf (s : State) (a : Arch) : (s.completed a).reconf = s.reconf := rfl
@[simp] theorem completed_reply (s : State) (a : Arch) : (s.completed a).reply = s.reply := rfl
@[simp] theorem completed_boot (s : State) (a : Arch) : (s.completed a).boot = s.boot := rfl
@[simp] theorem completed_slewAt (s : State) (a : Arch) : (s.completed a).slewAt = s.slewAt := rfl
@[simp] theorem completed_telemetryAt (s : State) (a : Arch) : (s.completed a).telemetryAt = s.telemetryAt := rfl
@[simp] theorem completed_tlb (s : State) (a : Arch) : (s.completed a).tlb = s.tlb := rfl
@[simp] theorem completed_gone (s : State) (a : Arch) : (s.completed a).gone = s.gone := rfl
@[simp] theorem completed_back (s : State) (a : Arch) : (s.completed a).back = s.back := rfl
@[simp] theorem completed_idle (s : State) (a : Arch) : (s.completed a).idle = s.idle := rfl
@[simp] theorem completed_pkg (s : State) (a : Arch) : (s.completed a).pkg = s.pkg := rfl
@[simp] theorem completed_domain (s : State) (a : Arch) : (s.completed a).domain = s.domain := rfl
@[simp] theorem completed_cxl (s : State) (a : Arch) : (s.completed a).cxl = s.cxl := rfl
@[simp] theorem completed_memPoison (s : State) (a : Arch) : (s.completed a).memPoison = s.memPoison := rfl
@[simp] theorem completed_firewall (s : State) (a : Arch) : (s.completed a).firewall = s.firewall := rfl
@[simp] theorem completed_translator (s : State) (a : Arch) : (s.completed a).translator = s.translator := rfl
@[simp] theorem completed_turn (s : State) (a : Arch) : (s.completed a).turn = s.turn := rfl
@[simp] theorem completed_agenda (s : State) (a : Arch) : (s.completed a).agenda = s.agenda := rfl
@[simp] theorem completed_fresh (s : State) (a : Arch) : (s.completed a).fresh = s.fresh := rfl
@[simp] theorem jumped_time (s : State) (a : Arch) (pc : BitVec 16) : (s.jumped a pc).time = s.time := rfl
@[simp] theorem jumped_mem (s : State) (a : Arch) (pc : BitVec 16) : (s.jumped a pc).mem = s.mem := rfl
@[simp] theorem jumped_stash (s : State) (a : Arch) (pc : BitVec 16) : (s.jumped a pc).stash = s.stash := rfl
@[simp] theorem jumped_near (s : State) (a : Arch) (pc : BitVec 16) : (s.jumped a pc).near = s.near := rfl
@[simp] theorem jumped_stale (s : State) (a : Arch) (pc : BitVec 16) : (s.jumped a pc).stale = s.stale := rfl
@[simp] theorem jumped_groups (s : State) (a : Arch) (pc : BitVec 16) : (s.jumped a pc).groups = s.groups := rfl
@[simp] theorem jumped_pendingFaults (s : State) (a : Arch) (pc : BitVec 16) : (s.jumped a pc).pendingFaults = s.pendingFaults := rfl
@[simp] theorem jumped_amber (s : State) (a : Arch) (pc : BitVec 16) : (s.jumped a pc).amber = s.amber := rfl
@[simp] theorem jumped_governor (s : State) (a : Arch) (pc : BitVec 16) : (s.jumped a pc).governor = s.governor := rfl
@[simp] theorem jumped_reserve (s : State) (a : Arch) (pc : BitVec 16) : (s.jumped a pc).reserve = s.reserve := rfl
@[simp] theorem jumped_pools (s : State) (a : Arch) (pc : BitVec 16) : (s.jumped a pc).pools = s.pools := rfl
@[simp] theorem jumped_links (s : State) (a : Arch) (pc : BitVec 16) : (s.jumped a pc).links = s.links := rfl
@[simp] theorem jumped_vecTrade (s : State) (a : Arch) (pc : BitVec 16) : (s.jumped a pc).vecTrade = s.vecTrade := rfl
@[simp] theorem jumped_rampUp (s : State) (a : Arch) (pc : BitVec 16) : (s.jumped a pc).rampUp = s.rampUp := rfl
@[simp] theorem jumped_rampDown (s : State) (a : Arch) (pc : BitVec 16) : (s.jumped a pc).rampDown = s.rampDown := rfl
@[simp] theorem jumped_slewLog (s : State) (a : Arch) (pc : BitVec 16) : (s.jumped a pc).slewLog = s.slewLog := rfl
@[simp] theorem jumped_parts (s : State) (a : Arch) (pc : BitVec 16) : (s.jumped a pc).parts = s.parts := rfl
@[simp] theorem jumped_launches (s : State) (a : Arch) (pc : BitVec 16) : (s.jumped a pc).launches = s.launches := rfl
@[simp] theorem jumped_nextLaunch (s : State) (a : Arch) (pc : BitVec 16) : (s.jumped a pc).nextLaunch = s.nextLaunch := rfl
@[simp] theorem jumped_vfs (s : State) (a : Arch) (pc : BitVec 16) : (s.jumped a pc).vfs = s.vfs := rfl
@[simp] theorem jumped_host (s : State) (a : Arch) (pc : BitVec 16) : (s.jumped a pc).host = s.host := rfl
@[simp] theorem jumped_gates (s : State) (a : Arch) (pc : BitVec 16) : (s.jumped a pc).gates = s.gates := rfl
@[simp] theorem jumped_bucketsAt (s : State) (a : Arch) (pc : BitVec 16) : (s.jumped a pc).bucketsAt = s.bucketsAt := rfl
@[simp] theorem jumped_tokensAt (s : State) (a : Arch) (pc : BitVec 16) : (s.jumped a pc).tokensAt = s.tokensAt := rfl
@[simp] theorem jumped_slateLog (s : State) (a : Arch) (pc : BitVec 16) : (s.jumped a pc).slateLog = s.slateLog := rfl
@[simp] theorem jumped_reconf (s : State) (a : Arch) (pc : BitVec 16) : (s.jumped a pc).reconf = s.reconf := rfl
@[simp] theorem jumped_reply (s : State) (a : Arch) (pc : BitVec 16) : (s.jumped a pc).reply = s.reply := rfl
@[simp] theorem jumped_boot (s : State) (a : Arch) (pc : BitVec 16) : (s.jumped a pc).boot = s.boot := rfl
@[simp] theorem jumped_slewAt (s : State) (a : Arch) (pc : BitVec 16) : (s.jumped a pc).slewAt = s.slewAt := rfl
@[simp] theorem jumped_telemetryAt (s : State) (a : Arch) (pc : BitVec 16) : (s.jumped a pc).telemetryAt = s.telemetryAt := rfl
@[simp] theorem jumped_tlb (s : State) (a : Arch) (pc : BitVec 16) : (s.jumped a pc).tlb = s.tlb := rfl
@[simp] theorem jumped_gone (s : State) (a : Arch) (pc : BitVec 16) : (s.jumped a pc).gone = s.gone := rfl
@[simp] theorem jumped_back (s : State) (a : Arch) (pc : BitVec 16) : (s.jumped a pc).back = s.back := rfl
@[simp] theorem jumped_idle (s : State) (a : Arch) (pc : BitVec 16) : (s.jumped a pc).idle = s.idle := rfl
@[simp] theorem jumped_pkg (s : State) (a : Arch) (pc : BitVec 16) : (s.jumped a pc).pkg = s.pkg := rfl
@[simp] theorem jumped_domain (s : State) (a : Arch) (pc : BitVec 16) : (s.jumped a pc).domain = s.domain := rfl
@[simp] theorem jumped_cxl (s : State) (a : Arch) (pc : BitVec 16) : (s.jumped a pc).cxl = s.cxl := rfl
@[simp] theorem jumped_memPoison (s : State) (a : Arch) (pc : BitVec 16) : (s.jumped a pc).memPoison = s.memPoison := rfl
@[simp] theorem jumped_firewall (s : State) (a : Arch) (pc : BitVec 16) : (s.jumped a pc).firewall = s.firewall := rfl
@[simp] theorem jumped_translator (s : State) (a : Arch) (pc : BitVec 16) : (s.jumped a pc).translator = s.translator := rfl
@[simp] theorem jumped_turn (s : State) (a : Arch) (pc : BitVec 16) : (s.jumped a pc).turn = s.turn := rfl
@[simp] theorem jumped_agenda (s : State) (a : Arch) (pc : BitVec 16) : (s.jumped a pc).agenda = s.agenda := rfl
@[simp] theorem jumped_fresh (s : State) (a : Arch) (pc : BitVec 16) : (s.jumped a pc).fresh = s.fresh := rfl
@[simp] theorem raise_time (s : State) (c : CoreId) (cls : FaultClass) (place : Place) (addr : Word) (cause : Nat) : (s.raise c cls place addr cause).time = s.time := rfl
@[simp] theorem raise_mem (s : State) (c : CoreId) (cls : FaultClass) (place : Place) (addr : Word) (cause : Nat) : (s.raise c cls place addr cause).mem = s.mem := rfl
@[simp] theorem raise_stash (s : State) (c : CoreId) (cls : FaultClass) (place : Place) (addr : Word) (cause : Nat) : (s.raise c cls place addr cause).stash = s.stash := rfl
@[simp] theorem raise_near (s : State) (c : CoreId) (cls : FaultClass) (place : Place) (addr : Word) (cause : Nat) : (s.raise c cls place addr cause).near = s.near := rfl
@[simp] theorem raise_stale (s : State) (c : CoreId) (cls : FaultClass) (place : Place) (addr : Word) (cause : Nat) : (s.raise c cls place addr cause).stale = s.stale := rfl
@[simp] theorem raise_groups (s : State) (c : CoreId) (cls : FaultClass) (place : Place) (addr : Word) (cause : Nat) : (s.raise c cls place addr cause).groups = s.groups := rfl
@[simp] theorem raise_amber (s : State) (c : CoreId) (cls : FaultClass) (place : Place) (addr : Word) (cause : Nat) : (s.raise c cls place addr cause).amber = s.amber := rfl
@[simp] theorem raise_governor (s : State) (c : CoreId) (cls : FaultClass) (place : Place) (addr : Word) (cause : Nat) : (s.raise c cls place addr cause).governor = s.governor := rfl
@[simp] theorem raise_reserve (s : State) (c : CoreId) (cls : FaultClass) (place : Place) (addr : Word) (cause : Nat) : (s.raise c cls place addr cause).reserve = s.reserve := rfl
@[simp] theorem raise_pools (s : State) (c : CoreId) (cls : FaultClass) (place : Place) (addr : Word) (cause : Nat) : (s.raise c cls place addr cause).pools = s.pools := rfl
@[simp] theorem raise_links (s : State) (c : CoreId) (cls : FaultClass) (place : Place) (addr : Word) (cause : Nat) : (s.raise c cls place addr cause).links = s.links := rfl
@[simp] theorem raise_vecTrade (s : State) (c : CoreId) (cls : FaultClass) (place : Place) (addr : Word) (cause : Nat) : (s.raise c cls place addr cause).vecTrade = s.vecTrade := rfl
@[simp] theorem raise_rampUp (s : State) (c : CoreId) (cls : FaultClass) (place : Place) (addr : Word) (cause : Nat) : (s.raise c cls place addr cause).rampUp = s.rampUp := rfl
@[simp] theorem raise_rampDown (s : State) (c : CoreId) (cls : FaultClass) (place : Place) (addr : Word) (cause : Nat) : (s.raise c cls place addr cause).rampDown = s.rampDown := rfl
@[simp] theorem raise_slewLog (s : State) (c : CoreId) (cls : FaultClass) (place : Place) (addr : Word) (cause : Nat) : (s.raise c cls place addr cause).slewLog = s.slewLog := rfl
@[simp] theorem raise_parts (s : State) (c : CoreId) (cls : FaultClass) (place : Place) (addr : Word) (cause : Nat) : (s.raise c cls place addr cause).parts = s.parts := rfl
@[simp] theorem raise_launches (s : State) (c : CoreId) (cls : FaultClass) (place : Place) (addr : Word) (cause : Nat) : (s.raise c cls place addr cause).launches = s.launches := rfl
@[simp] theorem raise_nextLaunch (s : State) (c : CoreId) (cls : FaultClass) (place : Place) (addr : Word) (cause : Nat) : (s.raise c cls place addr cause).nextLaunch = s.nextLaunch := rfl
@[simp] theorem raise_vfs (s : State) (c : CoreId) (cls : FaultClass) (place : Place) (addr : Word) (cause : Nat) : (s.raise c cls place addr cause).vfs = s.vfs := rfl
@[simp] theorem raise_host (s : State) (c : CoreId) (cls : FaultClass) (place : Place) (addr : Word) (cause : Nat) : (s.raise c cls place addr cause).host = s.host := rfl
@[simp] theorem raise_gates (s : State) (c : CoreId) (cls : FaultClass) (place : Place) (addr : Word) (cause : Nat) : (s.raise c cls place addr cause).gates = s.gates := rfl
@[simp] theorem raise_bucketsAt (s : State) (c : CoreId) (cls : FaultClass) (place : Place) (addr : Word) (cause : Nat) : (s.raise c cls place addr cause).bucketsAt = s.bucketsAt := rfl
@[simp] theorem raise_tokensAt (s : State) (c : CoreId) (cls : FaultClass) (place : Place) (addr : Word) (cause : Nat) : (s.raise c cls place addr cause).tokensAt = s.tokensAt := rfl
@[simp] theorem raise_slateLog (s : State) (c : CoreId) (cls : FaultClass) (place : Place) (addr : Word) (cause : Nat) : (s.raise c cls place addr cause).slateLog = s.slateLog := rfl
@[simp] theorem raise_reconf (s : State) (c : CoreId) (cls : FaultClass) (place : Place) (addr : Word) (cause : Nat) : (s.raise c cls place addr cause).reconf = s.reconf := rfl
@[simp] theorem raise_reply (s : State) (c : CoreId) (cls : FaultClass) (place : Place) (addr : Word) (cause : Nat) : (s.raise c cls place addr cause).reply = s.reply := rfl
@[simp] theorem raise_boot (s : State) (c : CoreId) (cls : FaultClass) (place : Place) (addr : Word) (cause : Nat) : (s.raise c cls place addr cause).boot = s.boot := rfl
@[simp] theorem raise_slewAt (s : State) (c : CoreId) (cls : FaultClass) (place : Place) (addr : Word) (cause : Nat) : (s.raise c cls place addr cause).slewAt = s.slewAt := rfl
@[simp] theorem raise_telemetryAt (s : State) (c : CoreId) (cls : FaultClass) (place : Place) (addr : Word) (cause : Nat) : (s.raise c cls place addr cause).telemetryAt = s.telemetryAt := rfl
@[simp] theorem raise_tlb (s : State) (c : CoreId) (cls : FaultClass) (place : Place) (addr : Word) (cause : Nat) : (s.raise c cls place addr cause).tlb = s.tlb := rfl
@[simp] theorem raise_gone (s : State) (c : CoreId) (cls : FaultClass) (place : Place) (addr : Word) (cause : Nat) : (s.raise c cls place addr cause).gone = s.gone := rfl
@[simp] theorem raise_back (s : State) (c : CoreId) (cls : FaultClass) (place : Place) (addr : Word) (cause : Nat) : (s.raise c cls place addr cause).back = s.back := rfl
@[simp] theorem raise_idle (s : State) (c : CoreId) (cls : FaultClass) (place : Place) (addr : Word) (cause : Nat) : (s.raise c cls place addr cause).idle = s.idle := rfl
@[simp] theorem raise_pkg (s : State) (c : CoreId) (cls : FaultClass) (place : Place) (addr : Word) (cause : Nat) : (s.raise c cls place addr cause).pkg = s.pkg := rfl
@[simp] theorem raise_domain (s : State) (c : CoreId) (cls : FaultClass) (place : Place) (addr : Word) (cause : Nat) : (s.raise c cls place addr cause).domain = s.domain := rfl
@[simp] theorem raise_cxl (s : State) (c : CoreId) (cls : FaultClass) (place : Place) (addr : Word) (cause : Nat) : (s.raise c cls place addr cause).cxl = s.cxl := rfl
@[simp] theorem raise_memPoison (s : State) (c : CoreId) (cls : FaultClass) (place : Place) (addr : Word) (cause : Nat) : (s.raise c cls place addr cause).memPoison = s.memPoison := rfl
@[simp] theorem raise_firewall (s : State) (c : CoreId) (cls : FaultClass) (place : Place) (addr : Word) (cause : Nat) : (s.raise c cls place addr cause).firewall = s.firewall := rfl
@[simp] theorem raise_translator (s : State) (c : CoreId) (cls : FaultClass) (place : Place) (addr : Word) (cause : Nat) : (s.raise c cls place addr cause).translator = s.translator := rfl
@[simp] theorem raise_turn (s : State) (c : CoreId) (cls : FaultClass) (place : Place) (addr : Word) (cause : Nat) : (s.raise c cls place addr cause).turn = s.turn := rfl
@[simp] theorem raise_agenda (s : State) (c : CoreId) (cls : FaultClass) (place : Place) (addr : Word) (cause : Nat) : (s.raise c cls place addr cause).agenda = s.agenda := rfl
@[simp] theorem raise_fresh (s : State) (c : CoreId) (cls : FaultClass) (place : Place) (addr : Word) (cause : Nat) : (s.raise c cls place addr cause).fresh = s.fresh := rfl
@[simp] theorem onVf_time (s : State) (v : Fin 16) (f : Vf → Vf) : (s.onVf v f).time = s.time := rfl
@[simp] theorem onVf_cores (s : State) (v : Fin 16) (f : Vf → Vf) : (s.onVf v f).cores = s.cores := rfl
@[simp] theorem onVf_mem (s : State) (v : Fin 16) (f : Vf → Vf) : (s.onVf v f).mem = s.mem := rfl
@[simp] theorem onVf_stash (s : State) (v : Fin 16) (f : Vf → Vf) : (s.onVf v f).stash = s.stash := rfl
@[simp] theorem onVf_near (s : State) (v : Fin 16) (f : Vf → Vf) : (s.onVf v f).near = s.near := rfl
@[simp] theorem onVf_stale (s : State) (v : Fin 16) (f : Vf → Vf) : (s.onVf v f).stale = s.stale := rfl
@[simp] theorem onVf_groups (s : State) (v : Fin 16) (f : Vf → Vf) : (s.onVf v f).groups = s.groups := rfl
@[simp] theorem onVf_pendingFaults (s : State) (v : Fin 16) (f : Vf → Vf) : (s.onVf v f).pendingFaults = s.pendingFaults := rfl
@[simp] theorem onVf_amber (s : State) (v : Fin 16) (f : Vf → Vf) : (s.onVf v f).amber = s.amber := rfl
@[simp] theorem onVf_governor (s : State) (v : Fin 16) (f : Vf → Vf) : (s.onVf v f).governor = s.governor := rfl
@[simp] theorem onVf_reserve (s : State) (v : Fin 16) (f : Vf → Vf) : (s.onVf v f).reserve = s.reserve := rfl
@[simp] theorem onVf_pools (s : State) (v : Fin 16) (f : Vf → Vf) : (s.onVf v f).pools = s.pools := rfl
@[simp] theorem onVf_links (s : State) (v : Fin 16) (f : Vf → Vf) : (s.onVf v f).links = s.links := rfl
@[simp] theorem onVf_vecTrade (s : State) (v : Fin 16) (f : Vf → Vf) : (s.onVf v f).vecTrade = s.vecTrade := rfl
@[simp] theorem onVf_rampUp (s : State) (v : Fin 16) (f : Vf → Vf) : (s.onVf v f).rampUp = s.rampUp := rfl
@[simp] theorem onVf_rampDown (s : State) (v : Fin 16) (f : Vf → Vf) : (s.onVf v f).rampDown = s.rampDown := rfl
@[simp] theorem onVf_slewLog (s : State) (v : Fin 16) (f : Vf → Vf) : (s.onVf v f).slewLog = s.slewLog := rfl
@[simp] theorem onVf_parts (s : State) (v : Fin 16) (f : Vf → Vf) : (s.onVf v f).parts = s.parts := rfl
@[simp] theorem onVf_launches (s : State) (v : Fin 16) (f : Vf → Vf) : (s.onVf v f).launches = s.launches := rfl
@[simp] theorem onVf_nextLaunch (s : State) (v : Fin 16) (f : Vf → Vf) : (s.onVf v f).nextLaunch = s.nextLaunch := rfl
@[simp] theorem onVf_host (s : State) (v : Fin 16) (f : Vf → Vf) : (s.onVf v f).host = s.host := rfl
@[simp] theorem onVf_gates (s : State) (v : Fin 16) (f : Vf → Vf) : (s.onVf v f).gates = s.gates := rfl
@[simp] theorem onVf_bucketsAt (s : State) (v : Fin 16) (f : Vf → Vf) : (s.onVf v f).bucketsAt = s.bucketsAt := rfl
@[simp] theorem onVf_tokensAt (s : State) (v : Fin 16) (f : Vf → Vf) : (s.onVf v f).tokensAt = s.tokensAt := rfl
@[simp] theorem onVf_slateLog (s : State) (v : Fin 16) (f : Vf → Vf) : (s.onVf v f).slateLog = s.slateLog := rfl
@[simp] theorem onVf_reconf (s : State) (v : Fin 16) (f : Vf → Vf) : (s.onVf v f).reconf = s.reconf := rfl
@[simp] theorem onVf_reply (s : State) (v : Fin 16) (f : Vf → Vf) : (s.onVf v f).reply = s.reply := rfl
@[simp] theorem onVf_boot (s : State) (v : Fin 16) (f : Vf → Vf) : (s.onVf v f).boot = s.boot := rfl
@[simp] theorem onVf_slewAt (s : State) (v : Fin 16) (f : Vf → Vf) : (s.onVf v f).slewAt = s.slewAt := rfl
@[simp] theorem onVf_telemetryAt (s : State) (v : Fin 16) (f : Vf → Vf) : (s.onVf v f).telemetryAt = s.telemetryAt := rfl
@[simp] theorem onVf_tlb (s : State) (v : Fin 16) (f : Vf → Vf) : (s.onVf v f).tlb = s.tlb := rfl
@[simp] theorem onVf_gone (s : State) (v : Fin 16) (f : Vf → Vf) : (s.onVf v f).gone = s.gone := rfl
@[simp] theorem onVf_back (s : State) (v : Fin 16) (f : Vf → Vf) : (s.onVf v f).back = s.back := rfl
@[simp] theorem onVf_idle (s : State) (v : Fin 16) (f : Vf → Vf) : (s.onVf v f).idle = s.idle := rfl
@[simp] theorem onVf_pkg (s : State) (v : Fin 16) (f : Vf → Vf) : (s.onVf v f).pkg = s.pkg := rfl
@[simp] theorem onVf_domain (s : State) (v : Fin 16) (f : Vf → Vf) : (s.onVf v f).domain = s.domain := rfl
@[simp] theorem onVf_cxl (s : State) (v : Fin 16) (f : Vf → Vf) : (s.onVf v f).cxl = s.cxl := rfl
@[simp] theorem onVf_memPoison (s : State) (v : Fin 16) (f : Vf → Vf) : (s.onVf v f).memPoison = s.memPoison := rfl
@[simp] theorem onVf_firewall (s : State) (v : Fin 16) (f : Vf → Vf) : (s.onVf v f).firewall = s.firewall := rfl
@[simp] theorem onVf_translator (s : State) (v : Fin 16) (f : Vf → Vf) : (s.onVf v f).translator = s.translator := rfl
@[simp] theorem onVf_turn (s : State) (v : Fin 16) (f : Vf → Vf) : (s.onVf v f).turn = s.turn := rfl
@[simp] theorem onVf_agenda (s : State) (v : Fin 16) (f : Vf → Vf) : (s.onVf v f).agenda = s.agenda := rfl
@[simp] theorem onVf_fresh (s : State) (v : Fin 16) (f : Vf → Vf) : (s.onVf v f).fresh = s.fresh := rfl
@[simp] theorem logOnly_time (s : State) (d : Detected) : (s.logOnly d).time = s.time := by unfold State.logOnly; dsimp only; split <;> rfl
@[simp] theorem logOnly_cores (s : State) (d : Detected) : (s.logOnly d).cores = s.cores := by unfold State.logOnly; dsimp only; split <;> rfl
@[simp] theorem logOnly_mem (s : State) (d : Detected) : (s.logOnly d).mem = s.mem := by unfold State.logOnly; dsimp only; split <;> rfl
@[simp] theorem logOnly_stash (s : State) (d : Detected) : (s.logOnly d).stash = s.stash := by unfold State.logOnly; dsimp only; split <;> rfl
@[simp] theorem logOnly_near (s : State) (d : Detected) : (s.logOnly d).near = s.near := by unfold State.logOnly; dsimp only; split <;> rfl
@[simp] theorem logOnly_stale (s : State) (d : Detected) : (s.logOnly d).stale = s.stale := by unfold State.logOnly; dsimp only; split <;> rfl
@[simp] theorem logOnly_groups (s : State) (d : Detected) : (s.logOnly d).groups = s.groups := by unfold State.logOnly; dsimp only; split <;> rfl
@[simp] theorem logOnly_pendingFaults (s : State) (d : Detected) : (s.logOnly d).pendingFaults = s.pendingFaults := by unfold State.logOnly; dsimp only; split <;> rfl
@[simp] theorem logOnly_amber (s : State) (d : Detected) : (s.logOnly d).amber = s.amber := by unfold State.logOnly; dsimp only; split <;> rfl
@[simp] theorem logOnly_governor (s : State) (d : Detected) : (s.logOnly d).governor = s.governor := by unfold State.logOnly; dsimp only; split <;> rfl
@[simp] theorem logOnly_reserve (s : State) (d : Detected) : (s.logOnly d).reserve = s.reserve := by unfold State.logOnly; dsimp only; split <;> rfl
@[simp] theorem logOnly_pools (s : State) (d : Detected) : (s.logOnly d).pools = s.pools := by unfold State.logOnly; dsimp only; split <;> rfl
@[simp] theorem logOnly_links (s : State) (d : Detected) : (s.logOnly d).links = s.links := by unfold State.logOnly; dsimp only; split <;> rfl
@[simp] theorem logOnly_vecTrade (s : State) (d : Detected) : (s.logOnly d).vecTrade = s.vecTrade := by unfold State.logOnly; dsimp only; split <;> rfl
@[simp] theorem logOnly_rampUp (s : State) (d : Detected) : (s.logOnly d).rampUp = s.rampUp := by unfold State.logOnly; dsimp only; split <;> rfl
@[simp] theorem logOnly_rampDown (s : State) (d : Detected) : (s.logOnly d).rampDown = s.rampDown := by unfold State.logOnly; dsimp only; split <;> rfl
@[simp] theorem logOnly_slewLog (s : State) (d : Detected) : (s.logOnly d).slewLog = s.slewLog := by unfold State.logOnly; dsimp only; split <;> rfl
@[simp] theorem logOnly_parts (s : State) (d : Detected) : (s.logOnly d).parts = s.parts := by unfold State.logOnly; dsimp only; split <;> rfl
@[simp] theorem logOnly_launches (s : State) (d : Detected) : (s.logOnly d).launches = s.launches := by unfold State.logOnly; dsimp only; split <;> rfl
@[simp] theorem logOnly_nextLaunch (s : State) (d : Detected) : (s.logOnly d).nextLaunch = s.nextLaunch := by unfold State.logOnly; dsimp only; split <;> rfl
@[simp] theorem logOnly_host (s : State) (d : Detected) : (s.logOnly d).host = s.host := by unfold State.logOnly; dsimp only; split <;> rfl
@[simp] theorem logOnly_gates (s : State) (d : Detected) : (s.logOnly d).gates = s.gates := by unfold State.logOnly; dsimp only; split <;> rfl
@[simp] theorem logOnly_bucketsAt (s : State) (d : Detected) : (s.logOnly d).bucketsAt = s.bucketsAt := by unfold State.logOnly; dsimp only; split <;> rfl
@[simp] theorem logOnly_tokensAt (s : State) (d : Detected) : (s.logOnly d).tokensAt = s.tokensAt := by unfold State.logOnly; dsimp only; split <;> rfl
@[simp] theorem logOnly_reconf (s : State) (d : Detected) : (s.logOnly d).reconf = s.reconf := by unfold State.logOnly; dsimp only; split <;> rfl
@[simp] theorem logOnly_reply (s : State) (d : Detected) : (s.logOnly d).reply = s.reply := by unfold State.logOnly; dsimp only; split <;> rfl
@[simp] theorem logOnly_boot (s : State) (d : Detected) : (s.logOnly d).boot = s.boot := by unfold State.logOnly; dsimp only; split <;> rfl
@[simp] theorem logOnly_slewAt (s : State) (d : Detected) : (s.logOnly d).slewAt = s.slewAt := by unfold State.logOnly; dsimp only; split <;> rfl
@[simp] theorem logOnly_telemetryAt (s : State) (d : Detected) : (s.logOnly d).telemetryAt = s.telemetryAt := by unfold State.logOnly; dsimp only; split <;> rfl
@[simp] theorem logOnly_tlb (s : State) (d : Detected) : (s.logOnly d).tlb = s.tlb := by unfold State.logOnly; dsimp only; split <;> rfl
@[simp] theorem logOnly_gone (s : State) (d : Detected) : (s.logOnly d).gone = s.gone := by unfold State.logOnly; dsimp only; split <;> rfl
@[simp] theorem logOnly_back (s : State) (d : Detected) : (s.logOnly d).back = s.back := by unfold State.logOnly; dsimp only; split <;> rfl
@[simp] theorem logOnly_idle (s : State) (d : Detected) : (s.logOnly d).idle = s.idle := by unfold State.logOnly; dsimp only; split <;> rfl
@[simp] theorem logOnly_pkg (s : State) (d : Detected) : (s.logOnly d).pkg = s.pkg := by unfold State.logOnly; dsimp only; split <;> rfl
@[simp] theorem logOnly_domain (s : State) (d : Detected) : (s.logOnly d).domain = s.domain := by unfold State.logOnly; dsimp only; split <;> rfl
@[simp] theorem logOnly_cxl (s : State) (d : Detected) : (s.logOnly d).cxl = s.cxl := by unfold State.logOnly; dsimp only; split <;> rfl
@[simp] theorem logOnly_memPoison (s : State) (d : Detected) : (s.logOnly d).memPoison = s.memPoison := by unfold State.logOnly; dsimp only; split <;> rfl
@[simp] theorem logOnly_firewall (s : State) (d : Detected) : (s.logOnly d).firewall = s.firewall := by unfold State.logOnly; dsimp only; split <;> rfl
@[simp] theorem logOnly_translator (s : State) (d : Detected) : (s.logOnly d).translator = s.translator := by unfold State.logOnly; dsimp only; split <;> rfl
@[simp] theorem logOnly_turn (s : State) (d : Detected) : (s.logOnly d).turn = s.turn := by unfold State.logOnly; dsimp only; split <;> rfl
@[simp] theorem logOnly_agenda (s : State) (d : Detected) : (s.logOnly d).agenda = s.agenda := by unfold State.logOnly; dsimp only; split <;> rfl
@[simp] theorem logOnly_fresh (s : State) (d : Detected) : (s.logOnly d).fresh = s.fresh := by unfold State.logOnly; dsimp only; split <;> rfl
@[simp] theorem noteRefused_time (s : State) (c : CoreId) (t : Trap) : (s.noteRefused c t).time = s.time := by unfold State.noteRefused State.logRefusal; split <;> simp
@[simp] theorem noteRefused_cores (s : State) (c : CoreId) (t : Trap) : (s.noteRefused c t).cores = s.cores := by unfold State.noteRefused State.logRefusal; split <;> simp
@[simp] theorem noteRefused_mem (s : State) (c : CoreId) (t : Trap) : (s.noteRefused c t).mem = s.mem := by unfold State.noteRefused State.logRefusal; split <;> simp
@[simp] theorem noteRefused_stash (s : State) (c : CoreId) (t : Trap) : (s.noteRefused c t).stash = s.stash := by unfold State.noteRefused State.logRefusal; split <;> simp
@[simp] theorem noteRefused_near (s : State) (c : CoreId) (t : Trap) : (s.noteRefused c t).near = s.near := by unfold State.noteRefused State.logRefusal; split <;> simp
@[simp] theorem noteRefused_stale (s : State) (c : CoreId) (t : Trap) : (s.noteRefused c t).stale = s.stale := by unfold State.noteRefused State.logRefusal; split <;> simp
@[simp] theorem noteRefused_groups (s : State) (c : CoreId) (t : Trap) : (s.noteRefused c t).groups = s.groups := by unfold State.noteRefused State.logRefusal; split <;> simp
@[simp] theorem noteRefused_pendingFaults (s : State) (c : CoreId) (t : Trap) : (s.noteRefused c t).pendingFaults = s.pendingFaults := by unfold State.noteRefused State.logRefusal; split <;> simp
@[simp] theorem noteRefused_amber (s : State) (c : CoreId) (t : Trap) : (s.noteRefused c t).amber = s.amber := by unfold State.noteRefused State.logRefusal; split <;> simp
@[simp] theorem noteRefused_governor (s : State) (c : CoreId) (t : Trap) : (s.noteRefused c t).governor = s.governor := by unfold State.noteRefused State.logRefusal; split <;> simp
@[simp] theorem noteRefused_reserve (s : State) (c : CoreId) (t : Trap) : (s.noteRefused c t).reserve = s.reserve := by unfold State.noteRefused State.logRefusal; split <;> simp
@[simp] theorem noteRefused_pools (s : State) (c : CoreId) (t : Trap) : (s.noteRefused c t).pools = s.pools := by unfold State.noteRefused State.logRefusal; split <;> simp
@[simp] theorem noteRefused_links (s : State) (c : CoreId) (t : Trap) : (s.noteRefused c t).links = s.links := by unfold State.noteRefused State.logRefusal; split <;> simp
@[simp] theorem noteRefused_vecTrade (s : State) (c : CoreId) (t : Trap) : (s.noteRefused c t).vecTrade = s.vecTrade := by unfold State.noteRefused State.logRefusal; split <;> simp
@[simp] theorem noteRefused_rampUp (s : State) (c : CoreId) (t : Trap) : (s.noteRefused c t).rampUp = s.rampUp := by unfold State.noteRefused State.logRefusal; split <;> simp
@[simp] theorem noteRefused_rampDown (s : State) (c : CoreId) (t : Trap) : (s.noteRefused c t).rampDown = s.rampDown := by unfold State.noteRefused State.logRefusal; split <;> simp
@[simp] theorem noteRefused_slewLog (s : State) (c : CoreId) (t : Trap) : (s.noteRefused c t).slewLog = s.slewLog := by unfold State.noteRefused State.logRefusal; split <;> simp
@[simp] theorem noteRefused_parts (s : State) (c : CoreId) (t : Trap) : (s.noteRefused c t).parts = s.parts := by unfold State.noteRefused State.logRefusal; split <;> simp
@[simp] theorem noteRefused_launches (s : State) (c : CoreId) (t : Trap) : (s.noteRefused c t).launches = s.launches := by unfold State.noteRefused State.logRefusal; split <;> simp
@[simp] theorem noteRefused_nextLaunch (s : State) (c : CoreId) (t : Trap) : (s.noteRefused c t).nextLaunch = s.nextLaunch := by unfold State.noteRefused State.logRefusal; split <;> simp
@[simp] theorem noteRefused_host (s : State) (c : CoreId) (t : Trap) : (s.noteRefused c t).host = s.host := by unfold State.noteRefused State.logRefusal; split <;> simp
@[simp] theorem noteRefused_gates (s : State) (c : CoreId) (t : Trap) : (s.noteRefused c t).gates = s.gates := by unfold State.noteRefused State.logRefusal; split <;> simp
@[simp] theorem noteRefused_bucketsAt (s : State) (c : CoreId) (t : Trap) : (s.noteRefused c t).bucketsAt = s.bucketsAt := by unfold State.noteRefused State.logRefusal; split <;> simp
@[simp] theorem noteRefused_tokensAt (s : State) (c : CoreId) (t : Trap) : (s.noteRefused c t).tokensAt = s.tokensAt := by unfold State.noteRefused State.logRefusal; split <;> simp
@[simp] theorem noteRefused_reconf (s : State) (c : CoreId) (t : Trap) : (s.noteRefused c t).reconf = s.reconf := by unfold State.noteRefused State.logRefusal; split <;> simp
@[simp] theorem noteRefused_reply (s : State) (c : CoreId) (t : Trap) : (s.noteRefused c t).reply = s.reply := by unfold State.noteRefused State.logRefusal; split <;> simp
@[simp] theorem noteRefused_boot (s : State) (c : CoreId) (t : Trap) : (s.noteRefused c t).boot = s.boot := by unfold State.noteRefused State.logRefusal; split <;> simp
@[simp] theorem noteRefused_slewAt (s : State) (c : CoreId) (t : Trap) : (s.noteRefused c t).slewAt = s.slewAt := by unfold State.noteRefused State.logRefusal; split <;> simp
@[simp] theorem noteRefused_telemetryAt (s : State) (c : CoreId) (t : Trap) : (s.noteRefused c t).telemetryAt = s.telemetryAt := by unfold State.noteRefused State.logRefusal; split <;> simp
@[simp] theorem noteRefused_tlb (s : State) (c : CoreId) (t : Trap) : (s.noteRefused c t).tlb = s.tlb := by unfold State.noteRefused State.logRefusal; split <;> simp
@[simp] theorem noteRefused_gone (s : State) (c : CoreId) (t : Trap) : (s.noteRefused c t).gone = s.gone := by unfold State.noteRefused State.logRefusal; split <;> simp
@[simp] theorem noteRefused_back (s : State) (c : CoreId) (t : Trap) : (s.noteRefused c t).back = s.back := by unfold State.noteRefused State.logRefusal; split <;> simp
@[simp] theorem noteRefused_idle (s : State) (c : CoreId) (t : Trap) : (s.noteRefused c t).idle = s.idle := by unfold State.noteRefused State.logRefusal; split <;> simp
@[simp] theorem noteRefused_pkg (s : State) (c : CoreId) (t : Trap) : (s.noteRefused c t).pkg = s.pkg := by unfold State.noteRefused State.logRefusal; split <;> simp
@[simp] theorem noteRefused_domain (s : State) (c : CoreId) (t : Trap) : (s.noteRefused c t).domain = s.domain := by unfold State.noteRefused State.logRefusal; split <;> simp
@[simp] theorem noteRefused_cxl (s : State) (c : CoreId) (t : Trap) : (s.noteRefused c t).cxl = s.cxl := by unfold State.noteRefused State.logRefusal; split <;> simp
@[simp] theorem noteRefused_memPoison (s : State) (c : CoreId) (t : Trap) : (s.noteRefused c t).memPoison = s.memPoison := by unfold State.noteRefused State.logRefusal; split <;> simp
@[simp] theorem noteRefused_firewall (s : State) (c : CoreId) (t : Trap) : (s.noteRefused c t).firewall = s.firewall := by unfold State.noteRefused State.logRefusal; split <;> simp
@[simp] theorem noteRefused_translator (s : State) (c : CoreId) (t : Trap) : (s.noteRefused c t).translator = s.translator := by unfold State.noteRefused State.logRefusal; split <;> simp
@[simp] theorem noteRefused_turn (s : State) (c : CoreId) (t : Trap) : (s.noteRefused c t).turn = s.turn := by unfold State.noteRefused State.logRefusal; split <;> simp
@[simp] theorem noteRefused_agenda (s : State) (c : CoreId) (t : Trap) : (s.noteRefused c t).agenda = s.agenda := by unfold State.noteRefused State.logRefusal; split <;> simp
@[simp] theorem noteRefused_fresh (s : State) (c : CoreId) (t : Trap) : (s.noteRefused c t).fresh = s.fresh := by unfold State.noteRefused State.logRefusal; split <;> simp
@[simp] theorem logOnly_core (s : State) (d : Detected) (c : CoreId) : (s.logOnly d).core c = s.core c := by simp [State.core]
@[simp] theorem noteRefused_core (s : State) (c e : CoreId) (t : Trap) : (s.noteRefused c t).core e = s.core e := by simp [State.core]
theorem noteRefused_other (s : State) (c : CoreId) {t : Trap} (h : t.cause ≠ .gateerr) : s.noteRefused c t = s := by unfold State.noteRefused; simp [h]
@[simp] theorem onPart_time (s : State) (i : Nat) (f : Part → Part) : (s.onPart i f).time = s.time := by unfold State.onPart; split <;> rfl
@[simp] theorem onPart_cores (s : State) (i : Nat) (f : Part → Part) : (s.onPart i f).cores = s.cores := by unfold State.onPart; split <;> rfl
@[simp] theorem onPart_mem (s : State) (i : Nat) (f : Part → Part) : (s.onPart i f).mem = s.mem := by unfold State.onPart; split <;> rfl
@[simp] theorem onPart_stash (s : State) (i : Nat) (f : Part → Part) : (s.onPart i f).stash = s.stash := by unfold State.onPart; split <;> rfl
@[simp] theorem onPart_near (s : State) (i : Nat) (f : Part → Part) : (s.onPart i f).near = s.near := by unfold State.onPart; split <;> rfl
@[simp] theorem onPart_stale (s : State) (i : Nat) (f : Part → Part) : (s.onPart i f).stale = s.stale := by unfold State.onPart; split <;> rfl
@[simp] theorem onPart_groups (s : State) (i : Nat) (f : Part → Part) : (s.onPart i f).groups = s.groups := by unfold State.onPart; split <;> rfl
@[simp] theorem onPart_pendingFaults (s : State) (i : Nat) (f : Part → Part) : (s.onPart i f).pendingFaults = s.pendingFaults := by unfold State.onPart; split <;> rfl
@[simp] theorem onPart_amber (s : State) (i : Nat) (f : Part → Part) : (s.onPart i f).amber = s.amber := by unfold State.onPart; split <;> rfl
@[simp] theorem onPart_governor (s : State) (i : Nat) (f : Part → Part) : (s.onPart i f).governor = s.governor := by unfold State.onPart; split <;> rfl
@[simp] theorem onPart_reserve (s : State) (i : Nat) (f : Part → Part) : (s.onPart i f).reserve = s.reserve := by unfold State.onPart; split <;> rfl
@[simp] theorem onPart_pools (s : State) (i : Nat) (f : Part → Part) : (s.onPart i f).pools = s.pools := by unfold State.onPart; split <;> rfl
@[simp] theorem onPart_links (s : State) (i : Nat) (f : Part → Part) : (s.onPart i f).links = s.links := by unfold State.onPart; split <;> rfl
@[simp] theorem onPart_vecTrade (s : State) (i : Nat) (f : Part → Part) : (s.onPart i f).vecTrade = s.vecTrade := by unfold State.onPart; split <;> rfl
@[simp] theorem onPart_rampUp (s : State) (i : Nat) (f : Part → Part) : (s.onPart i f).rampUp = s.rampUp := by unfold State.onPart; split <;> rfl
@[simp] theorem onPart_rampDown (s : State) (i : Nat) (f : Part → Part) : (s.onPart i f).rampDown = s.rampDown := by unfold State.onPart; split <;> rfl
@[simp] theorem onPart_slewLog (s : State) (i : Nat) (f : Part → Part) : (s.onPart i f).slewLog = s.slewLog := by unfold State.onPart; split <;> rfl
@[simp] theorem onPart_launches (s : State) (i : Nat) (f : Part → Part) : (s.onPart i f).launches = s.launches := by unfold State.onPart; split <;> rfl
@[simp] theorem onPart_nextLaunch (s : State) (i : Nat) (f : Part → Part) : (s.onPart i f).nextLaunch = s.nextLaunch := by unfold State.onPart; split <;> rfl
@[simp] theorem onPart_vfs (s : State) (i : Nat) (f : Part → Part) : (s.onPart i f).vfs = s.vfs := by unfold State.onPart; split <;> rfl
@[simp] theorem onPart_host (s : State) (i : Nat) (f : Part → Part) : (s.onPart i f).host = s.host := by unfold State.onPart; split <;> rfl
@[simp] theorem onPart_gates (s : State) (i : Nat) (f : Part → Part) : (s.onPart i f).gates = s.gates := by unfold State.onPart; split <;> rfl
@[simp] theorem onPart_bucketsAt (s : State) (i : Nat) (f : Part → Part) : (s.onPart i f).bucketsAt = s.bucketsAt := by unfold State.onPart; split <;> rfl
@[simp] theorem onPart_tokensAt (s : State) (i : Nat) (f : Part → Part) : (s.onPart i f).tokensAt = s.tokensAt := by unfold State.onPart; split <;> rfl
@[simp] theorem onPart_slateLog (s : State) (i : Nat) (f : Part → Part) : (s.onPart i f).slateLog = s.slateLog := by unfold State.onPart; split <;> rfl
@[simp] theorem onPart_reconf (s : State) (i : Nat) (f : Part → Part) : (s.onPart i f).reconf = s.reconf := by unfold State.onPart; split <;> rfl
@[simp] theorem onPart_reply (s : State) (i : Nat) (f : Part → Part) : (s.onPart i f).reply = s.reply := by unfold State.onPart; split <;> rfl
@[simp] theorem onPart_boot (s : State) (i : Nat) (f : Part → Part) : (s.onPart i f).boot = s.boot := by unfold State.onPart; split <;> rfl
@[simp] theorem onPart_slewAt (s : State) (i : Nat) (f : Part → Part) : (s.onPart i f).slewAt = s.slewAt := by unfold State.onPart; split <;> rfl
@[simp] theorem onPart_telemetryAt (s : State) (i : Nat) (f : Part → Part) : (s.onPart i f).telemetryAt = s.telemetryAt := by unfold State.onPart; split <;> rfl
@[simp] theorem onPart_tlb (s : State) (i : Nat) (f : Part → Part) : (s.onPart i f).tlb = s.tlb := by unfold State.onPart; split <;> rfl
@[simp] theorem onPart_gone (s : State) (i : Nat) (f : Part → Part) : (s.onPart i f).gone = s.gone := by unfold State.onPart; split <;> rfl
@[simp] theorem onPart_back (s : State) (i : Nat) (f : Part → Part) : (s.onPart i f).back = s.back := by unfold State.onPart; split <;> rfl
@[simp] theorem onPart_idle (s : State) (i : Nat) (f : Part → Part) : (s.onPart i f).idle = s.idle := by unfold State.onPart; split <;> rfl
@[simp] theorem onPart_pkg (s : State) (i : Nat) (f : Part → Part) : (s.onPart i f).pkg = s.pkg := by unfold State.onPart; split <;> rfl
@[simp] theorem onPart_domain (s : State) (i : Nat) (f : Part → Part) : (s.onPart i f).domain = s.domain := by unfold State.onPart; split <;> rfl
@[simp] theorem onPart_cxl (s : State) (i : Nat) (f : Part → Part) : (s.onPart i f).cxl = s.cxl := by unfold State.onPart; split <;> rfl
@[simp] theorem onPart_memPoison (s : State) (i : Nat) (f : Part → Part) : (s.onPart i f).memPoison = s.memPoison := by unfold State.onPart; split <;> rfl
@[simp] theorem onPart_firewall (s : State) (i : Nat) (f : Part → Part) : (s.onPart i f).firewall = s.firewall := by unfold State.onPart; split <;> rfl
@[simp] theorem onPart_translator (s : State) (i : Nat) (f : Part → Part) : (s.onPart i f).translator = s.translator := by unfold State.onPart; split <;> rfl
@[simp] theorem onPart_turn (s : State) (i : Nat) (f : Part → Part) : (s.onPart i f).turn = s.turn := by unfold State.onPart; split <;> rfl
@[simp] theorem onPart_agenda (s : State) (i : Nat) (f : Part → Part) : (s.onPart i f).agenda = s.agenda := by unfold State.onPart; split <;> rfl
@[simp] theorem onPart_fresh (s : State) (i : Nat) (f : Part → Part) : (s.onPart i f).fresh = s.fresh := by unfold State.onPart; split <;> rfl
@[simp] theorem tick_cores (s : State) : (s.tick).cores = s.cores := rfl
@[simp] theorem tick_mem (s : State) : (s.tick).mem = s.mem := rfl
@[simp] theorem tick_stash (s : State) : (s.tick).stash = s.stash := rfl
@[simp] theorem tick_near (s : State) : (s.tick).near = s.near := rfl
@[simp] theorem tick_stale (s : State) : (s.tick).stale = s.stale := rfl
@[simp] theorem tick_groups (s : State) : (s.tick).groups = s.groups := rfl
@[simp] theorem tick_pendingFaults (s : State) : (s.tick).pendingFaults = s.pendingFaults := rfl
@[simp] theorem tick_amber (s : State) : (s.tick).amber = s.amber := rfl
@[simp] theorem tick_governor (s : State) : (s.tick).governor = s.governor := rfl
@[simp] theorem tick_reserve (s : State) : (s.tick).reserve = s.reserve := rfl
@[simp] theorem tick_pools (s : State) : (s.tick).pools = s.pools := rfl
@[simp] theorem tick_links (s : State) : (s.tick).links = s.links := rfl
@[simp] theorem tick_vecTrade (s : State) : (s.tick).vecTrade = s.vecTrade := rfl
@[simp] theorem tick_rampUp (s : State) : (s.tick).rampUp = s.rampUp := rfl
@[simp] theorem tick_rampDown (s : State) : (s.tick).rampDown = s.rampDown := rfl
@[simp] theorem tick_slewLog (s : State) : (s.tick).slewLog = s.slewLog := rfl
@[simp] theorem tick_parts (s : State) : (s.tick).parts = s.parts := rfl
@[simp] theorem tick_launches (s : State) : (s.tick).launches = s.launches := rfl
@[simp] theorem tick_nextLaunch (s : State) : (s.tick).nextLaunch = s.nextLaunch := rfl
@[simp] theorem tick_vfs (s : State) : (s.tick).vfs = s.vfs := rfl
@[simp] theorem tick_host (s : State) : (s.tick).host = s.host := rfl
@[simp] theorem tick_gates (s : State) : (s.tick).gates = s.gates := rfl
@[simp] theorem tick_bucketsAt (s : State) : (s.tick).bucketsAt = s.bucketsAt := rfl
@[simp] theorem tick_tokensAt (s : State) : (s.tick).tokensAt = s.tokensAt := rfl
@[simp] theorem tick_slateLog (s : State) : (s.tick).slateLog = s.slateLog := rfl
@[simp] theorem tick_reconf (s : State) : (s.tick).reconf = s.reconf := rfl
@[simp] theorem tick_reply (s : State) : (s.tick).reply = s.reply := rfl
@[simp] theorem tick_slewAt (s : State) : (s.tick).slewAt = s.slewAt := rfl
@[simp] theorem tick_tlb (s : State) : (s.tick).tlb = s.tlb := rfl
@[simp] theorem tick_gone (s : State) : (s.tick).gone = s.gone := rfl
@[simp] theorem tick_back (s : State) : (s.tick).back = s.back := rfl
@[simp] theorem tick_idle (s : State) : (s.tick).idle = s.idle := rfl
@[simp] theorem tick_pkg (s : State) : (s.tick).pkg = s.pkg := rfl
@[simp] theorem tick_domain (s : State) : (s.tick).domain = s.domain := rfl
@[simp] theorem tick_cxl (s : State) : (s.tick).cxl = s.cxl := rfl
@[simp] theorem tick_memPoison (s : State) : (s.tick).memPoison = s.memPoison := rfl
@[simp] theorem tick_firewall (s : State) : (s.tick).firewall = s.firewall := rfl
@[simp] theorem tick_translator (s : State) : (s.tick).translator = s.translator := rfl
@[simp] theorem tick_turn (s : State) : (s.tick).turn = s.turn := rfl
@[simp] theorem tick_agenda (s : State) : (s.tick).agenda = s.agenda := rfl

/-! ### Registers of a core -/

@[simp] theorem setX_pc (a : Arch) (r : XReg) (w : Word) : (a.setX r w).pc = a.pc := by unfold Arch.setX; split <;> rfl
@[simp] theorem setX_p (a : Arch) (r : XReg) (w : Word) : (a.setX r w).p = a.p := by unfold Arch.setX; split <;> rfl
@[simp] theorem setX_v (a : Arch) (r : XReg) (w : Word) : (a.setX r w).v = a.v := by unfold Arch.setX; split <;> rfl
@[simp] theorem setX_live (a : Arch) (r : XReg) (w : Word) : (a.setX r w).live = a.live := by unfold Arch.setX; split <;> rfl
@[simp] theorem setX_q0 (a : Arch) (r : XReg) (w : Word) : (a.setX r w).q0 = a.q0 := by unfold Arch.setX; split <;> rfl
@[simp] theorem setX_q1 (a : Arch) (r : XReg) (w : Word) : (a.setX r w).q1 = a.q1 := by unfold Arch.setX; split <;> rfl
@[simp] theorem setX_q3 (a : Arch) (r : XReg) (w : Word) : (a.setX r w).q3 = a.q3 := by unfold Arch.setX; split <;> rfl
@[simp] theorem setX_q5 (a : Arch) (r : XReg) (w : Word) : (a.setX r w).q5 = a.q5 := by unfold Arch.setX; split <;> rfl
@[simp] theorem setX_q7 (a : Arch) (r : XReg) (w : Word) : (a.setX r w).q7 = a.q7 := by unfold Arch.setX; split <;> rfl
@[simp] theorem setX_spad (a : Arch) (r : XReg) (w : Word) : (a.setX r w).spad = a.spad := by unfold Arch.setX; split <;> rfl
@[simp] theorem setX_slog (a : Arch) (r : XReg) (w : Word) : (a.setX r w).slog = a.slog := by unfold Arch.setX; split <;> rfl
@[simp] theorem setX_owed (a : Arch) (r : XReg) (w : Word) : (a.setX r w).owed = a.owed := by unfold Arch.setX; split <;> rfl
@[simp] theorem setX_empties (a : Arch) (r : XReg) (w : Word) : (a.setX r w).empties = a.empties := by unfold Arch.setX; split <;> rfl
@[simp] theorem setX_loop0 (a : Arch) (r : XReg) (w : Word) : (a.setX r w).loop0 = a.loop0 := by unfold Arch.setX; split <;> rfl
@[simp] theorem setX_loop1 (a : Arch) (r : XReg) (w : Word) : (a.setX r w).loop1 = a.loop1 := by unfold Arch.setX; split <;> rfl
@[simp] theorem setX_tvec (a : Arch) (r : XReg) (w : Word) : (a.setX r w).tvec = a.tvec := by unfold Arch.setX; split <;> rfl
@[simp] theorem setX_tcause (a : Arch) (r : XReg) (w : Word) : (a.setX r w).tcause = a.tcause := by unfold Arch.setX; split <;> rfl
@[simp] theorem setX_tpc (a : Arch) (r : XReg) (w : Word) : (a.setX r w).tpc = a.tpc := by unfold Arch.setX; split <;> rfl
@[simp] theorem setX_tval (a : Arch) (r : XReg) (w : Word) : (a.setX r w).tval = a.tval := by unfold Arch.setX; split <;> rfl
@[simp] theorem setX_tsave (a : Arch) (r : XReg) (w : Word) : (a.setX r w).tsave = a.tsave := by unfold Arch.setX; split <;> rfl
@[simp] theorem setX_ids (a : Arch) (r : XReg) (w : Word) : (a.setX r w).ids = a.ids := by unfold Arch.setX; split <;> rfl
@[simp] theorem setX_shape (a : Arch) (r : XReg) (w : Word) : (a.setX r w).shape = a.shape := by unfold Arch.setX; split <;> rfl
@[simp] theorem setX_tmode (a : Arch) (r : XReg) (w : Word) : (a.setX r w).tmode = a.tmode := by unfold Arch.setX; split <;> rfl
@[simp] theorem setX_amax (a : Arch) (r : XReg) (w : Word) : (a.setX r w).amax = a.amax := by unfold Arch.setX; split <;> rfl
@[simp] theorem setX_amaxf (a : Arch) (r : XReg) (w : Word) : (a.setX r w).amaxf = a.amaxf := by unfold Arch.setX; split <;> rfl
@[simp] theorem setX_perm (a : Arch) (r : XReg) (w : Word) : (a.setX r w).perm = a.perm := by unfold Arch.setX; split <;> rfl
@[simp] theorem setX_permT (a : Arch) (r : XReg) (w : Word) : (a.setX r w).permT = a.permT := by unfold Arch.setX; split <;> rfl
@[simp] theorem setX_gang (a : Arch) (r : XReg) (w : Word) : (a.setX r w).gang = a.gang := by unfold Arch.setX; split <;> rfl
@[simp] theorem setX_accmode (a : Arch) (r : XReg) (w : Word) : (a.setX r w).accmode = a.accmode := by unfold Arch.setX; split <;> rfl
@[simp] theorem setX_bm (a : Arch) (r : XReg) (w : Word) : (a.setX r w).bm = a.bm := by unfold Arch.setX; split <;> rfl
@[simp] theorem setX_chcfg (a : Arch) (r : XReg) (w : Word) : (a.setX r w).chcfg = a.chcfg := by unfold Arch.setX; split <;> rfl
@[simp] theorem setX_stashCfg (a : Arch) (r : XReg) (w : Word) : (a.setX r w).stashCfg = a.stashCfg := by unfold Arch.setX; split <;> rfl
@[simp] theorem setX_sw (a : Arch) (r : XReg) (w : Word) : (a.setX r w).sw = a.sw := by unfold Arch.setX; split <;> rfl
@[simp] theorem setX_chunkLim (a : Arch) (r : XReg) (w : Word) : (a.setX r w).chunkLim = a.chunkLim := by unfold Arch.setX; split <;> rfl
@[simp] theorem setX_waitcfg (a : Arch) (r : XReg) (w : Word) : (a.setX r w).waitcfg = a.waitcfg := by unfold Arch.setX; split <;> rfl
@[simp] theorem setX_sparked (a : Arch) (r : XReg) (w : Word) : (a.setX r w).sparked = a.sparked := by unfold Arch.setX; split <;> rfl
@[simp] theorem setX_rings (a : Arch) (r : XReg) (w : Word) : (a.setX r w).rings = a.rings := by unfold Arch.setX; split <;> rfl
@[simp] theorem setX_tables (a : Arch) (r : XReg) (w : Word) : (a.setX r w).tables = a.tables := by unfold Arch.setX; split <;> rfl
@[simp] theorem setX_mark (a : Arch) (r : XReg) (w : Word) : (a.setX r w).mark = a.mark := by unfold Arch.setX; split <;> rfl
@[simp] theorem setX_views (a : Arch) (r : XReg) (w : Word) : (a.setX r w).views = a.views := by unfold Arch.setX; split <;> rfl
@[simp] theorem setX_gwrites (a : Arch) (r : XReg) (w : Word) : (a.setX r w).gwrites = a.gwrites := by unfold Arch.setX; split <;> rfl
@[simp] theorem setX_recent (a : Arch) (r : XReg) (w : Word) : (a.setX r w).recent = a.recent := by unfold Arch.setX; split <;> rfl
@[simp] theorem setX_pushes (a : Arch) (r : XReg) (w : Word) : (a.setX r w).pushes = a.pushes := by unfold Arch.setX; split <;> rfl
@[simp] theorem setX_redo (a : Arch) (r : XReg) (w : Word) : (a.setX r w).redo = a.redo := by unfold Arch.setX; split <;> rfl
@[simp] theorem setP_pc (a : Arch) (r : PReg) (n : Nat) : (a.setP r n).pc = a.pc := by unfold Arch.setP; split <;> rfl
@[simp] theorem setP_x (a : Arch) (r : PReg) (n : Nat) : (a.setP r n).x = a.x := by unfold Arch.setP; split <;> rfl
@[simp] theorem setP_v (a : Arch) (r : PReg) (n : Nat) : (a.setP r n).v = a.v := by unfold Arch.setP; split <;> rfl
@[simp] theorem setP_live (a : Arch) (r : PReg) (n : Nat) : (a.setP r n).live = a.live := by unfold Arch.setP; split <;> rfl
@[simp] theorem setP_q0 (a : Arch) (r : PReg) (n : Nat) : (a.setP r n).q0 = a.q0 := by unfold Arch.setP; split <;> rfl
@[simp] theorem setP_q1 (a : Arch) (r : PReg) (n : Nat) : (a.setP r n).q1 = a.q1 := by unfold Arch.setP; split <;> rfl
@[simp] theorem setP_q3 (a : Arch) (r : PReg) (n : Nat) : (a.setP r n).q3 = a.q3 := by unfold Arch.setP; split <;> rfl
@[simp] theorem setP_q5 (a : Arch) (r : PReg) (n : Nat) : (a.setP r n).q5 = a.q5 := by unfold Arch.setP; split <;> rfl
@[simp] theorem setP_q7 (a : Arch) (r : PReg) (n : Nat) : (a.setP r n).q7 = a.q7 := by unfold Arch.setP; split <;> rfl
@[simp] theorem setP_spad (a : Arch) (r : PReg) (n : Nat) : (a.setP r n).spad = a.spad := by unfold Arch.setP; split <;> rfl
@[simp] theorem setP_slog (a : Arch) (r : PReg) (n : Nat) : (a.setP r n).slog = a.slog := by unfold Arch.setP; split <;> rfl
@[simp] theorem setP_owed (a : Arch) (r : PReg) (n : Nat) : (a.setP r n).owed = a.owed := by unfold Arch.setP; split <;> rfl
@[simp] theorem setP_empties (a : Arch) (r : PReg) (n : Nat) : (a.setP r n).empties = a.empties := by unfold Arch.setP; split <;> rfl
@[simp] theorem setP_loop0 (a : Arch) (r : PReg) (n : Nat) : (a.setP r n).loop0 = a.loop0 := by unfold Arch.setP; split <;> rfl
@[simp] theorem setP_loop1 (a : Arch) (r : PReg) (n : Nat) : (a.setP r n).loop1 = a.loop1 := by unfold Arch.setP; split <;> rfl
@[simp] theorem setP_tvec (a : Arch) (r : PReg) (n : Nat) : (a.setP r n).tvec = a.tvec := by unfold Arch.setP; split <;> rfl
@[simp] theorem setP_tcause (a : Arch) (r : PReg) (n : Nat) : (a.setP r n).tcause = a.tcause := by unfold Arch.setP; split <;> rfl
@[simp] theorem setP_tpc (a : Arch) (r : PReg) (n : Nat) : (a.setP r n).tpc = a.tpc := by unfold Arch.setP; split <;> rfl
@[simp] theorem setP_tval (a : Arch) (r : PReg) (n : Nat) : (a.setP r n).tval = a.tval := by unfold Arch.setP; split <;> rfl
@[simp] theorem setP_tsave (a : Arch) (r : PReg) (n : Nat) : (a.setP r n).tsave = a.tsave := by unfold Arch.setP; split <;> rfl
@[simp] theorem setP_ids (a : Arch) (r : PReg) (n : Nat) : (a.setP r n).ids = a.ids := by unfold Arch.setP; split <;> rfl
@[simp] theorem setP_shape (a : Arch) (r : PReg) (n : Nat) : (a.setP r n).shape = a.shape := by unfold Arch.setP; split <;> rfl
@[simp] theorem setP_tmode (a : Arch) (r : PReg) (n : Nat) : (a.setP r n).tmode = a.tmode := by unfold Arch.setP; split <;> rfl
@[simp] theorem setP_amax (a : Arch) (r : PReg) (n : Nat) : (a.setP r n).amax = a.amax := by unfold Arch.setP; split <;> rfl
@[simp] theorem setP_amaxf (a : Arch) (r : PReg) (n : Nat) : (a.setP r n).amaxf = a.amaxf := by unfold Arch.setP; split <;> rfl
@[simp] theorem setP_perm (a : Arch) (r : PReg) (n : Nat) : (a.setP r n).perm = a.perm := by unfold Arch.setP; split <;> rfl
@[simp] theorem setP_permT (a : Arch) (r : PReg) (n : Nat) : (a.setP r n).permT = a.permT := by unfold Arch.setP; split <;> rfl
@[simp] theorem setP_gang (a : Arch) (r : PReg) (n : Nat) : (a.setP r n).gang = a.gang := by unfold Arch.setP; split <;> rfl
@[simp] theorem setP_accmode (a : Arch) (r : PReg) (n : Nat) : (a.setP r n).accmode = a.accmode := by unfold Arch.setP; split <;> rfl
@[simp] theorem setP_bm (a : Arch) (r : PReg) (n : Nat) : (a.setP r n).bm = a.bm := by unfold Arch.setP; split <;> rfl
@[simp] theorem setP_chcfg (a : Arch) (r : PReg) (n : Nat) : (a.setP r n).chcfg = a.chcfg := by unfold Arch.setP; split <;> rfl
@[simp] theorem setP_stashCfg (a : Arch) (r : PReg) (n : Nat) : (a.setP r n).stashCfg = a.stashCfg := by unfold Arch.setP; split <;> rfl
@[simp] theorem setP_sw (a : Arch) (r : PReg) (n : Nat) : (a.setP r n).sw = a.sw := by unfold Arch.setP; split <;> rfl
@[simp] theorem setP_chunkLim (a : Arch) (r : PReg) (n : Nat) : (a.setP r n).chunkLim = a.chunkLim := by unfold Arch.setP; split <;> rfl
@[simp] theorem setP_waitcfg (a : Arch) (r : PReg) (n : Nat) : (a.setP r n).waitcfg = a.waitcfg := by unfold Arch.setP; split <;> rfl
@[simp] theorem setP_sparked (a : Arch) (r : PReg) (n : Nat) : (a.setP r n).sparked = a.sparked := by unfold Arch.setP; split <;> rfl
@[simp] theorem setP_rings (a : Arch) (r : PReg) (n : Nat) : (a.setP r n).rings = a.rings := by unfold Arch.setP; split <;> rfl
@[simp] theorem setP_tables (a : Arch) (r : PReg) (n : Nat) : (a.setP r n).tables = a.tables := by unfold Arch.setP; split <;> rfl
@[simp] theorem setP_mark (a : Arch) (r : PReg) (n : Nat) : (a.setP r n).mark = a.mark := by unfold Arch.setP; split <;> rfl
@[simp] theorem setP_views (a : Arch) (r : PReg) (n : Nat) : (a.setP r n).views = a.views := by unfold Arch.setP; split <;> rfl
@[simp] theorem setP_gwrites (a : Arch) (r : PReg) (n : Nat) : (a.setP r n).gwrites = a.gwrites := by unfold Arch.setP; split <;> rfl
@[simp] theorem setP_recent (a : Arch) (r : PReg) (n : Nat) : (a.setP r n).recent = a.recent := by unfold Arch.setP; split <;> rfl
@[simp] theorem setP_pushes (a : Arch) (r : PReg) (n : Nat) : (a.setP r n).pushes = a.pushes := by unfold Arch.setP; split <;> rfl
@[simp] theorem setP_redo (a : Arch) (r : PReg) (n : Nat) : (a.setP r n).redo = a.redo := by unfold Arch.setP; split <;> rfl
@[simp] theorem setLive_pc (a : Arch) (r : VReg) (b : Bool) : (a.setLive r b).pc = a.pc := rfl
@[simp] theorem setLive_x (a : Arch) (r : VReg) (b : Bool) : (a.setLive r b).x = a.x := rfl
@[simp] theorem setLive_p (a : Arch) (r : VReg) (b : Bool) : (a.setLive r b).p = a.p := rfl
@[simp] theorem setLive_v (a : Arch) (r : VReg) (b : Bool) : (a.setLive r b).v = a.v := rfl
@[simp] theorem setLive_q0 (a : Arch) (r : VReg) (b : Bool) : (a.setLive r b).q0 = a.q0 := rfl
@[simp] theorem setLive_q1 (a : Arch) (r : VReg) (b : Bool) : (a.setLive r b).q1 = a.q1 := rfl
@[simp] theorem setLive_q3 (a : Arch) (r : VReg) (b : Bool) : (a.setLive r b).q3 = a.q3 := rfl
@[simp] theorem setLive_q5 (a : Arch) (r : VReg) (b : Bool) : (a.setLive r b).q5 = a.q5 := rfl
@[simp] theorem setLive_q7 (a : Arch) (r : VReg) (b : Bool) : (a.setLive r b).q7 = a.q7 := rfl
@[simp] theorem setLive_spad (a : Arch) (r : VReg) (b : Bool) : (a.setLive r b).spad = a.spad := rfl
@[simp] theorem setLive_slog (a : Arch) (r : VReg) (b : Bool) : (a.setLive r b).slog = a.slog := rfl
@[simp] theorem setLive_owed (a : Arch) (r : VReg) (b : Bool) : (a.setLive r b).owed = a.owed := rfl
@[simp] theorem setLive_empties (a : Arch) (r : VReg) (b : Bool) : (a.setLive r b).empties = a.empties := rfl
@[simp] theorem setLive_loop0 (a : Arch) (r : VReg) (b : Bool) : (a.setLive r b).loop0 = a.loop0 := rfl
@[simp] theorem setLive_loop1 (a : Arch) (r : VReg) (b : Bool) : (a.setLive r b).loop1 = a.loop1 := rfl
@[simp] theorem setLive_tvec (a : Arch) (r : VReg) (b : Bool) : (a.setLive r b).tvec = a.tvec := rfl
@[simp] theorem setLive_tcause (a : Arch) (r : VReg) (b : Bool) : (a.setLive r b).tcause = a.tcause := rfl
@[simp] theorem setLive_tpc (a : Arch) (r : VReg) (b : Bool) : (a.setLive r b).tpc = a.tpc := rfl
@[simp] theorem setLive_tval (a : Arch) (r : VReg) (b : Bool) : (a.setLive r b).tval = a.tval := rfl
@[simp] theorem setLive_tsave (a : Arch) (r : VReg) (b : Bool) : (a.setLive r b).tsave = a.tsave := rfl
@[simp] theorem setLive_ids (a : Arch) (r : VReg) (b : Bool) : (a.setLive r b).ids = a.ids := rfl
@[simp] theorem setLive_shape (a : Arch) (r : VReg) (b : Bool) : (a.setLive r b).shape = a.shape := rfl
@[simp] theorem setLive_tmode (a : Arch) (r : VReg) (b : Bool) : (a.setLive r b).tmode = a.tmode := rfl
@[simp] theorem setLive_amax (a : Arch) (r : VReg) (b : Bool) : (a.setLive r b).amax = a.amax := rfl
@[simp] theorem setLive_amaxf (a : Arch) (r : VReg) (b : Bool) : (a.setLive r b).amaxf = a.amaxf := rfl
@[simp] theorem setLive_perm (a : Arch) (r : VReg) (b : Bool) : (a.setLive r b).perm = a.perm := rfl
@[simp] theorem setLive_permT (a : Arch) (r : VReg) (b : Bool) : (a.setLive r b).permT = a.permT := rfl
@[simp] theorem setLive_gang (a : Arch) (r : VReg) (b : Bool) : (a.setLive r b).gang = a.gang := rfl
@[simp] theorem setLive_accmode (a : Arch) (r : VReg) (b : Bool) : (a.setLive r b).accmode = a.accmode := rfl
@[simp] theorem setLive_bm (a : Arch) (r : VReg) (b : Bool) : (a.setLive r b).bm = a.bm := rfl
@[simp] theorem setLive_chcfg (a : Arch) (r : VReg) (b : Bool) : (a.setLive r b).chcfg = a.chcfg := rfl
@[simp] theorem setLive_stashCfg (a : Arch) (r : VReg) (b : Bool) : (a.setLive r b).stashCfg = a.stashCfg := rfl
@[simp] theorem setLive_sw (a : Arch) (r : VReg) (b : Bool) : (a.setLive r b).sw = a.sw := rfl
@[simp] theorem setLive_chunkLim (a : Arch) (r : VReg) (b : Bool) : (a.setLive r b).chunkLim = a.chunkLim := rfl
@[simp] theorem setLive_waitcfg (a : Arch) (r : VReg) (b : Bool) : (a.setLive r b).waitcfg = a.waitcfg := rfl
@[simp] theorem setLive_sparked (a : Arch) (r : VReg) (b : Bool) : (a.setLive r b).sparked = a.sparked := rfl
@[simp] theorem setLive_rings (a : Arch) (r : VReg) (b : Bool) : (a.setLive r b).rings = a.rings := rfl
@[simp] theorem setLive_tables (a : Arch) (r : VReg) (b : Bool) : (a.setLive r b).tables = a.tables := rfl
@[simp] theorem setLive_mark (a : Arch) (r : VReg) (b : Bool) : (a.setLive r b).mark = a.mark := rfl
@[simp] theorem setLive_views (a : Arch) (r : VReg) (b : Bool) : (a.setLive r b).views = a.views := rfl
@[simp] theorem setLive_gwrites (a : Arch) (r : VReg) (b : Bool) : (a.setLive r b).gwrites = a.gwrites := rfl
@[simp] theorem setLive_recent (a : Arch) (r : VReg) (b : Bool) : (a.setLive r b).recent = a.recent := rfl
@[simp] theorem setLive_pushes (a : Arch) (r : VReg) (b : Bool) : (a.setLive r b).pushes = a.pushes := rfl
@[simp] theorem setLive_redo (a : Arch) (r : VReg) (b : Bool) : (a.setLive r b).redo = a.redo := rfl
@[simp] theorem setV_pc (a : Arch) (r : VReg) (w : VWord) : (a.setV r w).pc = a.pc := rfl
@[simp] theorem setV_x (a : Arch) (r : VReg) (w : VWord) : (a.setV r w).x = a.x := rfl
@[simp] theorem setV_p (a : Arch) (r : VReg) (w : VWord) : (a.setV r w).p = a.p := rfl
@[simp] theorem setV_live (a : Arch) (r : VReg) (w : VWord) : (a.setV r w).live = a.live := rfl
@[simp] theorem setV_q0 (a : Arch) (r : VReg) (w : VWord) : (a.setV r w).q0 = a.q0 := rfl
@[simp] theorem setV_q1 (a : Arch) (r : VReg) (w : VWord) : (a.setV r w).q1 = a.q1 := rfl
@[simp] theorem setV_q3 (a : Arch) (r : VReg) (w : VWord) : (a.setV r w).q3 = a.q3 := rfl
@[simp] theorem setV_q5 (a : Arch) (r : VReg) (w : VWord) : (a.setV r w).q5 = a.q5 := rfl
@[simp] theorem setV_q7 (a : Arch) (r : VReg) (w : VWord) : (a.setV r w).q7 = a.q7 := rfl
@[simp] theorem setV_spad (a : Arch) (r : VReg) (w : VWord) : (a.setV r w).spad = a.spad := rfl
@[simp] theorem setV_slog (a : Arch) (r : VReg) (w : VWord) : (a.setV r w).slog = a.slog := rfl
@[simp] theorem setV_owed (a : Arch) (r : VReg) (w : VWord) : (a.setV r w).owed = a.owed := rfl
@[simp] theorem setV_empties (a : Arch) (r : VReg) (w : VWord) : (a.setV r w).empties = a.empties := rfl
@[simp] theorem setV_loop0 (a : Arch) (r : VReg) (w : VWord) : (a.setV r w).loop0 = a.loop0 := rfl
@[simp] theorem setV_loop1 (a : Arch) (r : VReg) (w : VWord) : (a.setV r w).loop1 = a.loop1 := rfl
@[simp] theorem setV_tvec (a : Arch) (r : VReg) (w : VWord) : (a.setV r w).tvec = a.tvec := rfl
@[simp] theorem setV_tcause (a : Arch) (r : VReg) (w : VWord) : (a.setV r w).tcause = a.tcause := rfl
@[simp] theorem setV_tpc (a : Arch) (r : VReg) (w : VWord) : (a.setV r w).tpc = a.tpc := rfl
@[simp] theorem setV_tval (a : Arch) (r : VReg) (w : VWord) : (a.setV r w).tval = a.tval := rfl
@[simp] theorem setV_tsave (a : Arch) (r : VReg) (w : VWord) : (a.setV r w).tsave = a.tsave := rfl
@[simp] theorem setV_ids (a : Arch) (r : VReg) (w : VWord) : (a.setV r w).ids = a.ids := rfl
@[simp] theorem setV_shape (a : Arch) (r : VReg) (w : VWord) : (a.setV r w).shape = a.shape := rfl
@[simp] theorem setV_tmode (a : Arch) (r : VReg) (w : VWord) : (a.setV r w).tmode = a.tmode := rfl
@[simp] theorem setV_amax (a : Arch) (r : VReg) (w : VWord) : (a.setV r w).amax = a.amax := rfl
@[simp] theorem setV_amaxf (a : Arch) (r : VReg) (w : VWord) : (a.setV r w).amaxf = a.amaxf := rfl
@[simp] theorem setV_perm (a : Arch) (r : VReg) (w : VWord) : (a.setV r w).perm = a.perm := rfl
@[simp] theorem setV_permT (a : Arch) (r : VReg) (w : VWord) : (a.setV r w).permT = a.permT := rfl
@[simp] theorem setV_gang (a : Arch) (r : VReg) (w : VWord) : (a.setV r w).gang = a.gang := rfl
@[simp] theorem setV_accmode (a : Arch) (r : VReg) (w : VWord) : (a.setV r w).accmode = a.accmode := rfl
@[simp] theorem setV_bm (a : Arch) (r : VReg) (w : VWord) : (a.setV r w).bm = a.bm := rfl
@[simp] theorem setV_chcfg (a : Arch) (r : VReg) (w : VWord) : (a.setV r w).chcfg = a.chcfg := rfl
@[simp] theorem setV_stashCfg (a : Arch) (r : VReg) (w : VWord) : (a.setV r w).stashCfg = a.stashCfg := rfl
@[simp] theorem setV_sw (a : Arch) (r : VReg) (w : VWord) : (a.setV r w).sw = a.sw := rfl
@[simp] theorem setV_chunkLim (a : Arch) (r : VReg) (w : VWord) : (a.setV r w).chunkLim = a.chunkLim := rfl
@[simp] theorem setV_waitcfg (a : Arch) (r : VReg) (w : VWord) : (a.setV r w).waitcfg = a.waitcfg := rfl
@[simp] theorem setV_sparked (a : Arch) (r : VReg) (w : VWord) : (a.setV r w).sparked = a.sparked := rfl
@[simp] theorem setV_rings (a : Arch) (r : VReg) (w : VWord) : (a.setV r w).rings = a.rings := rfl
@[simp] theorem setV_tables (a : Arch) (r : VReg) (w : VWord) : (a.setV r w).tables = a.tables := rfl
@[simp] theorem setV_mark (a : Arch) (r : VReg) (w : VWord) : (a.setV r w).mark = a.mark := rfl
@[simp] theorem setV_views (a : Arch) (r : VReg) (w : VWord) : (a.setV r w).views = a.views := rfl
@[simp] theorem setV_gwrites (a : Arch) (r : VReg) (w : VWord) : (a.setV r w).gwrites = a.gwrites := rfl
@[simp] theorem setV_recent (a : Arch) (r : VReg) (w : VWord) : (a.setV r w).recent = a.recent := rfl
@[simp] theorem setV_pushes (a : Arch) (r : VReg) (w : VWord) : (a.setV r w).pushes = a.pushes := rfl
@[simp] theorem setV_redo (a : Arch) (r : VReg) (w : VWord) : (a.setV r w).redo = a.redo := rfl
@[simp] theorem advance_x (a : Arch) (len : Nat) : (a.advance len).x = a.x := by unfold Arch.advance; dsimp only; repeat (first | rfl | split)
@[simp] theorem advance_p (a : Arch) (len : Nat) : (a.advance len).p = a.p := by unfold Arch.advance; dsimp only; repeat (first | rfl | split)
@[simp] theorem advance_v (a : Arch) (len : Nat) : (a.advance len).v = a.v := by unfold Arch.advance; dsimp only; repeat (first | rfl | split)
@[simp] theorem advance_live (a : Arch) (len : Nat) : (a.advance len).live = a.live := by unfold Arch.advance; dsimp only; repeat (first | rfl | split)
@[simp] theorem advance_q0 (a : Arch) (len : Nat) : (a.advance len).q0 = a.q0 := by unfold Arch.advance; dsimp only; repeat (first | rfl | split)
@[simp] theorem advance_q1 (a : Arch) (len : Nat) : (a.advance len).q1 = a.q1 := by unfold Arch.advance; dsimp only; repeat (first | rfl | split)
@[simp] theorem advance_q3 (a : Arch) (len : Nat) : (a.advance len).q3 = a.q3 := by unfold Arch.advance; dsimp only; repeat (first | rfl | split)
@[simp] theorem advance_q5 (a : Arch) (len : Nat) : (a.advance len).q5 = a.q5 := by unfold Arch.advance; dsimp only; repeat (first | rfl | split)
@[simp] theorem advance_q7 (a : Arch) (len : Nat) : (a.advance len).q7 = a.q7 := by unfold Arch.advance; dsimp only; repeat (first | rfl | split)
@[simp] theorem advance_spad (a : Arch) (len : Nat) : (a.advance len).spad = a.spad := by unfold Arch.advance; dsimp only; repeat (first | rfl | split)
@[simp] theorem advance_slog (a : Arch) (len : Nat) : (a.advance len).slog = a.slog := by unfold Arch.advance; dsimp only; repeat (first | rfl | split)
@[simp] theorem advance_owed (a : Arch) (len : Nat) : (a.advance len).owed = a.owed := by unfold Arch.advance; dsimp only; repeat (first | rfl | split)
@[simp] theorem advance_empties (a : Arch) (len : Nat) : (a.advance len).empties = a.empties := by unfold Arch.advance; dsimp only; repeat (first | rfl | split)
@[simp] theorem advance_tvec (a : Arch) (len : Nat) : (a.advance len).tvec = a.tvec := by unfold Arch.advance; dsimp only; repeat (first | rfl | split)
@[simp] theorem advance_tcause (a : Arch) (len : Nat) : (a.advance len).tcause = a.tcause := by unfold Arch.advance; dsimp only; repeat (first | rfl | split)
@[simp] theorem advance_tpc (a : Arch) (len : Nat) : (a.advance len).tpc = a.tpc := by unfold Arch.advance; dsimp only; repeat (first | rfl | split)
@[simp] theorem advance_tval (a : Arch) (len : Nat) : (a.advance len).tval = a.tval := by unfold Arch.advance; dsimp only; repeat (first | rfl | split)
@[simp] theorem advance_tsave (a : Arch) (len : Nat) : (a.advance len).tsave = a.tsave := by unfold Arch.advance; dsimp only; repeat (first | rfl | split)
@[simp] theorem advance_ids (a : Arch) (len : Nat) : (a.advance len).ids = a.ids := by unfold Arch.advance; dsimp only; repeat (first | rfl | split)
@[simp] theorem advance_shape (a : Arch) (len : Nat) : (a.advance len).shape = a.shape := by unfold Arch.advance; dsimp only; repeat (first | rfl | split)
@[simp] theorem advance_tmode (a : Arch) (len : Nat) : (a.advance len).tmode = a.tmode := by unfold Arch.advance; dsimp only; repeat (first | rfl | split)
@[simp] theorem advance_amax (a : Arch) (len : Nat) : (a.advance len).amax = a.amax := by unfold Arch.advance; dsimp only; repeat (first | rfl | split)
@[simp] theorem advance_amaxf (a : Arch) (len : Nat) : (a.advance len).amaxf = a.amaxf := by unfold Arch.advance; dsimp only; repeat (first | rfl | split)
@[simp] theorem advance_perm (a : Arch) (len : Nat) : (a.advance len).perm = a.perm := by unfold Arch.advance; dsimp only; repeat (first | rfl | split)
@[simp] theorem advance_permT (a : Arch) (len : Nat) : (a.advance len).permT = a.permT := by unfold Arch.advance; dsimp only; repeat (first | rfl | split)
@[simp] theorem advance_gang (a : Arch) (len : Nat) : (a.advance len).gang = a.gang := by unfold Arch.advance; dsimp only; repeat (first | rfl | split)
@[simp] theorem advance_accmode (a : Arch) (len : Nat) : (a.advance len).accmode = a.accmode := by unfold Arch.advance; dsimp only; repeat (first | rfl | split)
@[simp] theorem advance_bm (a : Arch) (len : Nat) : (a.advance len).bm = a.bm := by unfold Arch.advance; dsimp only; repeat (first | rfl | split)
@[simp] theorem advance_chcfg (a : Arch) (len : Nat) : (a.advance len).chcfg = a.chcfg := by unfold Arch.advance; dsimp only; repeat (first | rfl | split)
@[simp] theorem advance_stashCfg (a : Arch) (len : Nat) : (a.advance len).stashCfg = a.stashCfg := by unfold Arch.advance; dsimp only; repeat (first | rfl | split)
@[simp] theorem advance_sw (a : Arch) (len : Nat) : (a.advance len).sw = a.sw := by unfold Arch.advance; dsimp only; repeat (first | rfl | split)
@[simp] theorem advance_chunkLim (a : Arch) (len : Nat) : (a.advance len).chunkLim = a.chunkLim := by unfold Arch.advance; dsimp only; repeat (first | rfl | split)
@[simp] theorem advance_waitcfg (a : Arch) (len : Nat) : (a.advance len).waitcfg = a.waitcfg := by unfold Arch.advance; dsimp only; repeat (first | rfl | split)
@[simp] theorem advance_sparked (a : Arch) (len : Nat) : (a.advance len).sparked = a.sparked := by unfold Arch.advance; dsimp only; repeat (first | rfl | split)
@[simp] theorem advance_rings (a : Arch) (len : Nat) : (a.advance len).rings = a.rings := by unfold Arch.advance; dsimp only; repeat (first | rfl | split)
@[simp] theorem advance_tables (a : Arch) (len : Nat) : (a.advance len).tables = a.tables := by unfold Arch.advance; dsimp only; repeat (first | rfl | split)
@[simp] theorem advance_mark (a : Arch) (len : Nat) : (a.advance len).mark = a.mark := by unfold Arch.advance; dsimp only; repeat (first | rfl | split)
@[simp] theorem advance_views (a : Arch) (len : Nat) : (a.advance len).views = a.views := by unfold Arch.advance; dsimp only; repeat (first | rfl | split)
@[simp] theorem advance_gwrites (a : Arch) (len : Nat) : (a.advance len).gwrites = a.gwrites := by unfold Arch.advance; dsimp only; repeat (first | rfl | split)
@[simp] theorem advance_recent (a : Arch) (len : Nat) : (a.advance len).recent = a.recent := by unfold Arch.advance; dsimp only; repeat (first | rfl | split)
@[simp] theorem advance_pushes (a : Arch) (len : Nat) : (a.advance len).pushes = a.pushes := by unfold Arch.advance; dsimp only; repeat (first | rfl | split)
@[simp] theorem advance_redo (a : Arch) (len : Nat) : (a.advance len).redo = a.redo := by unfold Arch.advance; dsimp only; repeat (first | rfl | split)
@[simp] theorem enterTrap_x (a : Arch) (ret : BitVec 16) (t : Trap) : (a.enterTrap ret t).x = a.x := rfl
@[simp] theorem enterTrap_p (a : Arch) (ret : BitVec 16) (t : Trap) : (a.enterTrap ret t).p = a.p := rfl
@[simp] theorem enterTrap_v (a : Arch) (ret : BitVec 16) (t : Trap) : (a.enterTrap ret t).v = a.v := rfl
@[simp] theorem enterTrap_live (a : Arch) (ret : BitVec 16) (t : Trap) : (a.enterTrap ret t).live = a.live := rfl
@[simp] theorem enterTrap_q0 (a : Arch) (ret : BitVec 16) (t : Trap) : (a.enterTrap ret t).q0 = a.q0 := rfl
@[simp] theorem enterTrap_q1 (a : Arch) (ret : BitVec 16) (t : Trap) : (a.enterTrap ret t).q1 = a.q1 := rfl
@[simp] theorem enterTrap_q3 (a : Arch) (ret : BitVec 16) (t : Trap) : (a.enterTrap ret t).q3 = a.q3 := rfl
@[simp] theorem enterTrap_q5 (a : Arch) (ret : BitVec 16) (t : Trap) : (a.enterTrap ret t).q5 = a.q5 := rfl
@[simp] theorem enterTrap_q7 (a : Arch) (ret : BitVec 16) (t : Trap) : (a.enterTrap ret t).q7 = a.q7 := rfl
@[simp] theorem enterTrap_spad (a : Arch) (ret : BitVec 16) (t : Trap) : (a.enterTrap ret t).spad = a.spad := rfl
@[simp] theorem enterTrap_slog (a : Arch) (ret : BitVec 16) (t : Trap) : (a.enterTrap ret t).slog = a.slog := rfl
@[simp] theorem enterTrap_owed (a : Arch) (ret : BitVec 16) (t : Trap) : (a.enterTrap ret t).owed = [] := rfl
@[simp] theorem enterTrap_empties (a : Arch) (ret : BitVec 16) (t : Trap) : (a.enterTrap ret t).empties = a.empties := rfl
@[simp] theorem enterTrap_loop0 (a : Arch) (ret : BitVec 16) (t : Trap) : (a.enterTrap ret t).loop0 = a.loop0 := rfl
@[simp] theorem enterTrap_loop1 (a : Arch) (ret : BitVec 16) (t : Trap) : (a.enterTrap ret t).loop1 = a.loop1 := rfl
@[simp] theorem enterTrap_tvec (a : Arch) (ret : BitVec 16) (t : Trap) : (a.enterTrap ret t).tvec = a.tvec := rfl
@[simp] theorem enterTrap_ids (a : Arch) (ret : BitVec 16) (t : Trap) : (a.enterTrap ret t).ids = a.ids := rfl
@[simp] theorem enterTrap_shape (a : Arch) (ret : BitVec 16) (t : Trap) : (a.enterTrap ret t).shape = a.shape := rfl
@[simp] theorem enterTrap_tmode (a : Arch) (ret : BitVec 16) (t : Trap) : (a.enterTrap ret t).tmode = a.tmode := rfl
@[simp] theorem enterTrap_amax (a : Arch) (ret : BitVec 16) (t : Trap) : (a.enterTrap ret t).amax = a.amax := rfl
@[simp] theorem enterTrap_amaxf (a : Arch) (ret : BitVec 16) (t : Trap) : (a.enterTrap ret t).amaxf = a.amaxf := rfl
@[simp] theorem enterTrap_perm (a : Arch) (ret : BitVec 16) (t : Trap) : (a.enterTrap ret t).perm = a.perm := rfl
@[simp] theorem enterTrap_permT (a : Arch) (ret : BitVec 16) (t : Trap) : (a.enterTrap ret t).permT = a.permT := rfl
@[simp] theorem enterTrap_gang (a : Arch) (ret : BitVec 16) (t : Trap) : (a.enterTrap ret t).gang = a.gang := rfl
@[simp] theorem enterTrap_accmode (a : Arch) (ret : BitVec 16) (t : Trap) : (a.enterTrap ret t).accmode = a.accmode := rfl
@[simp] theorem enterTrap_bm (a : Arch) (ret : BitVec 16) (t : Trap) : (a.enterTrap ret t).bm = a.bm := rfl
@[simp] theorem enterTrap_chcfg (a : Arch) (ret : BitVec 16) (t : Trap) : (a.enterTrap ret t).chcfg = a.chcfg := rfl
@[simp] theorem enterTrap_stashCfg (a : Arch) (ret : BitVec 16) (t : Trap) : (a.enterTrap ret t).stashCfg = a.stashCfg := rfl
@[simp] theorem enterTrap_sw (a : Arch) (ret : BitVec 16) (t : Trap) : (a.enterTrap ret t).sw = a.sw := rfl
@[simp] theorem enterTrap_chunkLim (a : Arch) (ret : BitVec 16) (t : Trap) : (a.enterTrap ret t).chunkLim = a.chunkLim := rfl
@[simp] theorem enterTrap_waitcfg (a : Arch) (ret : BitVec 16) (t : Trap) : (a.enterTrap ret t).waitcfg = a.waitcfg := rfl
@[simp] theorem enterTrap_sparked (a : Arch) (ret : BitVec 16) (t : Trap) : (a.enterTrap ret t).sparked = a.sparked := rfl
@[simp] theorem enterTrap_rings (a : Arch) (ret : BitVec 16) (t : Trap) : (a.enterTrap ret t).rings = a.rings := rfl
@[simp] theorem enterTrap_tables (a : Arch) (ret : BitVec 16) (t : Trap) : (a.enterTrap ret t).tables = a.tables := rfl
@[simp] theorem enterTrap_mark (a : Arch) (ret : BitVec 16) (t : Trap) : (a.enterTrap ret t).mark = a.mark := rfl
@[simp] theorem enterTrap_views (a : Arch) (ret : BitVec 16) (t : Trap) : (a.enterTrap ret t).views = a.views := rfl
@[simp] theorem enterTrap_gwrites (a : Arch) (ret : BitVec 16) (t : Trap) : (a.enterTrap ret t).gwrites = a.gwrites := rfl
@[simp] theorem enterTrap_recent (a : Arch) (ret : BitVec 16) (t : Trap) : (a.enterTrap ret t).recent = a.recent := rfl
@[simp] theorem leaveTrap_x (a : Arch) : (a.leaveTrap).x = a.x := by unfold Arch.leaveTrap; dsimp only; repeat (first | rfl | split)
@[simp] theorem leaveTrap_p (a : Arch) : (a.leaveTrap).p = a.p := by unfold Arch.leaveTrap; dsimp only; repeat (first | rfl | split)
@[simp] theorem leaveTrap_v (a : Arch) : (a.leaveTrap).v = a.v := by unfold Arch.leaveTrap; dsimp only; repeat (first | rfl | split)
@[simp] theorem leaveTrap_live (a : Arch) : (a.leaveTrap).live = a.live := by unfold Arch.leaveTrap; dsimp only; repeat (first | rfl | split)
@[simp] theorem leaveTrap_q0 (a : Arch) : (a.leaveTrap).q0 = a.q0 := by unfold Arch.leaveTrap; dsimp only; repeat (first | rfl | split)
@[simp] theorem leaveTrap_q1 (a : Arch) : (a.leaveTrap).q1 = a.q1 := by unfold Arch.leaveTrap; dsimp only; repeat (first | rfl | split)
@[simp] theorem leaveTrap_q3 (a : Arch) : (a.leaveTrap).q3 = a.q3 := by unfold Arch.leaveTrap; dsimp only; repeat (first | rfl | split)
@[simp] theorem leaveTrap_q5 (a : Arch) : (a.leaveTrap).q5 = a.q5 := by unfold Arch.leaveTrap; dsimp only; repeat (first | rfl | split)
@[simp] theorem leaveTrap_q7 (a : Arch) : (a.leaveTrap).q7 = a.q7 := by unfold Arch.leaveTrap; dsimp only; repeat (first | rfl | split)
@[simp] theorem leaveTrap_spad (a : Arch) : (a.leaveTrap).spad = a.spad := by unfold Arch.leaveTrap; dsimp only; repeat (first | rfl | split)
@[simp] theorem leaveTrap_slog (a : Arch) : (a.leaveTrap).slog = a.slog := by unfold Arch.leaveTrap; dsimp only; repeat (first | rfl | split)
@[simp] theorem leaveTrap_owed (a : Arch) : (a.leaveTrap).owed = a.owed := by unfold Arch.leaveTrap; dsimp only; repeat (first | rfl | split)
@[simp] theorem leaveTrap_empties (a : Arch) : (a.leaveTrap).empties = a.empties := by unfold Arch.leaveTrap; dsimp only; repeat (first | rfl | split)
@[simp] theorem leaveTrap_loop0 (a : Arch) : (a.leaveTrap).loop0 = a.loop0 := by unfold Arch.leaveTrap; dsimp only; repeat (first | rfl | split)
@[simp] theorem leaveTrap_loop1 (a : Arch) : (a.leaveTrap).loop1 = a.loop1 := by unfold Arch.leaveTrap; dsimp only; repeat (first | rfl | split)
@[simp] theorem leaveTrap_tvec (a : Arch) : (a.leaveTrap).tvec = a.tvec := by unfold Arch.leaveTrap; dsimp only; repeat (first | rfl | split)
@[simp] theorem leaveTrap_tcause (a : Arch) : (a.leaveTrap).tcause = a.tcause := by unfold Arch.leaveTrap; dsimp only; repeat (first | rfl | split)
@[simp] theorem leaveTrap_tpc (a : Arch) : (a.leaveTrap).tpc = a.tpc := by unfold Arch.leaveTrap; dsimp only; repeat (first | rfl | split)
@[simp] theorem leaveTrap_tval (a : Arch) : (a.leaveTrap).tval = a.tval := by unfold Arch.leaveTrap; dsimp only; repeat (first | rfl | split)
@[simp] theorem leaveTrap_ids (a : Arch) : (a.leaveTrap).ids = a.ids := by unfold Arch.leaveTrap; dsimp only; repeat (first | rfl | split)
@[simp] theorem leaveTrap_shape (a : Arch) : (a.leaveTrap).shape = a.shape := by unfold Arch.leaveTrap; dsimp only; repeat (first | rfl | split)
@[simp] theorem leaveTrap_tmode (a : Arch) : (a.leaveTrap).tmode = a.tmode := by unfold Arch.leaveTrap; dsimp only; repeat (first | rfl | split)
@[simp] theorem leaveTrap_amax (a : Arch) : (a.leaveTrap).amax = a.amax := by unfold Arch.leaveTrap; dsimp only; repeat (first | rfl | split)
@[simp] theorem leaveTrap_amaxf (a : Arch) : (a.leaveTrap).amaxf = a.amaxf := by unfold Arch.leaveTrap; dsimp only; repeat (first | rfl | split)
@[simp] theorem leaveTrap_perm (a : Arch) : (a.leaveTrap).perm = a.perm := by unfold Arch.leaveTrap; dsimp only; repeat (first | rfl | split)
@[simp] theorem leaveTrap_permT (a : Arch) : (a.leaveTrap).permT = a.permT := by unfold Arch.leaveTrap; dsimp only; repeat (first | rfl | split)
@[simp] theorem leaveTrap_gang (a : Arch) : (a.leaveTrap).gang = a.gang := by unfold Arch.leaveTrap; dsimp only; repeat (first | rfl | split)
@[simp] theorem leaveTrap_accmode (a : Arch) : (a.leaveTrap).accmode = a.accmode := by unfold Arch.leaveTrap; dsimp only; repeat (first | rfl | split)
@[simp] theorem leaveTrap_bm (a : Arch) : (a.leaveTrap).bm = a.bm := by unfold Arch.leaveTrap; dsimp only; repeat (first | rfl | split)
@[simp] theorem leaveTrap_chcfg (a : Arch) : (a.leaveTrap).chcfg = a.chcfg := by unfold Arch.leaveTrap; dsimp only; repeat (first | rfl | split)
@[simp] theorem leaveTrap_stashCfg (a : Arch) : (a.leaveTrap).stashCfg = a.stashCfg := by unfold Arch.leaveTrap; dsimp only; repeat (first | rfl | split)
@[simp] theorem leaveTrap_sw (a : Arch) : (a.leaveTrap).sw = a.sw := by unfold Arch.leaveTrap; dsimp only; repeat (first | rfl | split)
@[simp] theorem leaveTrap_chunkLim (a : Arch) : (a.leaveTrap).chunkLim = a.chunkLim := by unfold Arch.leaveTrap; dsimp only; repeat (first | rfl | split)
@[simp] theorem leaveTrap_waitcfg (a : Arch) : (a.leaveTrap).waitcfg = a.waitcfg := by unfold Arch.leaveTrap; dsimp only; repeat (first | rfl | split)
@[simp] theorem leaveTrap_sparked (a : Arch) : (a.leaveTrap).sparked = a.sparked := by unfold Arch.leaveTrap; dsimp only; repeat (first | rfl | split)
@[simp] theorem leaveTrap_rings (a : Arch) : (a.leaveTrap).rings = a.rings := by unfold Arch.leaveTrap; dsimp only; repeat (first | rfl | split)
@[simp] theorem leaveTrap_tables (a : Arch) : (a.leaveTrap).tables = a.tables := by unfold Arch.leaveTrap; dsimp only; repeat (first | rfl | split)
@[simp] theorem leaveTrap_mark (a : Arch) : (a.leaveTrap).mark = a.mark := by unfold Arch.leaveTrap; dsimp only; repeat (first | rfl | split)
@[simp] theorem leaveTrap_views (a : Arch) : (a.leaveTrap).views = a.views := by unfold Arch.leaveTrap; dsimp only; repeat (first | rfl | split)
@[simp] theorem leaveTrap_gwrites (a : Arch) : (a.leaveTrap).gwrites = a.gwrites := by unfold Arch.leaveTrap; dsimp only; repeat (first | rfl | split)

theorem getX_zero (a : Arch) : a.getX 0 = 0 := rfl

theorem getX_setX_same (a : Arch) (r : XReg) (w : Word) (h : r ≠ 0) : (a.setX r w).getX r = w := by
  simp [Arch.getX, Arch.setX, h]

theorem getX_setX_ne (a : Arch) (r q : XReg) (w : Word) (h : q ≠ r) : (a.setX r w).getX q = a.getX q := by
  unfold Arch.getX Arch.setX
  split
  · rfl
  · split
    · rfl
    · exact Vector.getElem_set_ne (by omega) (by omega) (fun e => h (Fin.ext e.symm))

theorem setX_zero (a : Arch) (w : Word) : a.setX 0 w = a := rfl

/-! ### The rest of a core -/

@[simp] theorem stepped_arch (k : Core) : (k.stepped).arch = k.arch := rfl
@[simp] theorem stepped_istore (k : Core) : (k.stepped).istore = k.istore := rfl
@[simp] theorem stepped_run (k : Core) : (k.stepped).run = k.run := rfl
@[simp] theorem stepped_wait (k : Core) : (k.stepped).wait = k.wait := rfl
@[simp] theorem stepped_ilen (k : Core) : (k.stepped).ilen = k.ilen := rfl
@[simp] theorem stepped_seq (k : Core) : (k.stepped).seq = k.seq := rfl
@[simp] theorem stepped_chunks (k : Core) : (k.stepped).chunks = k.chunks := rfl
@[simp] theorem stepped_nextChunk (k : Core) : (k.stepped).nextChunk = k.nextChunk := rfl
@[simp] theorem stepped_cutNext (k : Core) : (k.stepped).cutNext = k.cutNext := rfl
@[simp] theorem stepped_await (k : Core) : (k.stepped).await = k.await := rfl
@[simp] theorem stepped_squashes (k : Core) : (k.stepped).squashes = k.squashes := rfl
@[simp] theorem stepped_prioPc (k : Core) : (k.stepped).prioPc = k.prioPc := rfl
@[simp] theorem stepped_pend (k : Core) : (k.stepped).pend = k.pend := rfl
@[simp] theorem stepped_chans (k : Core) : (k.stepped).chans = k.chans := rfl
@[simp] theorem stepped_deferred (k : Core) : (k.stepped).deferred = k.deferred := rfl
@[simp] theorem stepped_z (k : Core) : (k.stepped).z = k.z := rfl
@[simp] theorem stepped_zOld (k : Core) : (k.stepped).zOld = k.zOld := rfl
@[simp] theorem stepped_power (k : Core) : (k.stepped).power = k.power := rfl
@[simp] theorem stepped_arb (k : Core) : (k.stepped).arb = k.arb := rfl
@[simp] theorem stepped_q2 (k : Core) : (k.stepped).q2 = k.q2 := rfl
@[simp] theorem stepped_copy (k : Core) : (k.stepped).copy = k.copy := rfl
@[simp] theorem stepped_plan (k : Core) : (k.stepped).plan = k.plan := rfl
@[simp] theorem stepped_planAt (k : Core) : (k.stepped).planAt = k.planAt := rfl
@[simp] theorem stepped_q4 (k : Core) : (k.stepped).q4 = k.q4 := rfl
@[simp] theorem stepped_slice (k : Core) : (k.stepped).slice = k.slice := rfl
@[simp] theorem stepped_bypass (k : Core) : (k.stepped).bypass = k.bypass := rfl
@[simp] theorem stepped_q6 (k : Core) : (k.stepped).q6 = k.q6 := rfl
@[simp] theorem stepped_rcmd (k : Core) : (k.stepped).rcmd = k.rcmd := rfl
@[simp] theorem stepped_entries (k : Core) : (k.stepped).entries = k.entries := rfl
@[simp] theorem stepped_lostCids (k : Core) : (k.stepped).lostCids = k.lostCids := rfl
@[simp] theorem stepped_saveBuf (k : Core) : (k.stepped).saveBuf = k.saveBuf := rfl
@[simp] theorem stepped_flushed (k : Core) : (k.stepped).flushed = k.flushed := rfl
@[simp] theorem stepped_poison (k : Core) : (k.stepped).poison = k.poison := rfl
@[simp] theorem stepped_errs (k : Core) : (k.stepped).errs = k.errs := rfl
@[simp] theorem stepped_progress (k : Core) : (k.stepped).progress = k.progress := rfl
@[simp] theorem stepped_paid (k : Core) : (k.stepped).paid = k.paid := rfl
@[simp] theorem stepped_fetchAt (k : Core) : (k.stepped).fetchAt = k.fetchAt := rfl
@[simp] theorem stepped_part (k : Core) : (k.stepped).part = k.part := rfl
@[simp] theorem stepped_launch (k : Core) : (k.stepped).launch = k.launch := rfl
@[simp] theorem onLastChunk_arch (k : Core) (f : Chunk → Chunk) : (k.onLastChunk f).arch = k.arch := by unfold Core.onLastChunk; split <;> rfl
@[simp] theorem onLastChunk_istore (k : Core) (f : Chunk → Chunk) : (k.onLastChunk f).istore = k.istore := by unfold Core.onLastChunk; split <;> rfl
@[simp] theorem onLastChunk_run (k : Core) (f : Chunk → Chunk) : (k.onLastChunk f).run = k.run := by unfold Core.onLastChunk; split <;> rfl
@[simp] theorem onLastChunk_wait (k : Core) (f : Chunk → Chunk) : (k.onLastChunk f).wait = k.wait := by unfold Core.onLastChunk; split <;> rfl
@[simp] theorem onLastChunk_ilen (k : Core) (f : Chunk → Chunk) : (k.onLastChunk f).ilen = k.ilen := by unfold Core.onLastChunk; split <;> rfl
@[simp] theorem onLastChunk_seq (k : Core) (f : Chunk → Chunk) : (k.onLastChunk f).seq = k.seq := by unfold Core.onLastChunk; split <;> rfl
@[simp] theorem onLastChunk_nextChunk (k : Core) (f : Chunk → Chunk) : (k.onLastChunk f).nextChunk = k.nextChunk := by unfold Core.onLastChunk; split <;> rfl
@[simp] theorem onLastChunk_cutNext (k : Core) (f : Chunk → Chunk) : (k.onLastChunk f).cutNext = k.cutNext := by unfold Core.onLastChunk; split <;> rfl
@[simp] theorem onLastChunk_await (k : Core) (f : Chunk → Chunk) : (k.onLastChunk f).await = k.await := by unfold Core.onLastChunk; split <;> rfl
@[simp] theorem onLastChunk_squashes (k : Core) (f : Chunk → Chunk) : (k.onLastChunk f).squashes = k.squashes := by unfold Core.onLastChunk; split <;> rfl
@[simp] theorem onLastChunk_prioPc (k : Core) (f : Chunk → Chunk) : (k.onLastChunk f).prioPc = k.prioPc := by unfold Core.onLastChunk; split <;> rfl
@[simp] theorem onLastChunk_pend (k : Core) (f : Chunk → Chunk) : (k.onLastChunk f).pend = k.pend := by unfold Core.onLastChunk; split <;> rfl
@[simp] theorem onLastChunk_chans (k : Core) (f : Chunk → Chunk) : (k.onLastChunk f).chans = k.chans := by unfold Core.onLastChunk; split <;> rfl
@[simp] theorem onLastChunk_deferred (k : Core) (f : Chunk → Chunk) : (k.onLastChunk f).deferred = k.deferred := by unfold Core.onLastChunk; split <;> rfl
@[simp] theorem onLastChunk_z (k : Core) (f : Chunk → Chunk) : (k.onLastChunk f).z = k.z := by unfold Core.onLastChunk; split <;> rfl
@[simp] theorem onLastChunk_zOld (k : Core) (f : Chunk → Chunk) : (k.onLastChunk f).zOld = k.zOld := by unfold Core.onLastChunk; split <;> rfl
@[simp] theorem onLastChunk_power (k : Core) (f : Chunk → Chunk) : (k.onLastChunk f).power = k.power := by unfold Core.onLastChunk; split <;> rfl
@[simp] theorem onLastChunk_arb (k : Core) (f : Chunk → Chunk) : (k.onLastChunk f).arb = k.arb := by unfold Core.onLastChunk; split <;> rfl
@[simp] theorem onLastChunk_q2 (k : Core) (f : Chunk → Chunk) : (k.onLastChunk f).q2 = k.q2 := by unfold Core.onLastChunk; split <;> rfl
@[simp] theorem onLastChunk_copy (k : Core) (f : Chunk → Chunk) : (k.onLastChunk f).copy = k.copy := by unfold Core.onLastChunk; split <;> rfl
@[simp] theorem onLastChunk_plan (k : Core) (f : Chunk → Chunk) : (k.onLastChunk f).plan = k.plan := by unfold Core.onLastChunk; split <;> rfl
@[simp] theorem onLastChunk_planAt (k : Core) (f : Chunk → Chunk) : (k.onLastChunk f).planAt = k.planAt := by unfold Core.onLastChunk; split <;> rfl
@[simp] theorem onLastChunk_q4 (k : Core) (f : Chunk → Chunk) : (k.onLastChunk f).q4 = k.q4 := by unfold Core.onLastChunk; split <;> rfl
@[simp] theorem onLastChunk_slice (k : Core) (f : Chunk → Chunk) : (k.onLastChunk f).slice = k.slice := by unfold Core.onLastChunk; split <;> rfl
@[simp] theorem onLastChunk_bypass (k : Core) (f : Chunk → Chunk) : (k.onLastChunk f).bypass = k.bypass := by unfold Core.onLastChunk; split <;> rfl
@[simp] theorem onLastChunk_q6 (k : Core) (f : Chunk → Chunk) : (k.onLastChunk f).q6 = k.q6 := by unfold Core.onLastChunk; split <;> rfl
@[simp] theorem onLastChunk_rcmd (k : Core) (f : Chunk → Chunk) : (k.onLastChunk f).rcmd = k.rcmd := by unfold Core.onLastChunk; split <;> rfl
@[simp] theorem onLastChunk_entries (k : Core) (f : Chunk → Chunk) : (k.onLastChunk f).entries = k.entries := by unfold Core.onLastChunk; split <;> rfl
@[simp] theorem onLastChunk_lostCids (k : Core) (f : Chunk → Chunk) : (k.onLastChunk f).lostCids = k.lostCids := by unfold Core.onLastChunk; split <;> rfl
@[simp] theorem onLastChunk_saveBuf (k : Core) (f : Chunk → Chunk) : (k.onLastChunk f).saveBuf = k.saveBuf := by unfold Core.onLastChunk; split <;> rfl
@[simp] theorem onLastChunk_flushed (k : Core) (f : Chunk → Chunk) : (k.onLastChunk f).flushed = k.flushed := by unfold Core.onLastChunk; split <;> rfl
@[simp] theorem onLastChunk_dbg (k : Core) (f : Chunk → Chunk) : (k.onLastChunk f).dbg = k.dbg := by unfold Core.onLastChunk; split <;> rfl
@[simp] theorem onLastChunk_poison (k : Core) (f : Chunk → Chunk) : (k.onLastChunk f).poison = k.poison := by unfold Core.onLastChunk; split <;> rfl
@[simp] theorem onLastChunk_errs (k : Core) (f : Chunk → Chunk) : (k.onLastChunk f).errs = k.errs := by unfold Core.onLastChunk; split <;> rfl
@[simp] theorem onLastChunk_progress (k : Core) (f : Chunk → Chunk) : (k.onLastChunk f).progress = k.progress := by unfold Core.onLastChunk; split <;> rfl
@[simp] theorem onLastChunk_paid (k : Core) (f : Chunk → Chunk) : (k.onLastChunk f).paid = k.paid := by unfold Core.onLastChunk; split <;> rfl
@[simp] theorem onLastChunk_fetchAt (k : Core) (f : Chunk → Chunk) : (k.onLastChunk f).fetchAt = k.fetchAt := by unfold Core.onLastChunk; split <;> rfl
@[simp] theorem onLastChunk_part (k : Core) (f : Chunk → Chunk) : (k.onLastChunk f).part = k.part := by unfold Core.onLastChunk; split <;> rfl
@[simp] theorem onLastChunk_launch (k : Core) (f : Chunk → Chunk) : (k.onLastChunk f).launch = k.launch := by unfold Core.onLastChunk; split <;> rfl
@[simp] theorem countInstr_arch (k : Core) : (k.countInstr).arch = k.arch := by
  unfold Core.countInstr; split
  · simp
  · dsimp only; split <;> simp
@[simp] theorem countInstr_istore (k : Core) : (k.countInstr).istore = k.istore := by
  unfold Core.countInstr; split
  · simp
  · dsimp only; split <;> simp
@[simp] theorem countInstr_run (k : Core) : (k.countInstr).run = k.run := by
  unfold Core.countInstr; split
  · simp
  · dsimp only; split <;> simp
@[simp] theorem countInstr_wait (k : Core) : (k.countInstr).wait = k.wait := by
  unfold Core.countInstr; split
  · simp
  · dsimp only; split <;> simp
@[simp] theorem countInstr_ilen (k : Core) : (k.countInstr).ilen = k.ilen := by
  unfold Core.countInstr; split
  · simp
  · dsimp only; split <;> simp
@[simp] theorem countInstr_seq (k : Core) : (k.countInstr).seq = k.seq := by
  unfold Core.countInstr; split
  · simp
  · dsimp only; split <;> simp
@[simp] theorem countInstr_nextChunk (k : Core) : (k.countInstr).nextChunk = k.nextChunk := by
  unfold Core.countInstr; split
  · simp
  · dsimp only; split <;> simp
@[simp] theorem countInstr_cutNext (k : Core) : (k.countInstr).cutNext = k.cutNext := by
  unfold Core.countInstr; split
  · simp
  · dsimp only; split <;> simp
@[simp] theorem countInstr_squashes (k : Core) : (k.countInstr).squashes = k.squashes := by
  unfold Core.countInstr; split
  · simp
  · dsimp only; split <;> simp
@[simp] theorem countInstr_prioPc (k : Core) : (k.countInstr).prioPc = k.prioPc := by
  unfold Core.countInstr; split
  · simp
  · dsimp only; split <;> simp
@[simp] theorem countInstr_pend (k : Core) : (k.countInstr).pend = k.pend := by
  unfold Core.countInstr; split
  · simp
  · dsimp only; split <;> simp
@[simp] theorem countInstr_chans (k : Core) : (k.countInstr).chans = k.chans := by
  unfold Core.countInstr; split
  · simp
  · dsimp only; split <;> simp
@[simp] theorem countInstr_deferred (k : Core) : (k.countInstr).deferred = k.deferred := by
  unfold Core.countInstr; split
  · simp
  · dsimp only; split <;> simp
@[simp] theorem countInstr_z (k : Core) : (k.countInstr).z = k.z := by
  unfold Core.countInstr; split
  · simp
  · dsimp only; split <;> simp
@[simp] theorem countInstr_zOld (k : Core) : (k.countInstr).zOld = k.zOld := by
  unfold Core.countInstr; split
  · simp
  · dsimp only; split <;> simp
@[simp] theorem countInstr_power (k : Core) : (k.countInstr).power = k.power := by
  unfold Core.countInstr; split
  · simp
  · dsimp only; split <;> simp
@[simp] theorem countInstr_arb (k : Core) : (k.countInstr).arb = k.arb := by
  unfold Core.countInstr; split
  · simp
  · dsimp only; split <;> simp
@[simp] theorem countInstr_q2 (k : Core) : (k.countInstr).q2 = k.q2 := by
  unfold Core.countInstr; split
  · simp
  · dsimp only; split <;> simp
@[simp] theorem countInstr_copy (k : Core) : (k.countInstr).copy = k.copy := by
  unfold Core.countInstr; split
  · simp
  · dsimp only; split <;> simp
@[simp] theorem countInstr_plan (k : Core) : (k.countInstr).plan = k.plan := by
  unfold Core.countInstr; split
  · simp
  · dsimp only; split <;> simp
@[simp] theorem countInstr_planAt (k : Core) : (k.countInstr).planAt = k.planAt := by
  unfold Core.countInstr; split
  · simp
  · dsimp only; split <;> simp
@[simp] theorem countInstr_q4 (k : Core) : (k.countInstr).q4 = k.q4 := by
  unfold Core.countInstr; split
  · simp
  · dsimp only; split <;> simp
@[simp] theorem countInstr_slice (k : Core) : (k.countInstr).slice = k.slice := by
  unfold Core.countInstr; split
  · simp
  · dsimp only; split <;> simp
@[simp] theorem countInstr_bypass (k : Core) : (k.countInstr).bypass = k.bypass := by
  unfold Core.countInstr; split
  · simp
  · dsimp only; split <;> simp
@[simp] theorem countInstr_q6 (k : Core) : (k.countInstr).q6 = k.q6 := by
  unfold Core.countInstr; split
  · simp
  · dsimp only; split <;> simp
@[simp] theorem countInstr_rcmd (k : Core) : (k.countInstr).rcmd = k.rcmd := by
  unfold Core.countInstr; split
  · simp
  · dsimp only; split <;> simp
@[simp] theorem countInstr_entries (k : Core) : (k.countInstr).entries = k.entries := by
  unfold Core.countInstr; split
  · simp
  · dsimp only; split <;> simp
@[simp] theorem countInstr_lostCids (k : Core) : (k.countInstr).lostCids = k.lostCids := by
  unfold Core.countInstr; split
  · simp
  · dsimp only; split <;> simp
@[simp] theorem countInstr_saveBuf (k : Core) : (k.countInstr).saveBuf = k.saveBuf := by
  unfold Core.countInstr; split
  · simp
  · dsimp only; split <;> simp
@[simp] theorem countInstr_flushed (k : Core) : (k.countInstr).flushed = k.flushed := by
  unfold Core.countInstr; split
  · simp
  · dsimp only; split <;> simp
@[simp] theorem countInstr_poison (k : Core) : (k.countInstr).poison = k.poison := by
  unfold Core.countInstr; split
  · simp
  · dsimp only; split <;> simp
@[simp] theorem countInstr_errs (k : Core) : (k.countInstr).errs = k.errs := by
  unfold Core.countInstr; split
  · simp
  · dsimp only; split <;> simp
@[simp] theorem countInstr_progress (k : Core) : (k.countInstr).progress = k.progress := by
  unfold Core.countInstr; split
  · simp
  · dsimp only; split <;> simp
@[simp] theorem countInstr_paid (k : Core) : (k.countInstr).paid = k.paid := by
  unfold Core.countInstr; split
  · simp
  · dsimp only; split <;> simp
@[simp] theorem countInstr_fetchAt (k : Core) : (k.countInstr).fetchAt = k.fetchAt := by
  unfold Core.countInstr; split
  · simp
  · dsimp only; split <;> simp
@[simp] theorem countInstr_part (k : Core) : (k.countInstr).part = k.part := by
  unfold Core.countInstr; split
  · simp
  · dsimp only; split <;> simp
@[simp] theorem countInstr_launch (k : Core) : (k.countInstr).launch = k.launch := by
  unfold Core.countInstr; split
  · simp
  · dsimp only; split <;> simp
@[simp] theorem retire_istore (k : Core) (a : Arch) : (k.retire a).istore = k.istore := by simp [Core.retire]
@[simp] theorem retire_run (k : Core) (a : Arch) : (k.retire a).run = k.run := by simp [Core.retire]
@[simp] theorem retire_wait (k : Core) (a : Arch) : (k.retire a).wait = k.wait := by simp [Core.retire]
@[simp] theorem retire_ilen (k : Core) (a : Arch) : (k.retire a).ilen = k.ilen := by simp [Core.retire]
@[simp] theorem retire_seq (k : Core) (a : Arch) : (k.retire a).seq = k.seq := by simp [Core.retire]
@[simp] theorem retire_nextChunk (k : Core) (a : Arch) : (k.retire a).nextChunk = k.nextChunk := by simp [Core.retire]
@[simp] theorem retire_cutNext (k : Core) (a : Arch) : (k.retire a).cutNext = k.cutNext := by simp [Core.retire]
@[simp] theorem retire_squashes (k : Core) (a : Arch) : (k.retire a).squashes = k.squashes := by simp [Core.retire]
@[simp] theorem retire_prioPc (k : Core) (a : Arch) : (k.retire a).prioPc = k.prioPc := by simp [Core.retire]
@[simp] theorem retire_pend (k : Core) (a : Arch) : (k.retire a).pend = k.pend := by simp [Core.retire]
@[simp] theorem retire_chans (k : Core) (a : Arch) : (k.retire a).chans = k.chans := by simp [Core.retire]
@[simp] theorem retire_deferred (k : Core) (a : Arch) : (k.retire a).deferred = k.deferred := by simp [Core.retire]
@[simp] theorem retire_z (k : Core) (a : Arch) : (k.retire a).z = k.z := by simp [Core.retire]
@[simp] theorem retire_zOld (k : Core) (a : Arch) : (k.retire a).zOld = k.zOld := by simp [Core.retire]
@[simp] theorem retire_power (k : Core) (a : Arch) : (k.retire a).power = k.power := by simp [Core.retire]
@[simp] theorem retire_arb (k : Core) (a : Arch) : (k.retire a).arb = k.arb := by simp [Core.retire]
@[simp] theorem retire_q2 (k : Core) (a : Arch) : (k.retire a).q2 = k.q2 := by simp [Core.retire]
@[simp] theorem retire_copy (k : Core) (a : Arch) : (k.retire a).copy = k.copy := by simp [Core.retire]
@[simp] theorem retire_plan (k : Core) (a : Arch) : (k.retire a).plan = k.plan := by simp [Core.retire]
@[simp] theorem retire_planAt (k : Core) (a : Arch) : (k.retire a).planAt = k.planAt := by simp [Core.retire]
@[simp] theorem retire_q4 (k : Core) (a : Arch) : (k.retire a).q4 = k.q4 := by simp [Core.retire]
@[simp] theorem retire_slice (k : Core) (a : Arch) : (k.retire a).slice = k.slice := by simp [Core.retire]
@[simp] theorem retire_bypass (k : Core) (a : Arch) : (k.retire a).bypass = k.bypass := by simp [Core.retire]
@[simp] theorem retire_q6 (k : Core) (a : Arch) : (k.retire a).q6 = k.q6 := by simp [Core.retire]
@[simp] theorem retire_rcmd (k : Core) (a : Arch) : (k.retire a).rcmd = k.rcmd := by simp [Core.retire]
@[simp] theorem retire_entries (k : Core) (a : Arch) : (k.retire a).entries = k.entries := by simp [Core.retire]
@[simp] theorem retire_lostCids (k : Core) (a : Arch) : (k.retire a).lostCids = k.lostCids := by simp [Core.retire]
@[simp] theorem retire_saveBuf (k : Core) (a : Arch) : (k.retire a).saveBuf = k.saveBuf := by simp [Core.retire]
@[simp] theorem retire_flushed (k : Core) (a : Arch) : (k.retire a).flushed = k.flushed := by simp [Core.retire]
@[simp] theorem retire_poison (k : Core) (a : Arch) : (k.retire a).poison = k.poison := by simp [Core.retire]
@[simp] theorem retire_errs (k : Core) (a : Arch) : (k.retire a).errs = k.errs := by simp [Core.retire]
@[simp] theorem retire_progress (k : Core) (a : Arch) : (k.retire a).progress = k.progress := by simp [Core.retire]
@[simp] theorem retire_paid (k : Core) (a : Arch) : (k.retire a).paid = k.paid := by simp [Core.retire]
@[simp] theorem retire_fetchAt (k : Core) (a : Arch) : (k.retire a).fetchAt = k.fetchAt := by simp [Core.retire]
@[simp] theorem retire_part (k : Core) (a : Arch) : (k.retire a).part = k.part := by simp [Core.retire]
@[simp] theorem retire_launch (k : Core) (a : Arch) : (k.retire a).launch = k.launch := by simp [Core.retire]
@[simp] theorem retireTo_istore (k : Core) (a : Arch) (pc : BitVec 16) : (k.retireTo a pc).istore = k.istore := by simp [Core.retireTo]
@[simp] theorem retireTo_run (k : Core) (a : Arch) (pc : BitVec 16) : (k.retireTo a pc).run = k.run := by simp [Core.retireTo]
@[simp] theorem retireTo_wait (k : Core) (a : Arch) (pc : BitVec 16) : (k.retireTo a pc).wait = k.wait := by simp [Core.retireTo]
@[simp] theorem retireTo_ilen (k : Core) (a : Arch) (pc : BitVec 16) : (k.retireTo a pc).ilen = k.ilen := by simp [Core.retireTo]
@[simp] theorem retireTo_seq (k : Core) (a : Arch) (pc : BitVec 16) : (k.retireTo a pc).seq = k.seq := by simp [Core.retireTo]
@[simp] theorem retireTo_nextChunk (k : Core) (a : Arch) (pc : BitVec 16) : (k.retireTo a pc).nextChunk = k.nextChunk := by simp [Core.retireTo]
@[simp] theorem retireTo_cutNext (k : Core) (a : Arch) (pc : BitVec 16) : (k.retireTo a pc).cutNext = k.cutNext := by simp [Core.retireTo]
@[simp] theorem retireTo_squashes (k : Core) (a : Arch) (pc : BitVec 16) : (k.retireTo a pc).squashes = k.squashes := by simp [Core.retireTo]
@[simp] theorem retireTo_prioPc (k : Core) (a : Arch) (pc : BitVec 16) : (k.retireTo a pc).prioPc = k.prioPc := by simp [Core.retireTo]
@[simp] theorem retireTo_pend (k : Core) (a : Arch) (pc : BitVec 16) : (k.retireTo a pc).pend = k.pend := by simp [Core.retireTo]
@[simp] theorem retireTo_chans (k : Core) (a : Arch) (pc : BitVec 16) : (k.retireTo a pc).chans = k.chans := by simp [Core.retireTo]
@[simp] theorem retireTo_deferred (k : Core) (a : Arch) (pc : BitVec 16) : (k.retireTo a pc).deferred = k.deferred := by simp [Core.retireTo]
@[simp] theorem retireTo_z (k : Core) (a : Arch) (pc : BitVec 16) : (k.retireTo a pc).z = k.z := by simp [Core.retireTo]
@[simp] theorem retireTo_zOld (k : Core) (a : Arch) (pc : BitVec 16) : (k.retireTo a pc).zOld = k.zOld := by simp [Core.retireTo]
@[simp] theorem retireTo_power (k : Core) (a : Arch) (pc : BitVec 16) : (k.retireTo a pc).power = k.power := by simp [Core.retireTo]
@[simp] theorem retireTo_arb (k : Core) (a : Arch) (pc : BitVec 16) : (k.retireTo a pc).arb = k.arb := by simp [Core.retireTo]
@[simp] theorem retireTo_q2 (k : Core) (a : Arch) (pc : BitVec 16) : (k.retireTo a pc).q2 = k.q2 := by simp [Core.retireTo]
@[simp] theorem retireTo_copy (k : Core) (a : Arch) (pc : BitVec 16) : (k.retireTo a pc).copy = k.copy := by simp [Core.retireTo]
@[simp] theorem retireTo_plan (k : Core) (a : Arch) (pc : BitVec 16) : (k.retireTo a pc).plan = k.plan := by simp [Core.retireTo]
@[simp] theorem retireTo_planAt (k : Core) (a : Arch) (pc : BitVec 16) : (k.retireTo a pc).planAt = k.planAt := by simp [Core.retireTo]
@[simp] theorem retireTo_q4 (k : Core) (a : Arch) (pc : BitVec 16) : (k.retireTo a pc).q4 = k.q4 := by simp [Core.retireTo]
@[simp] theorem retireTo_slice (k : Core) (a : Arch) (pc : BitVec 16) : (k.retireTo a pc).slice = k.slice := by simp [Core.retireTo]
@[simp] theorem retireTo_bypass (k : Core) (a : Arch) (pc : BitVec 16) : (k.retireTo a pc).bypass = k.bypass := by simp [Core.retireTo]
@[simp] theorem retireTo_q6 (k : Core) (a : Arch) (pc : BitVec 16) : (k.retireTo a pc).q6 = k.q6 := by simp [Core.retireTo]
@[simp] theorem retireTo_rcmd (k : Core) (a : Arch) (pc : BitVec 16) : (k.retireTo a pc).rcmd = k.rcmd := by simp [Core.retireTo]
@[simp] theorem retireTo_entries (k : Core) (a : Arch) (pc : BitVec 16) : (k.retireTo a pc).entries = k.entries := by simp [Core.retireTo]
@[simp] theorem retireTo_lostCids (k : Core) (a : Arch) (pc : BitVec 16) : (k.retireTo a pc).lostCids = k.lostCids := by simp [Core.retireTo]
@[simp] theorem retireTo_saveBuf (k : Core) (a : Arch) (pc : BitVec 16) : (k.retireTo a pc).saveBuf = k.saveBuf := by simp [Core.retireTo]
@[simp] theorem retireTo_flushed (k : Core) (a : Arch) (pc : BitVec 16) : (k.retireTo a pc).flushed = k.flushed := by simp [Core.retireTo]
@[simp] theorem retireTo_poison (k : Core) (a : Arch) (pc : BitVec 16) : (k.retireTo a pc).poison = k.poison := by simp [Core.retireTo]
@[simp] theorem retireTo_errs (k : Core) (a : Arch) (pc : BitVec 16) : (k.retireTo a pc).errs = k.errs := by simp [Core.retireTo]
@[simp] theorem retireTo_progress (k : Core) (a : Arch) (pc : BitVec 16) : (k.retireTo a pc).progress = k.progress := by simp [Core.retireTo]
@[simp] theorem retireTo_paid (k : Core) (a : Arch) (pc : BitVec 16) : (k.retireTo a pc).paid = k.paid := by simp [Core.retireTo]
@[simp] theorem retireTo_fetchAt (k : Core) (a : Arch) (pc : BitVec 16) : (k.retireTo a pc).fetchAt = k.fetchAt := by simp [Core.retireTo]
@[simp] theorem retireTo_part (k : Core) (a : Arch) (pc : BitVec 16) : (k.retireTo a pc).part = k.part := by simp [Core.retireTo]
@[simp] theorem retireTo_launch (k : Core) (a : Arch) (pc : BitVec 16) : (k.retireTo a pc).launch = k.launch := by simp [Core.retireTo]
@[simp] theorem beginChunk_arch (k : Core) : (k.beginChunk).arch = k.arch := by unfold Core.beginChunk; split <;> rfl
@[simp] theorem beginChunk_istore (k : Core) : (k.beginChunk).istore = k.istore := by unfold Core.beginChunk; split <;> rfl
@[simp] theorem beginChunk_run (k : Core) : (k.beginChunk).run = k.run := by unfold Core.beginChunk; split <;> rfl
@[simp] theorem beginChunk_wait (k : Core) : (k.beginChunk).wait = k.wait := by unfold Core.beginChunk; split <;> rfl
@[simp] theorem beginChunk_ilen (k : Core) : (k.beginChunk).ilen = k.ilen := by unfold Core.beginChunk; split <;> rfl
@[simp] theorem beginChunk_seq (k : Core) : (k.beginChunk).seq = k.seq := by unfold Core.beginChunk; split <;> rfl
@[simp] theorem beginChunk_squashes (k : Core) : (k.beginChunk).squashes = k.squashes := by unfold Core.beginChunk; split <;> rfl
@[simp] theorem beginChunk_prioPc (k : Core) : (k.beginChunk).prioPc = k.prioPc := by unfold Core.beginChunk; split <;> rfl
@[simp] theorem beginChunk_pend (k : Core) : (k.beginChunk).pend = k.pend := by unfold Core.beginChunk; split <;> rfl
@[simp] theorem beginChunk_chans (k : Core) : (k.beginChunk).chans = k.chans := by unfold Core.beginChunk; split <;> rfl
@[simp] theorem beginChunk_deferred (k : Core) : (k.beginChunk).deferred = k.deferred := by unfold Core.beginChunk; split <;> rfl
@[simp] theorem beginChunk_z (k : Core) : (k.beginChunk).z = k.z := by unfold Core.beginChunk; split <;> rfl
@[simp] theorem beginChunk_zOld (k : Core) : (k.beginChunk).zOld = k.zOld := by unfold Core.beginChunk; split <;> rfl
@[simp] theorem beginChunk_power (k : Core) : (k.beginChunk).power = k.power := by unfold Core.beginChunk; split <;> rfl
@[simp] theorem beginChunk_arb (k : Core) : (k.beginChunk).arb = k.arb := by unfold Core.beginChunk; split <;> rfl
@[simp] theorem beginChunk_q2 (k : Core) : (k.beginChunk).q2 = k.q2 := by unfold Core.beginChunk; split <;> rfl
@[simp] theorem beginChunk_copy (k : Core) : (k.beginChunk).copy = k.copy := by unfold Core.beginChunk; split <;> rfl
@[simp] theorem beginChunk_plan (k : Core) : (k.beginChunk).plan = k.plan := by unfold Core.beginChunk; split <;> rfl
@[simp] theorem beginChunk_planAt (k : Core) : (k.beginChunk).planAt = k.planAt := by unfold Core.beginChunk; split <;> rfl
@[simp] theorem beginChunk_q4 (k : Core) : (k.beginChunk).q4 = k.q4 := by unfold Core.beginChunk; split <;> rfl
@[simp] theorem beginChunk_slice (k : Core) : (k.beginChunk).slice = k.slice := by unfold Core.beginChunk; split <;> rfl
@[simp] theorem beginChunk_bypass (k : Core) : (k.beginChunk).bypass = k.bypass := by unfold Core.beginChunk; split <;> rfl
@[simp] theorem beginChunk_q6 (k : Core) : (k.beginChunk).q6 = k.q6 := by unfold Core.beginChunk; split <;> rfl
@[simp] theorem beginChunk_rcmd (k : Core) : (k.beginChunk).rcmd = k.rcmd := by unfold Core.beginChunk; split <;> rfl
@[simp] theorem beginChunk_entries (k : Core) : (k.beginChunk).entries = k.entries := by unfold Core.beginChunk; split <;> rfl
@[simp] theorem beginChunk_lostCids (k : Core) : (k.beginChunk).lostCids = k.lostCids := by unfold Core.beginChunk; split <;> rfl
@[simp] theorem beginChunk_saveBuf (k : Core) : (k.beginChunk).saveBuf = k.saveBuf := by unfold Core.beginChunk; split <;> rfl
@[simp] theorem beginChunk_flushed (k : Core) : (k.beginChunk).flushed = k.flushed := by unfold Core.beginChunk; split <;> rfl
@[simp] theorem beginChunk_dbg (k : Core) : (k.beginChunk).dbg = k.dbg := by unfold Core.beginChunk; split <;> rfl
@[simp] theorem beginChunk_poison (k : Core) : (k.beginChunk).poison = k.poison := by unfold Core.beginChunk; split <;> rfl
@[simp] theorem beginChunk_errs (k : Core) : (k.beginChunk).errs = k.errs := by unfold Core.beginChunk; split <;> rfl
@[simp] theorem beginChunk_progress (k : Core) : (k.beginChunk).progress = k.progress := by unfold Core.beginChunk; split <;> rfl
@[simp] theorem beginChunk_paid (k : Core) : (k.beginChunk).paid = k.paid := by unfold Core.beginChunk; split <;> rfl
@[simp] theorem beginChunk_fetchAt (k : Core) : (k.beginChunk).fetchAt = k.fetchAt := by unfold Core.beginChunk; split <;> rfl
@[simp] theorem beginChunk_part (k : Core) : (k.beginChunk).part = k.part := by unfold Core.beginChunk; split <;> rfl
@[simp] theorem beginChunk_launch (k : Core) : (k.beginChunk).launch = k.launch := by unfold Core.beginChunk; split <;> rfl
@[simp] theorem keepPrio_arch (k : Core) : (k.keepPrio).arch = k.arch := rfl
@[simp] theorem keepPrio_istore (k : Core) : (k.keepPrio).istore = k.istore := rfl
@[simp] theorem keepPrio_run (k : Core) : (k.keepPrio).run = k.run := rfl
@[simp] theorem keepPrio_wait (k : Core) : (k.keepPrio).wait = k.wait := rfl
@[simp] theorem keepPrio_ilen (k : Core) : (k.keepPrio).ilen = k.ilen := rfl
@[simp] theorem keepPrio_seq (k : Core) : (k.keepPrio).seq = k.seq := rfl
@[simp] theorem keepPrio_nextChunk (k : Core) : (k.keepPrio).nextChunk = k.nextChunk := rfl
@[simp] theorem keepPrio_cutNext (k : Core) : (k.keepPrio).cutNext = k.cutNext := rfl
@[simp] theorem keepPrio_await (k : Core) : (k.keepPrio).await = k.await := rfl
@[simp] theorem keepPrio_squashes (k : Core) : (k.keepPrio).squashes = k.squashes := rfl
@[simp] theorem keepPrio_pend (k : Core) : (k.keepPrio).pend = k.pend := rfl
@[simp] theorem keepPrio_chans (k : Core) : (k.keepPrio).chans = k.chans := rfl
@[simp] theorem keepPrio_deferred (k : Core) : (k.keepPrio).deferred = k.deferred := rfl
@[simp] theorem keepPrio_z (k : Core) : (k.keepPrio).z = k.z := rfl
@[simp] theorem keepPrio_zOld (k : Core) : (k.keepPrio).zOld = k.zOld := rfl
@[simp] theorem keepPrio_power (k : Core) : (k.keepPrio).power = k.power := rfl
@[simp] theorem keepPrio_arb (k : Core) : (k.keepPrio).arb = k.arb := rfl
@[simp] theorem keepPrio_q2 (k : Core) : (k.keepPrio).q2 = k.q2 := rfl
@[simp] theorem keepPrio_copy (k : Core) : (k.keepPrio).copy = k.copy := rfl
@[simp] theorem keepPrio_plan (k : Core) : (k.keepPrio).plan = k.plan := rfl
@[simp] theorem keepPrio_planAt (k : Core) : (k.keepPrio).planAt = k.planAt := rfl
@[simp] theorem keepPrio_q4 (k : Core) : (k.keepPrio).q4 = k.q4 := rfl
@[simp] theorem keepPrio_slice (k : Core) : (k.keepPrio).slice = k.slice := rfl
@[simp] theorem keepPrio_bypass (k : Core) : (k.keepPrio).bypass = k.bypass := rfl
@[simp] theorem keepPrio_q6 (k : Core) : (k.keepPrio).q6 = k.q6 := rfl
@[simp] theorem keepPrio_rcmd (k : Core) : (k.keepPrio).rcmd = k.rcmd := rfl
@[simp] theorem keepPrio_entries (k : Core) : (k.keepPrio).entries = k.entries := rfl
@[simp] theorem keepPrio_lostCids (k : Core) : (k.keepPrio).lostCids = k.lostCids := rfl
@[simp] theorem keepPrio_saveBuf (k : Core) : (k.keepPrio).saveBuf = k.saveBuf := rfl
@[simp] theorem keepPrio_flushed (k : Core) : (k.keepPrio).flushed = k.flushed := rfl
@[simp] theorem keepPrio_dbg (k : Core) : (k.keepPrio).dbg = k.dbg := rfl
@[simp] theorem keepPrio_poison (k : Core) : (k.keepPrio).poison = k.poison := rfl
@[simp] theorem keepPrio_errs (k : Core) : (k.keepPrio).errs = k.errs := rfl
@[simp] theorem keepPrio_progress (k : Core) : (k.keepPrio).progress = k.progress := rfl
@[simp] theorem keepPrio_paid (k : Core) : (k.keepPrio).paid = k.paid := rfl
@[simp] theorem keepPrio_fetchAt (k : Core) : (k.keepPrio).fetchAt = k.fetchAt := rfl
@[simp] theorem keepPrio_part (k : Core) : (k.keepPrio).part = k.part := rfl
@[simp] theorem keepPrio_launch (k : Core) : (k.keepPrio).launch = k.launch := rfl
@[simp] theorem keepPrio_chunks (k : Core) : (k.keepPrio).chunks = k.chunks := rfl
@[simp] theorem endChunk_arch (k : Core) : (k.endChunk).arch = k.arch := by simp only [Core.endChunk, keepPrio_arch]; split <;> first | rfl | (split <;> simp)
@[simp] theorem endChunk_istore (k : Core) : (k.endChunk).istore = k.istore := by simp only [Core.endChunk, keepPrio_istore]; split <;> first | rfl | (split <;> simp)
@[simp] theorem endChunk_run (k : Core) : (k.endChunk).run = k.run := by simp only [Core.endChunk, keepPrio_run]; split <;> first | rfl | (split <;> simp)
@[simp] theorem endChunk_wait (k : Core) : (k.endChunk).wait = k.wait := by simp only [Core.endChunk, keepPrio_wait]; split <;> first | rfl | (split <;> simp)
@[simp] theorem endChunk_ilen (k : Core) : (k.endChunk).ilen = k.ilen := by simp only [Core.endChunk, keepPrio_ilen]; split <;> first | rfl | (split <;> simp)
@[simp] theorem endChunk_seq (k : Core) : (k.endChunk).seq = k.seq := by simp only [Core.endChunk, keepPrio_seq]; split <;> first | rfl | (split <;> simp)
@[simp] theorem endChunk_nextChunk (k : Core) : (k.endChunk).nextChunk = k.nextChunk := by simp only [Core.endChunk, keepPrio_nextChunk]; split <;> first | rfl | (split <;> simp)
@[simp] theorem endChunk_cutNext (k : Core) : (k.endChunk).cutNext = k.cutNext := by simp only [Core.endChunk, keepPrio_cutNext]; split <;> first | rfl | (split <;> simp)
@[simp] theorem endChunk_await (k : Core) : (k.endChunk).await = k.await := by simp only [Core.endChunk, keepPrio_await]; split <;> first | rfl | (split <;> simp)
@[simp] theorem endChunk_squashes (k : Core) : (k.endChunk).squashes = k.squashes := by simp only [Core.endChunk, keepPrio_squashes]; split <;> first | rfl | (split <;> simp)
@[simp] theorem endChunk_pend (k : Core) : (k.endChunk).pend = k.pend := by simp only [Core.endChunk, keepPrio_pend]; split <;> first | rfl | (split <;> simp)
@[simp] theorem endChunk_chans (k : Core) : (k.endChunk).chans = k.chans := by simp only [Core.endChunk, keepPrio_chans]; split <;> first | rfl | (split <;> simp)
@[simp] theorem endChunk_deferred (k : Core) : (k.endChunk).deferred = k.deferred := by simp only [Core.endChunk, keepPrio_deferred]; split <;> first | rfl | (split <;> simp)
@[simp] theorem endChunk_z (k : Core) : (k.endChunk).z = k.z := by simp only [Core.endChunk, keepPrio_z]; split <;> first | rfl | (split <;> simp)
@[simp] theorem endChunk_zOld (k : Core) : (k.endChunk).zOld = k.zOld := by simp only [Core.endChunk, keepPrio_zOld]; split <;> first | rfl | (split <;> simp)
@[simp] theorem endChunk_power (k : Core) : (k.endChunk).power = k.power := by simp only [Core.endChunk, keepPrio_power]; split <;> first | rfl | (split <;> simp)
@[simp] theorem endChunk_arb (k : Core) : (k.endChunk).arb = k.arb := by simp only [Core.endChunk, keepPrio_arb]; split <;> first | rfl | (split <;> simp)
@[simp] theorem endChunk_q2 (k : Core) : (k.endChunk).q2 = k.q2 := by simp only [Core.endChunk, keepPrio_q2]; split <;> first | rfl | (split <;> simp)
@[simp] theorem endChunk_copy (k : Core) : (k.endChunk).copy = k.copy := by simp only [Core.endChunk, keepPrio_copy]; split <;> first | rfl | (split <;> simp)
@[simp] theorem endChunk_plan (k : Core) : (k.endChunk).plan = k.plan := by simp only [Core.endChunk, keepPrio_plan]; split <;> first | rfl | (split <;> simp)
@[simp] theorem endChunk_planAt (k : Core) : (k.endChunk).planAt = k.planAt := by simp only [Core.endChunk, keepPrio_planAt]; split <;> first | rfl | (split <;> simp)
@[simp] theorem endChunk_q4 (k : Core) : (k.endChunk).q4 = k.q4 := by simp only [Core.endChunk, keepPrio_q4]; split <;> first | rfl | (split <;> simp)
@[simp] theorem endChunk_slice (k : Core) : (k.endChunk).slice = k.slice := by simp only [Core.endChunk, keepPrio_slice]; split <;> first | rfl | (split <;> simp)
@[simp] theorem endChunk_bypass (k : Core) : (k.endChunk).bypass = k.bypass := by simp only [Core.endChunk, keepPrio_bypass]; split <;> first | rfl | (split <;> simp)
@[simp] theorem endChunk_q6 (k : Core) : (k.endChunk).q6 = k.q6 := by simp only [Core.endChunk, keepPrio_q6]; split <;> first | rfl | (split <;> simp)
@[simp] theorem endChunk_rcmd (k : Core) : (k.endChunk).rcmd = k.rcmd := by simp only [Core.endChunk, keepPrio_rcmd]; split <;> first | rfl | (split <;> simp)
@[simp] theorem endChunk_entries (k : Core) : (k.endChunk).entries = k.entries := by simp only [Core.endChunk, keepPrio_entries]; split <;> first | rfl | (split <;> simp)
@[simp] theorem endChunk_lostCids (k : Core) : (k.endChunk).lostCids = k.lostCids := by simp only [Core.endChunk, keepPrio_lostCids]; split <;> first | rfl | (split <;> simp)
@[simp] theorem endChunk_saveBuf (k : Core) : (k.endChunk).saveBuf = k.saveBuf := by simp only [Core.endChunk, keepPrio_saveBuf]; split <;> first | rfl | (split <;> simp)
@[simp] theorem endChunk_flushed (k : Core) : (k.endChunk).flushed = k.flushed := by simp only [Core.endChunk, keepPrio_flushed]; split <;> first | rfl | (split <;> simp)
@[simp] theorem endChunk_dbg (k : Core) : (k.endChunk).dbg = k.dbg := by simp only [Core.endChunk, keepPrio_dbg]; split <;> first | rfl | (split <;> simp)
@[simp] theorem endChunk_poison (k : Core) : (k.endChunk).poison = k.poison := by simp only [Core.endChunk, keepPrio_poison]; split <;> first | rfl | (split <;> simp)
@[simp] theorem endChunk_errs (k : Core) : (k.endChunk).errs = k.errs := by simp only [Core.endChunk, keepPrio_errs]; split <;> first | rfl | (split <;> simp)
@[simp] theorem endChunk_progress (k : Core) : (k.endChunk).progress = k.progress := by simp only [Core.endChunk, keepPrio_progress]; split <;> first | rfl | (split <;> simp)
@[simp] theorem endChunk_paid (k : Core) : (k.endChunk).paid = k.paid := by simp only [Core.endChunk, keepPrio_paid]; split <;> first | rfl | (split <;> simp)
@[simp] theorem endChunk_fetchAt (k : Core) : (k.endChunk).fetchAt = k.fetchAt := by simp only [Core.endChunk, keepPrio_fetchAt]; split <;> first | rfl | (split <;> simp)
@[simp] theorem endChunk_part (k : Core) : (k.endChunk).part = k.part := by simp only [Core.endChunk, keepPrio_part]; split <;> first | rfl | (split <;> simp)
@[simp] theorem endChunk_launch (k : Core) : (k.endChunk).launch = k.launch := by simp only [Core.endChunk, keepPrio_launch]; split <;> first | rfl | (split <;> simp)
@[simp] theorem breakRun_arch (k : Core) : (k.breakRun).arch = k.arch := by unfold Core.breakRun; split <;> simp
@[simp] theorem breakRun_istore (k : Core) : (k.breakRun).istore = k.istore := by unfold Core.breakRun; split <;> simp
@[simp] theorem breakRun_run (k : Core) : (k.breakRun).run = k.run := by unfold Core.breakRun; split <;> simp
@[simp] theorem breakRun_wait (k : Core) : (k.breakRun).wait = k.wait := by unfold Core.breakRun; split <;> simp
@[simp] theorem breakRun_ilen (k : Core) : (k.breakRun).ilen = k.ilen := by unfold Core.breakRun; split <;> simp
@[simp] theorem breakRun_seq (k : Core) : (k.breakRun).seq = k.seq := by unfold Core.breakRun; split <;> simp
@[simp] theorem breakRun_nextChunk (k : Core) : (k.breakRun).nextChunk = k.nextChunk := by unfold Core.breakRun; split <;> simp
@[simp] theorem breakRun_cutNext (k : Core) : (k.breakRun).cutNext = k.cutNext := by unfold Core.breakRun; split <;> simp
@[simp] theorem breakRun_await (k : Core) : (k.breakRun).await = k.await := by unfold Core.breakRun; split <;> simp
@[simp] theorem breakRun_squashes (k : Core) : (k.breakRun).squashes = k.squashes := by unfold Core.breakRun; split <;> simp
@[simp] theorem breakRun_pend (k : Core) : (k.breakRun).pend = k.pend := by unfold Core.breakRun; split <;> simp
@[simp] theorem breakRun_chans (k : Core) : (k.breakRun).chans = k.chans := by unfold Core.breakRun; split <;> simp
@[simp] theorem breakRun_deferred (k : Core) : (k.breakRun).deferred = k.deferred := by unfold Core.breakRun; split <;> simp
@[simp] theorem breakRun_z (k : Core) : (k.breakRun).z = k.z := by unfold Core.breakRun; split <;> simp
@[simp] theorem breakRun_zOld (k : Core) : (k.breakRun).zOld = k.zOld := by unfold Core.breakRun; split <;> simp
@[simp] theorem breakRun_power (k : Core) : (k.breakRun).power = k.power := by unfold Core.breakRun; split <;> simp
@[simp] theorem breakRun_arb (k : Core) : (k.breakRun).arb = k.arb := by unfold Core.breakRun; split <;> simp
@[simp] theorem breakRun_q2 (k : Core) : (k.breakRun).q2 = k.q2 := by unfold Core.breakRun; split <;> simp
@[simp] theorem breakRun_copy (k : Core) : (k.breakRun).copy = k.copy := by unfold Core.breakRun; split <;> simp
@[simp] theorem breakRun_plan (k : Core) : (k.breakRun).plan = k.plan := by unfold Core.breakRun; split <;> simp
@[simp] theorem breakRun_planAt (k : Core) : (k.breakRun).planAt = k.planAt := by unfold Core.breakRun; split <;> simp
@[simp] theorem breakRun_q4 (k : Core) : (k.breakRun).q4 = k.q4 := by unfold Core.breakRun; split <;> simp
@[simp] theorem breakRun_slice (k : Core) : (k.breakRun).slice = k.slice := by unfold Core.breakRun; split <;> simp
@[simp] theorem breakRun_bypass (k : Core) : (k.breakRun).bypass = k.bypass := by unfold Core.breakRun; split <;> simp
@[simp] theorem breakRun_q6 (k : Core) : (k.breakRun).q6 = k.q6 := by unfold Core.breakRun; split <;> simp
@[simp] theorem breakRun_rcmd (k : Core) : (k.breakRun).rcmd = k.rcmd := by unfold Core.breakRun; split <;> simp
@[simp] theorem breakRun_entries (k : Core) : (k.breakRun).entries = k.entries := by unfold Core.breakRun; split <;> simp
@[simp] theorem breakRun_lostCids (k : Core) : (k.breakRun).lostCids = k.lostCids := by unfold Core.breakRun; split <;> simp
@[simp] theorem breakRun_saveBuf (k : Core) : (k.breakRun).saveBuf = k.saveBuf := by unfold Core.breakRun; split <;> simp
@[simp] theorem breakRun_flushed (k : Core) : (k.breakRun).flushed = k.flushed := by unfold Core.breakRun; split <;> simp
@[simp] theorem breakRun_dbg (k : Core) : (k.breakRun).dbg = k.dbg := by unfold Core.breakRun; split <;> simp
@[simp] theorem breakRun_poison (k : Core) : (k.breakRun).poison = k.poison := by unfold Core.breakRun; split <;> simp
@[simp] theorem breakRun_errs (k : Core) : (k.breakRun).errs = k.errs := by unfold Core.breakRun; split <;> simp
@[simp] theorem breakRun_progress (k : Core) : (k.breakRun).progress = k.progress := by unfold Core.breakRun; split <;> simp
@[simp] theorem breakRun_paid (k : Core) : (k.breakRun).paid = k.paid := by unfold Core.breakRun; split <;> simp
@[simp] theorem breakRun_fetchAt (k : Core) : (k.breakRun).fetchAt = k.fetchAt := by unfold Core.breakRun; split <;> simp
@[simp] theorem breakRun_part (k : Core) : (k.breakRun).part = k.part := by unfold Core.breakRun; split <;> simp
@[simp] theorem breakRun_launch (k : Core) : (k.breakRun).launch = k.launch := by unfold Core.breakRun; split <;> simp
@[simp] theorem breakRun_prioPc (k : Core) : (k.breakRun).prioPc = k.prioPc := by unfold Core.breakRun; split <;> simp
@[simp] theorem storeLocal_arch_pc (k : Core) (ea n v : Nat) : (k.storeLocal ea n v).arch.pc = k.arch.pc := by unfold Core.storeLocal; split <;> rfl
@[simp] theorem storeLocal_arch_x (k : Core) (ea n v : Nat) : (k.storeLocal ea n v).arch.x = k.arch.x := by unfold Core.storeLocal; split <;> rfl
@[simp] theorem storeLocal_arch_p (k : Core) (ea n v : Nat) : (k.storeLocal ea n v).arch.p = k.arch.p := by unfold Core.storeLocal; split <;> rfl
@[simp] theorem storeLocal_arch_v (k : Core) (ea n v : Nat) : (k.storeLocal ea n v).arch.v = k.arch.v := by unfold Core.storeLocal; split <;> rfl
@[simp] theorem storeLocal_arch_live (k : Core) (ea n v : Nat) : (k.storeLocal ea n v).arch.live = k.arch.live := by unfold Core.storeLocal; split <;> rfl
@[simp] theorem storeLocal_arch_q0 (k : Core) (ea n v : Nat) : (k.storeLocal ea n v).arch.q0 = k.arch.q0 := by unfold Core.storeLocal; split <;> rfl
@[simp] theorem storeLocal_arch_q1 (k : Core) (ea n v : Nat) : (k.storeLocal ea n v).arch.q1 = k.arch.q1 := by unfold Core.storeLocal; split <;> rfl
@[simp] theorem storeLocal_arch_q3 (k : Core) (ea n v : Nat) : (k.storeLocal ea n v).arch.q3 = k.arch.q3 := by unfold Core.storeLocal; split <;> rfl
@[simp] theorem storeLocal_arch_q5 (k : Core) (ea n v : Nat) : (k.storeLocal ea n v).arch.q5 = k.arch.q5 := by unfold Core.storeLocal; split <;> rfl
@[simp] theorem storeLocal_arch_q7 (k : Core) (ea n v : Nat) : (k.storeLocal ea n v).arch.q7 = k.arch.q7 := by unfold Core.storeLocal; split <;> rfl
@[simp] theorem storeLocal_arch_owed (k : Core) (ea n v : Nat) : (k.storeLocal ea n v).arch.owed = k.arch.owed := by unfold Core.storeLocal; split <;> rfl
@[simp] theorem storeLocal_arch_empties (k : Core) (ea n v : Nat) : (k.storeLocal ea n v).arch.empties = k.arch.empties := by unfold Core.storeLocal; split <;> rfl
@[simp] theorem storeLocal_arch_loop0 (k : Core) (ea n v : Nat) : (k.storeLocal ea n v).arch.loop0 = k.arch.loop0 := by unfold Core.storeLocal; split <;> rfl
@[simp] theorem storeLocal_arch_loop1 (k : Core) (ea n v : Nat) : (k.storeLocal ea n v).arch.loop1 = k.arch.loop1 := by unfold Core.storeLocal; split <;> rfl
@[simp] theorem storeLocal_arch_tvec (k : Core) (ea n v : Nat) : (k.storeLocal ea n v).arch.tvec = k.arch.tvec := by unfold Core.storeLocal; split <;> rfl
@[simp] theorem storeLocal_arch_tcause (k : Core) (ea n v : Nat) : (k.storeLocal ea n v).arch.tcause = k.arch.tcause := by unfold Core.storeLocal; split <;> rfl
@[simp] theorem storeLocal_arch_tpc (k : Core) (ea n v : Nat) : (k.storeLocal ea n v).arch.tpc = k.arch.tpc := by unfold Core.storeLocal; split <;> rfl
@[simp] theorem storeLocal_arch_tval (k : Core) (ea n v : Nat) : (k.storeLocal ea n v).arch.tval = k.arch.tval := by unfold Core.storeLocal; split <;> rfl
@[simp] theorem storeLocal_arch_tsave (k : Core) (ea n v : Nat) : (k.storeLocal ea n v).arch.tsave = k.arch.tsave := by unfold Core.storeLocal; split <;> rfl
@[simp] theorem storeLocal_arch_ids (k : Core) (ea n v : Nat) : (k.storeLocal ea n v).arch.ids = k.arch.ids := by unfold Core.storeLocal; split <;> rfl
@[simp] theorem storeLocal_arch_shape (k : Core) (ea n v : Nat) : (k.storeLocal ea n v).arch.shape = k.arch.shape := by unfold Core.storeLocal; split <;> rfl
@[simp] theorem storeLocal_arch_tmode (k : Core) (ea n v : Nat) : (k.storeLocal ea n v).arch.tmode = k.arch.tmode := by unfold Core.storeLocal; split <;> rfl
@[simp] theorem storeLocal_arch_amax (k : Core) (ea n v : Nat) : (k.storeLocal ea n v).arch.amax = k.arch.amax := by unfold Core.storeLocal; split <;> rfl
@[simp] theorem storeLocal_arch_amaxf (k : Core) (ea n v : Nat) : (k.storeLocal ea n v).arch.amaxf = k.arch.amaxf := by unfold Core.storeLocal; split <;> rfl
@[simp] theorem storeLocal_arch_perm (k : Core) (ea n v : Nat) : (k.storeLocal ea n v).arch.perm = k.arch.perm := by unfold Core.storeLocal; split <;> rfl
@[simp] theorem storeLocal_arch_permT (k : Core) (ea n v : Nat) : (k.storeLocal ea n v).arch.permT = k.arch.permT := by unfold Core.storeLocal; split <;> rfl
@[simp] theorem storeLocal_arch_gang (k : Core) (ea n v : Nat) : (k.storeLocal ea n v).arch.gang = k.arch.gang := by unfold Core.storeLocal; split <;> rfl
@[simp] theorem storeLocal_arch_accmode (k : Core) (ea n v : Nat) : (k.storeLocal ea n v).arch.accmode = k.arch.accmode := by unfold Core.storeLocal; split <;> rfl
@[simp] theorem storeLocal_arch_bm (k : Core) (ea n v : Nat) : (k.storeLocal ea n v).arch.bm = k.arch.bm := by unfold Core.storeLocal; split <;> rfl
@[simp] theorem storeLocal_arch_chcfg (k : Core) (ea n v : Nat) : (k.storeLocal ea n v).arch.chcfg = k.arch.chcfg := by unfold Core.storeLocal; split <;> rfl
@[simp] theorem storeLocal_arch_stashCfg (k : Core) (ea n v : Nat) : (k.storeLocal ea n v).arch.stashCfg = k.arch.stashCfg := by unfold Core.storeLocal; split <;> rfl
@[simp] theorem storeLocal_arch_sw (k : Core) (ea n v : Nat) : (k.storeLocal ea n v).arch.sw = k.arch.sw := by unfold Core.storeLocal; split <;> rfl
@[simp] theorem storeLocal_arch_chunkLim (k : Core) (ea n v : Nat) : (k.storeLocal ea n v).arch.chunkLim = k.arch.chunkLim := by unfold Core.storeLocal; split <;> rfl
@[simp] theorem storeLocal_arch_waitcfg (k : Core) (ea n v : Nat) : (k.storeLocal ea n v).arch.waitcfg = k.arch.waitcfg := by unfold Core.storeLocal; split <;> rfl
@[simp] theorem storeLocal_arch_sparked (k : Core) (ea n v : Nat) : (k.storeLocal ea n v).arch.sparked = k.arch.sparked := by unfold Core.storeLocal; split <;> rfl
@[simp] theorem storeLocal_arch_rings (k : Core) (ea n v : Nat) : (k.storeLocal ea n v).arch.rings = k.arch.rings := by unfold Core.storeLocal; split <;> rfl
@[simp] theorem storeLocal_arch_tables (k : Core) (ea n v : Nat) : (k.storeLocal ea n v).arch.tables = k.arch.tables := by unfold Core.storeLocal; split <;> rfl
@[simp] theorem storeLocal_arch_mark (k : Core) (ea n v : Nat) : (k.storeLocal ea n v).arch.mark = k.arch.mark := by unfold Core.storeLocal; split <;> rfl
@[simp] theorem storeLocal_arch_views (k : Core) (ea n v : Nat) : (k.storeLocal ea n v).arch.views = k.arch.views := by unfold Core.storeLocal; split <;> rfl
@[simp] theorem storeLocal_arch_gwrites (k : Core) (ea n v : Nat) : (k.storeLocal ea n v).arch.gwrites = k.arch.gwrites := by unfold Core.storeLocal; split <;> rfl
@[simp] theorem storeLocal_arch_recent (k : Core) (ea n v : Nat) : (k.storeLocal ea n v).arch.recent = k.arch.recent := by unfold Core.storeLocal; split <;> rfl
@[simp] theorem storeLocal_arch_pushes (k : Core) (ea n v : Nat) : (k.storeLocal ea n v).arch.pushes = k.arch.pushes := by unfold Core.storeLocal; split <;> rfl
@[simp] theorem storeLocal_arch_redo (k : Core) (ea n v : Nat) : (k.storeLocal ea n v).arch.redo = k.arch.redo := by unfold Core.storeLocal; split <;> rfl
@[simp] theorem passEntry_pc (a : Arch) : a.passEntry.pc = a.pc := rfl
@[simp] theorem passEntry_x (a : Arch) : a.passEntry.x = a.x := rfl
@[simp] theorem passEntry_p (a : Arch) : a.passEntry.p = a.p := rfl
@[simp] theorem passEntry_v (a : Arch) : a.passEntry.v = a.v := rfl
@[simp] theorem passEntry_live (a : Arch) : a.passEntry.live = a.live := rfl
@[simp] theorem passEntry_q0 (a : Arch) : a.passEntry.q0 = a.q0 := rfl
@[simp] theorem passEntry_q1 (a : Arch) : a.passEntry.q1 = a.q1 := rfl
@[simp] theorem passEntry_q3 (a : Arch) : a.passEntry.q3 = a.q3 := rfl
@[simp] theorem passEntry_q5 (a : Arch) : a.passEntry.q5 = a.q5 := rfl
@[simp] theorem passEntry_q7 (a : Arch) : a.passEntry.q7 = a.q7 := rfl
@[simp] theorem passEntry_owed (a : Arch) : a.passEntry.owed = a.owed := rfl
@[simp] theorem passEntry_empties (a : Arch) : a.passEntry.empties = a.empties := rfl
@[simp] theorem passEntry_loop0 (a : Arch) : a.passEntry.loop0 = a.loop0 := rfl
@[simp] theorem passEntry_loop1 (a : Arch) : a.passEntry.loop1 = a.loop1 := rfl
@[simp] theorem passEntry_tvec (a : Arch) : a.passEntry.tvec = a.tvec := rfl
@[simp] theorem passEntry_tcause (a : Arch) : a.passEntry.tcause = a.tcause := rfl
@[simp] theorem passEntry_tpc (a : Arch) : a.passEntry.tpc = a.tpc := rfl
@[simp] theorem passEntry_tval (a : Arch) : a.passEntry.tval = a.tval := rfl
@[simp] theorem passEntry_tsave (a : Arch) : a.passEntry.tsave = a.tsave := rfl
@[simp] theorem passEntry_ids (a : Arch) : a.passEntry.ids = a.ids := rfl
@[simp] theorem passEntry_shape (a : Arch) : a.passEntry.shape = a.shape := rfl
@[simp] theorem passEntry_tmode (a : Arch) : a.passEntry.tmode = a.tmode := rfl
@[simp] theorem passEntry_amax (a : Arch) : a.passEntry.amax = a.amax := rfl
@[simp] theorem passEntry_amaxf (a : Arch) : a.passEntry.amaxf = a.amaxf := rfl
@[simp] theorem passEntry_perm (a : Arch) : a.passEntry.perm = a.perm := rfl
@[simp] theorem passEntry_permT (a : Arch) : a.passEntry.permT = a.permT := rfl
@[simp] theorem passEntry_gang (a : Arch) : a.passEntry.gang = a.gang := rfl
@[simp] theorem passEntry_accmode (a : Arch) : a.passEntry.accmode = a.accmode := rfl
@[simp] theorem passEntry_bm (a : Arch) : a.passEntry.bm = a.bm := rfl
@[simp] theorem passEntry_chcfg (a : Arch) : a.passEntry.chcfg = a.chcfg := rfl
@[simp] theorem passEntry_stashCfg (a : Arch) : a.passEntry.stashCfg = a.stashCfg := rfl
@[simp] theorem passEntry_sw (a : Arch) : a.passEntry.sw = a.sw := rfl
@[simp] theorem passEntry_chunkLim (a : Arch) : a.passEntry.chunkLim = a.chunkLim := rfl
@[simp] theorem passEntry_waitcfg (a : Arch) : a.passEntry.waitcfg = a.waitcfg := rfl
@[simp] theorem passEntry_sparked (a : Arch) : a.passEntry.sparked = a.sparked := rfl
@[simp] theorem passEntry_rings (a : Arch) : a.passEntry.rings = a.rings := rfl
@[simp] theorem passEntry_tables (a : Arch) : a.passEntry.tables = a.tables := rfl
@[simp] theorem passEntry_mark (a : Arch) : a.passEntry.mark = a.mark := rfl
@[simp] theorem passEntry_views (a : Arch) : a.passEntry.views = a.views := rfl
@[simp] theorem passEntry_gwrites (a : Arch) : a.passEntry.gwrites = a.gwrites := rfl
@[simp] theorem passEntry_recent (a : Arch) : a.passEntry.recent = a.recent := rfl
@[simp] theorem passEntry_pushes (a : Arch) : a.passEntry.pushes = a.pushes := rfl
@[simp] theorem passEntry_redo (a : Arch) : a.passEntry.redo = a.redo := rfl
@[simp] theorem storeLocal_istore (k : Core) (ea n v : Nat) : (k.storeLocal ea n v).istore = k.istore := by unfold Core.storeLocal; split <;> rfl
@[simp] theorem storeLocal_run (k : Core) (ea n v : Nat) : (k.storeLocal ea n v).run = k.run := by unfold Core.storeLocal; split <;> rfl
@[simp] theorem storeLocal_wait (k : Core) (ea n v : Nat) : (k.storeLocal ea n v).wait = k.wait := by unfold Core.storeLocal; split <;> rfl
@[simp] theorem storeLocal_ilen (k : Core) (ea n v : Nat) : (k.storeLocal ea n v).ilen = k.ilen := by unfold Core.storeLocal; split <;> rfl
@[simp] theorem storeLocal_seq (k : Core) (ea n v : Nat) : (k.storeLocal ea n v).seq = k.seq := by unfold Core.storeLocal; split <;> rfl
@[simp] theorem storeLocal_chunks (k : Core) (ea n v : Nat) : (k.storeLocal ea n v).chunks = k.chunks := by unfold Core.storeLocal; split <;> rfl
@[simp] theorem storeLocal_nextChunk (k : Core) (ea n v : Nat) : (k.storeLocal ea n v).nextChunk = k.nextChunk := by unfold Core.storeLocal; split <;> rfl
@[simp] theorem storeLocal_cutNext (k : Core) (ea n v : Nat) : (k.storeLocal ea n v).cutNext = k.cutNext := by unfold Core.storeLocal; split <;> rfl
@[simp] theorem storeLocal_await (k : Core) (ea n v : Nat) : (k.storeLocal ea n v).await = k.await := by unfold Core.storeLocal; split <;> rfl
@[simp] theorem storeLocal_squashes (k : Core) (ea n v : Nat) : (k.storeLocal ea n v).squashes = k.squashes := by unfold Core.storeLocal; split <;> rfl
@[simp] theorem storeLocal_prioPc (k : Core) (ea n v : Nat) : (k.storeLocal ea n v).prioPc = k.prioPc := by unfold Core.storeLocal; split <;> rfl
@[simp] theorem storeLocal_pend (k : Core) (ea n v : Nat) : (k.storeLocal ea n v).pend = k.pend := by unfold Core.storeLocal; split <;> rfl
@[simp] theorem storeLocal_chans (k : Core) (ea n v : Nat) : (k.storeLocal ea n v).chans = k.chans := by unfold Core.storeLocal; split <;> rfl
@[simp] theorem storeLocal_deferred (k : Core) (ea n v : Nat) : (k.storeLocal ea n v).deferred = k.deferred := by unfold Core.storeLocal; split <;> rfl
@[simp] theorem storeLocal_z (k : Core) (ea n v : Nat) : (k.storeLocal ea n v).z = k.z := by unfold Core.storeLocal; split <;> rfl
@[simp] theorem storeLocal_zOld (k : Core) (ea n v : Nat) : (k.storeLocal ea n v).zOld = k.zOld := by unfold Core.storeLocal; split <;> rfl
@[simp] theorem storeLocal_power (k : Core) (ea n v : Nat) : (k.storeLocal ea n v).power = k.power := by unfold Core.storeLocal; split <;> rfl
@[simp] theorem storeLocal_arb (k : Core) (ea n v : Nat) : (k.storeLocal ea n v).arb = k.arb := by unfold Core.storeLocal; split <;> rfl
@[simp] theorem storeLocal_q2 (k : Core) (ea n v : Nat) : (k.storeLocal ea n v).q2 = k.q2 := by unfold Core.storeLocal; split <;> rfl
@[simp] theorem storeLocal_copy (k : Core) (ea n v : Nat) : (k.storeLocal ea n v).copy = k.copy := by unfold Core.storeLocal; split <;> rfl
@[simp] theorem storeLocal_plan (k : Core) (ea n v : Nat) : (k.storeLocal ea n v).plan = k.plan := by unfold Core.storeLocal; split <;> rfl
@[simp] theorem storeLocal_planAt (k : Core) (ea n v : Nat) : (k.storeLocal ea n v).planAt = k.planAt := by unfold Core.storeLocal; split <;> rfl
@[simp] theorem storeLocal_q4 (k : Core) (ea n v : Nat) : (k.storeLocal ea n v).q4 = k.q4 := by unfold Core.storeLocal; split <;> rfl
@[simp] theorem storeLocal_slice (k : Core) (ea n v : Nat) : (k.storeLocal ea n v).slice = k.slice := by unfold Core.storeLocal; split <;> rfl
@[simp] theorem storeLocal_bypass (k : Core) (ea n v : Nat) : (k.storeLocal ea n v).bypass = k.bypass := by unfold Core.storeLocal; split <;> rfl
@[simp] theorem storeLocal_q6 (k : Core) (ea n v : Nat) : (k.storeLocal ea n v).q6 = k.q6 := by unfold Core.storeLocal; split <;> rfl
@[simp] theorem storeLocal_rcmd (k : Core) (ea n v : Nat) : (k.storeLocal ea n v).rcmd = k.rcmd := by unfold Core.storeLocal; split <;> rfl
@[simp] theorem storeLocal_entries (k : Core) (ea n v : Nat) : (k.storeLocal ea n v).entries = k.entries := by unfold Core.storeLocal; split <;> rfl
@[simp] theorem storeLocal_lostCids (k : Core) (ea n v : Nat) : (k.storeLocal ea n v).lostCids = k.lostCids := by unfold Core.storeLocal; split <;> rfl
@[simp] theorem storeLocal_saveBuf (k : Core) (ea n v : Nat) : (k.storeLocal ea n v).saveBuf = k.saveBuf := by unfold Core.storeLocal; split <;> rfl
@[simp] theorem storeLocal_flushed (k : Core) (ea n v : Nat) : (k.storeLocal ea n v).flushed = k.flushed := by unfold Core.storeLocal; split <;> rfl
@[simp] theorem storeLocal_dbg (k : Core) (ea n v : Nat) : (k.storeLocal ea n v).dbg = k.dbg := by unfold Core.storeLocal; split <;> rfl
@[simp] theorem storeLocal_errs (k : Core) (ea n v : Nat) : (k.storeLocal ea n v).errs = k.errs := by unfold Core.storeLocal; split <;> rfl
@[simp] theorem storeLocal_progress (k : Core) (ea n v : Nat) : (k.storeLocal ea n v).progress = k.progress := by unfold Core.storeLocal; split <;> rfl
@[simp] theorem storeLocal_paid (k : Core) (ea n v : Nat) : (k.storeLocal ea n v).paid = k.paid := by unfold Core.storeLocal; split <;> rfl
@[simp] theorem storeLocal_fetchAt (k : Core) (ea n v : Nat) : (k.storeLocal ea n v).fetchAt = k.fetchAt := by unfold Core.storeLocal; split <;> rfl
@[simp] theorem storeLocal_part (k : Core) (ea n v : Nat) : (k.storeLocal ea n v).part = k.part := by unfold Core.storeLocal; split <;> rfl
@[simp] theorem storeLocal_launch (k : Core) (ea n v : Nat) : (k.storeLocal ea n v).launch = k.launch := by unfold Core.storeLocal; split <;> rfl
@[simp] theorem onChunk_arch (k : Core) (id : Nat) (f : Chunk → Chunk) : (k.onChunk id f).arch = k.arch := rfl
@[simp] theorem onChunk_istore (k : Core) (id : Nat) (f : Chunk → Chunk) : (k.onChunk id f).istore = k.istore := rfl
@[simp] theorem onChunk_run (k : Core) (id : Nat) (f : Chunk → Chunk) : (k.onChunk id f).run = k.run := rfl
@[simp] theorem onChunk_wait (k : Core) (id : Nat) (f : Chunk → Chunk) : (k.onChunk id f).wait = k.wait := rfl
@[simp] theorem onChunk_ilen (k : Core) (id : Nat) (f : Chunk → Chunk) : (k.onChunk id f).ilen = k.ilen := rfl
@[simp] theorem onChunk_seq (k : Core) (id : Nat) (f : Chunk → Chunk) : (k.onChunk id f).seq = k.seq := rfl
@[simp] theorem onChunk_nextChunk (k : Core) (id : Nat) (f : Chunk → Chunk) : (k.onChunk id f).nextChunk = k.nextChunk := rfl
@[simp] theorem onChunk_cutNext (k : Core) (id : Nat) (f : Chunk → Chunk) : (k.onChunk id f).cutNext = k.cutNext := rfl
@[simp] theorem onChunk_await (k : Core) (id : Nat) (f : Chunk → Chunk) : (k.onChunk id f).await = k.await := rfl
@[simp] theorem onChunk_squashes (k : Core) (id : Nat) (f : Chunk → Chunk) : (k.onChunk id f).squashes = k.squashes := rfl
@[simp] theorem onChunk_prioPc (k : Core) (id : Nat) (f : Chunk → Chunk) : (k.onChunk id f).prioPc = k.prioPc := rfl
@[simp] theorem onChunk_pend (k : Core) (id : Nat) (f : Chunk → Chunk) : (k.onChunk id f).pend = k.pend := rfl
@[simp] theorem onChunk_chans (k : Core) (id : Nat) (f : Chunk → Chunk) : (k.onChunk id f).chans = k.chans := rfl
@[simp] theorem onChunk_deferred (k : Core) (id : Nat) (f : Chunk → Chunk) : (k.onChunk id f).deferred = k.deferred := rfl
@[simp] theorem onChunk_z (k : Core) (id : Nat) (f : Chunk → Chunk) : (k.onChunk id f).z = k.z := rfl
@[simp] theorem onChunk_zOld (k : Core) (id : Nat) (f : Chunk → Chunk) : (k.onChunk id f).zOld = k.zOld := rfl
@[simp] theorem onChunk_power (k : Core) (id : Nat) (f : Chunk → Chunk) : (k.onChunk id f).power = k.power := rfl
@[simp] theorem onChunk_arb (k : Core) (id : Nat) (f : Chunk → Chunk) : (k.onChunk id f).arb = k.arb := rfl
@[simp] theorem onChunk_q2 (k : Core) (id : Nat) (f : Chunk → Chunk) : (k.onChunk id f).q2 = k.q2 := rfl
@[simp] theorem onChunk_copy (k : Core) (id : Nat) (f : Chunk → Chunk) : (k.onChunk id f).copy = k.copy := rfl
@[simp] theorem onChunk_plan (k : Core) (id : Nat) (f : Chunk → Chunk) : (k.onChunk id f).plan = k.plan := rfl
@[simp] theorem onChunk_planAt (k : Core) (id : Nat) (f : Chunk → Chunk) : (k.onChunk id f).planAt = k.planAt := rfl
@[simp] theorem onChunk_q4 (k : Core) (id : Nat) (f : Chunk → Chunk) : (k.onChunk id f).q4 = k.q4 := rfl
@[simp] theorem onChunk_slice (k : Core) (id : Nat) (f : Chunk → Chunk) : (k.onChunk id f).slice = k.slice := rfl
@[simp] theorem onChunk_bypass (k : Core) (id : Nat) (f : Chunk → Chunk) : (k.onChunk id f).bypass = k.bypass := rfl
@[simp] theorem onChunk_q6 (k : Core) (id : Nat) (f : Chunk → Chunk) : (k.onChunk id f).q6 = k.q6 := rfl
@[simp] theorem onChunk_rcmd (k : Core) (id : Nat) (f : Chunk → Chunk) : (k.onChunk id f).rcmd = k.rcmd := rfl
@[simp] theorem onChunk_entries (k : Core) (id : Nat) (f : Chunk → Chunk) : (k.onChunk id f).entries = k.entries := rfl
@[simp] theorem onChunk_lostCids (k : Core) (id : Nat) (f : Chunk → Chunk) : (k.onChunk id f).lostCids = k.lostCids := rfl
@[simp] theorem onChunk_saveBuf (k : Core) (id : Nat) (f : Chunk → Chunk) : (k.onChunk id f).saveBuf = k.saveBuf := rfl
@[simp] theorem onChunk_flushed (k : Core) (id : Nat) (f : Chunk → Chunk) : (k.onChunk id f).flushed = k.flushed := rfl
@[simp] theorem onChunk_dbg (k : Core) (id : Nat) (f : Chunk → Chunk) : (k.onChunk id f).dbg = k.dbg := rfl
@[simp] theorem onChunk_poison (k : Core) (id : Nat) (f : Chunk → Chunk) : (k.onChunk id f).poison = k.poison := rfl
@[simp] theorem onChunk_errs (k : Core) (id : Nat) (f : Chunk → Chunk) : (k.onChunk id f).errs = k.errs := rfl
@[simp] theorem onChunk_progress (k : Core) (id : Nat) (f : Chunk → Chunk) : (k.onChunk id f).progress = k.progress := rfl
@[simp] theorem onChunk_paid (k : Core) (id : Nat) (f : Chunk → Chunk) : (k.onChunk id f).paid = k.paid := rfl
@[simp] theorem onChunk_fetchAt (k : Core) (id : Nat) (f : Chunk → Chunk) : (k.onChunk id f).fetchAt = k.fetchAt := rfl
@[simp] theorem onChunk_part (k : Core) (id : Nat) (f : Chunk → Chunk) : (k.onChunk id f).part = k.part := rfl
@[simp] theorem onChunk_launch (k : Core) (id : Nat) (f : Chunk → Chunk) : (k.onChunk id f).launch = k.launch := rfl
@[simp] theorem noteRead_arch (k : Core) (id : Nat) (sp gl : List Nat) : (k.noteRead id sp gl).arch = k.arch := rfl
@[simp] theorem noteRead_istore (k : Core) (id : Nat) (sp gl : List Nat) : (k.noteRead id sp gl).istore = k.istore := rfl
@[simp] theorem noteRead_run (k : Core) (id : Nat) (sp gl : List Nat) : (k.noteRead id sp gl).run = k.run := rfl
@[simp] theorem noteRead_wait (k : Core) (id : Nat) (sp gl : List Nat) : (k.noteRead id sp gl).wait = k.wait := rfl
@[simp] theorem noteRead_ilen (k : Core) (id : Nat) (sp gl : List Nat) : (k.noteRead id sp gl).ilen = k.ilen := rfl
@[simp] theorem noteRead_seq (k : Core) (id : Nat) (sp gl : List Nat) : (k.noteRead id sp gl).seq = k.seq := rfl
@[simp] theorem noteRead_nextChunk (k : Core) (id : Nat) (sp gl : List Nat) : (k.noteRead id sp gl).nextChunk = k.nextChunk := rfl
@[simp] theorem noteRead_cutNext (k : Core) (id : Nat) (sp gl : List Nat) : (k.noteRead id sp gl).cutNext = k.cutNext := rfl
@[simp] theorem noteRead_await (k : Core) (id : Nat) (sp gl : List Nat) : (k.noteRead id sp gl).await = k.await := rfl
@[simp] theorem noteRead_squashes (k : Core) (id : Nat) (sp gl : List Nat) : (k.noteRead id sp gl).squashes = k.squashes := rfl
@[simp] theorem noteRead_prioPc (k : Core) (id : Nat) (sp gl : List Nat) : (k.noteRead id sp gl).prioPc = k.prioPc := rfl
@[simp] theorem noteRead_pend (k : Core) (id : Nat) (sp gl : List Nat) : (k.noteRead id sp gl).pend = k.pend := rfl
@[simp] theorem noteRead_chans (k : Core) (id : Nat) (sp gl : List Nat) : (k.noteRead id sp gl).chans = k.chans := rfl
@[simp] theorem noteRead_deferred (k : Core) (id : Nat) (sp gl : List Nat) : (k.noteRead id sp gl).deferred = k.deferred := rfl
@[simp] theorem noteRead_z (k : Core) (id : Nat) (sp gl : List Nat) : (k.noteRead id sp gl).z = k.z := rfl
@[simp] theorem noteRead_zOld (k : Core) (id : Nat) (sp gl : List Nat) : (k.noteRead id sp gl).zOld = k.zOld := rfl
@[simp] theorem noteRead_power (k : Core) (id : Nat) (sp gl : List Nat) : (k.noteRead id sp gl).power = k.power := rfl
@[simp] theorem noteRead_arb (k : Core) (id : Nat) (sp gl : List Nat) : (k.noteRead id sp gl).arb = k.arb := rfl
@[simp] theorem noteRead_q2 (k : Core) (id : Nat) (sp gl : List Nat) : (k.noteRead id sp gl).q2 = k.q2 := rfl
@[simp] theorem noteRead_copy (k : Core) (id : Nat) (sp gl : List Nat) : (k.noteRead id sp gl).copy = k.copy := rfl
@[simp] theorem noteRead_plan (k : Core) (id : Nat) (sp gl : List Nat) : (k.noteRead id sp gl).plan = k.plan := rfl
@[simp] theorem noteRead_planAt (k : Core) (id : Nat) (sp gl : List Nat) : (k.noteRead id sp gl).planAt = k.planAt := rfl
@[simp] theorem noteRead_q4 (k : Core) (id : Nat) (sp gl : List Nat) : (k.noteRead id sp gl).q4 = k.q4 := rfl
@[simp] theorem noteRead_slice (k : Core) (id : Nat) (sp gl : List Nat) : (k.noteRead id sp gl).slice = k.slice := rfl
@[simp] theorem noteRead_bypass (k : Core) (id : Nat) (sp gl : List Nat) : (k.noteRead id sp gl).bypass = k.bypass := rfl
@[simp] theorem noteRead_q6 (k : Core) (id : Nat) (sp gl : List Nat) : (k.noteRead id sp gl).q6 = k.q6 := rfl
@[simp] theorem noteRead_rcmd (k : Core) (id : Nat) (sp gl : List Nat) : (k.noteRead id sp gl).rcmd = k.rcmd := rfl
@[simp] theorem noteRead_entries (k : Core) (id : Nat) (sp gl : List Nat) : (k.noteRead id sp gl).entries = k.entries := rfl
@[simp] theorem noteRead_lostCids (k : Core) (id : Nat) (sp gl : List Nat) : (k.noteRead id sp gl).lostCids = k.lostCids := rfl
@[simp] theorem noteRead_saveBuf (k : Core) (id : Nat) (sp gl : List Nat) : (k.noteRead id sp gl).saveBuf = k.saveBuf := rfl
@[simp] theorem noteRead_flushed (k : Core) (id : Nat) (sp gl : List Nat) : (k.noteRead id sp gl).flushed = k.flushed := rfl
@[simp] theorem noteRead_dbg (k : Core) (id : Nat) (sp gl : List Nat) : (k.noteRead id sp gl).dbg = k.dbg := rfl
@[simp] theorem noteRead_poison (k : Core) (id : Nat) (sp gl : List Nat) : (k.noteRead id sp gl).poison = k.poison := rfl
@[simp] theorem noteRead_errs (k : Core) (id : Nat) (sp gl : List Nat) : (k.noteRead id sp gl).errs = k.errs := rfl
@[simp] theorem noteRead_progress (k : Core) (id : Nat) (sp gl : List Nat) : (k.noteRead id sp gl).progress = k.progress := rfl
@[simp] theorem noteRead_paid (k : Core) (id : Nat) (sp gl : List Nat) : (k.noteRead id sp gl).paid = k.paid := rfl
@[simp] theorem noteRead_fetchAt (k : Core) (id : Nat) (sp gl : List Nat) : (k.noteRead id sp gl).fetchAt = k.fetchAt := rfl
@[simp] theorem noteRead_part (k : Core) (id : Nat) (sp gl : List Nat) : (k.noteRead id sp gl).part = k.part := rfl
@[simp] theorem noteRead_launch (k : Core) (id : Nat) (sp gl : List Nat) : (k.noteRead id sp gl).launch = k.launch := rfl
@[simp] theorem noteWrite_arch (k : Core) (id n : Nat) (sp gl : List Nat) : (k.noteWrite id n sp gl).arch = k.arch := rfl
@[simp] theorem noteWrite_istore (k : Core) (id n : Nat) (sp gl : List Nat) : (k.noteWrite id n sp gl).istore = k.istore := rfl
@[simp] theorem noteWrite_run (k : Core) (id n : Nat) (sp gl : List Nat) : (k.noteWrite id n sp gl).run = k.run := rfl
@[simp] theorem noteWrite_wait (k : Core) (id n : Nat) (sp gl : List Nat) : (k.noteWrite id n sp gl).wait = k.wait := rfl
@[simp] theorem noteWrite_ilen (k : Core) (id n : Nat) (sp gl : List Nat) : (k.noteWrite id n sp gl).ilen = k.ilen := rfl
@[simp] theorem noteWrite_seq (k : Core) (id n : Nat) (sp gl : List Nat) : (k.noteWrite id n sp gl).seq = k.seq := rfl
@[simp] theorem noteWrite_nextChunk (k : Core) (id n : Nat) (sp gl : List Nat) : (k.noteWrite id n sp gl).nextChunk = k.nextChunk := rfl
@[simp] theorem noteWrite_cutNext (k : Core) (id n : Nat) (sp gl : List Nat) : (k.noteWrite id n sp gl).cutNext = k.cutNext := rfl
@[simp] theorem noteWrite_await (k : Core) (id n : Nat) (sp gl : List Nat) : (k.noteWrite id n sp gl).await = k.await := rfl
@[simp] theorem noteWrite_squashes (k : Core) (id n : Nat) (sp gl : List Nat) : (k.noteWrite id n sp gl).squashes = k.squashes := rfl
@[simp] theorem noteWrite_prioPc (k : Core) (id n : Nat) (sp gl : List Nat) : (k.noteWrite id n sp gl).prioPc = k.prioPc := rfl
@[simp] theorem noteWrite_pend (k : Core) (id n : Nat) (sp gl : List Nat) : (k.noteWrite id n sp gl).pend = k.pend := rfl
@[simp] theorem noteWrite_chans (k : Core) (id n : Nat) (sp gl : List Nat) : (k.noteWrite id n sp gl).chans = k.chans := rfl
@[simp] theorem noteWrite_deferred (k : Core) (id n : Nat) (sp gl : List Nat) : (k.noteWrite id n sp gl).deferred = k.deferred := rfl
@[simp] theorem noteWrite_z (k : Core) (id n : Nat) (sp gl : List Nat) : (k.noteWrite id n sp gl).z = k.z := rfl
@[simp] theorem noteWrite_zOld (k : Core) (id n : Nat) (sp gl : List Nat) : (k.noteWrite id n sp gl).zOld = k.zOld := rfl
@[simp] theorem noteWrite_power (k : Core) (id n : Nat) (sp gl : List Nat) : (k.noteWrite id n sp gl).power = k.power := rfl
@[simp] theorem noteWrite_arb (k : Core) (id n : Nat) (sp gl : List Nat) : (k.noteWrite id n sp gl).arb = k.arb := rfl
@[simp] theorem noteWrite_q2 (k : Core) (id n : Nat) (sp gl : List Nat) : (k.noteWrite id n sp gl).q2 = k.q2 := rfl
@[simp] theorem noteWrite_copy (k : Core) (id n : Nat) (sp gl : List Nat) : (k.noteWrite id n sp gl).copy = k.copy := rfl
@[simp] theorem noteWrite_plan (k : Core) (id n : Nat) (sp gl : List Nat) : (k.noteWrite id n sp gl).plan = k.plan := rfl
@[simp] theorem noteWrite_planAt (k : Core) (id n : Nat) (sp gl : List Nat) : (k.noteWrite id n sp gl).planAt = k.planAt := rfl
@[simp] theorem noteWrite_q4 (k : Core) (id n : Nat) (sp gl : List Nat) : (k.noteWrite id n sp gl).q4 = k.q4 := rfl
@[simp] theorem noteWrite_slice (k : Core) (id n : Nat) (sp gl : List Nat) : (k.noteWrite id n sp gl).slice = k.slice := rfl
@[simp] theorem noteWrite_bypass (k : Core) (id n : Nat) (sp gl : List Nat) : (k.noteWrite id n sp gl).bypass = k.bypass := rfl
@[simp] theorem noteWrite_q6 (k : Core) (id n : Nat) (sp gl : List Nat) : (k.noteWrite id n sp gl).q6 = k.q6 := rfl
@[simp] theorem noteWrite_rcmd (k : Core) (id n : Nat) (sp gl : List Nat) : (k.noteWrite id n sp gl).rcmd = k.rcmd := rfl
@[simp] theorem noteWrite_entries (k : Core) (id n : Nat) (sp gl : List Nat) : (k.noteWrite id n sp gl).entries = k.entries := rfl
@[simp] theorem noteWrite_lostCids (k : Core) (id n : Nat) (sp gl : List Nat) : (k.noteWrite id n sp gl).lostCids = k.lostCids := rfl
@[simp] theorem noteWrite_saveBuf (k : Core) (id n : Nat) (sp gl : List Nat) : (k.noteWrite id n sp gl).saveBuf = k.saveBuf := rfl
@[simp] theorem noteWrite_flushed (k : Core) (id n : Nat) (sp gl : List Nat) : (k.noteWrite id n sp gl).flushed = k.flushed := rfl
@[simp] theorem noteWrite_dbg (k : Core) (id n : Nat) (sp gl : List Nat) : (k.noteWrite id n sp gl).dbg = k.dbg := rfl
@[simp] theorem noteWrite_poison (k : Core) (id n : Nat) (sp gl : List Nat) : (k.noteWrite id n sp gl).poison = k.poison := rfl
@[simp] theorem noteWrite_errs (k : Core) (id n : Nat) (sp gl : List Nat) : (k.noteWrite id n sp gl).errs = k.errs := rfl
@[simp] theorem noteWrite_progress (k : Core) (id n : Nat) (sp gl : List Nat) : (k.noteWrite id n sp gl).progress = k.progress := rfl
@[simp] theorem noteWrite_paid (k : Core) (id n : Nat) (sp gl : List Nat) : (k.noteWrite id n sp gl).paid = k.paid := rfl
@[simp] theorem noteWrite_fetchAt (k : Core) (id n : Nat) (sp gl : List Nat) : (k.noteWrite id n sp gl).fetchAt = k.fetchAt := rfl
@[simp] theorem noteWrite_part (k : Core) (id n : Nat) (sp gl : List Nat) : (k.noteWrite id n sp gl).part = k.part := rfl
@[simp] theorem noteWrite_launch (k : Core) (id n : Nat) (sp gl : List Nat) : (k.noteWrite id n sp gl).launch = k.launch := rfl

@[simp] theorem retire_arch (k : Core) (a : Arch) : (k.retire a).arch = a.advance k.ilen := by simp [Core.retire]

@[simp] theorem retireTo_arch (k : Core) (a : Arch) (pc : BitVec 16) :
    (k.retireTo a pc).arch = { a with pc := pc } := by simp [Core.retireTo]

end Sys2Proof.Machine
end

