-- ==== Sys2Proof/Laws/Memory.lean ====
section
/-!
SUPPORT. Memories: reading after writing, and the canonical form, which every operation keeps.
-/

namespace Sys2Proof.Machine

/-! ### One byte -/

@[simp] theorem memGet_memSet_same (m : List Host.Cell) (a : Nat) (b : Byte) : memGet (memSet m a b) a = b := by
  unfold memSet memGet
  split
  · rename_i h
    rw [tabGet_tabDel_same, h]
  · exact tabGet_tabPut_same _ _ _ _

theorem memGet_memSet_ne (m : List Host.Cell) (a c : Nat) (b : Byte) (h : c ≠ a) :
    memGet (memSet m a b) c = memGet m c := by
  unfold memSet memGet
  split
  · exact tabGet_tabDel_ne _ _ _ _ h
  · exact tabGet_tabPut_ne _ _ _ _ _ h

/-! ### Several bytes -/

theorem memGet_memWrite_out (m : List Host.Cell) (a n v c : Nat) (h : c < a ∨ a + n ≤ c) :
    memGet (memWrite m a n v) c = memGet m c := by
  induction n generalizing m a v with
  | zero => rfl
  | succ n ih =>
    simp only [memWrite]
    rw [ih _ _ _ (by omega), memGet_memSet_ne _ _ _ _ (by omega)]

theorem memRead_congr (m k : List Host.Cell) (a n : Nat) (h : ∀ c, a ≤ c → c < a + n → memGet m c = memGet k c) :
    memRead m a n = memRead k a n := by
  induction n generalizing a with
  | zero => rfl
  | succ n ih =>
    simp only [memRead]
    rw [h a (Nat.le_refl a) (by omega), ih (a + 1) (fun c h1 h2 => h c (by omega) (by omega))]

/-- Bytes read where they have just been written. -/
theorem memRead_memWrite_same (m : List Host.Cell) (a n v : Nat) : memRead (memWrite m a n v) a n = v % 256 ^ n := by
  induction n generalizing m a v with
  | zero => simp [memRead, Nat.mod_one]
  | succ n ih =>
    simp only [memRead, memWrite]
    rw [ih, memGet_memWrite_out _ _ _ _ _ (by omega), memGet_memSet_same, BitVec.toNat_ofNat]
    rw [show 256 ^ (n + 1) = 256 * 256 ^ n by rw [Nat.pow_succ, Nat.mul_comm], Nat.mod_mul]

theorem memRead_memWrite_out (m : List Host.Cell) (a n v c k : Nat) (h : c + k ≤ a ∨ a + n ≤ c) :
    memRead (memWrite m a n v) c k = memRead m c k :=
  memRead_congr _ _ _ _ (fun d h1 h2 => memGet_memWrite_out _ _ _ _ _ (by omega))

theorem memGet_memPutBytes_out (m : List Host.Cell) (a c : Nat) (bs : List Byte) (h : c < a ∨ a + bs.length ≤ c) :
    memGet (memPutBytes m a bs) c = memGet m c := by
  induction bs generalizing m a with
  | nil => rfl
  | cons b bs ih =>
    simp only [memPutBytes, List.length_cons] at *
    rw [ih _ _ (by omega), memGet_memSet_ne _ _ _ _ (by omega)]

theorem memGet_memPutBytes_in (m : List Host.Cell) (a i : Nat) (bs : List Byte) (h : i < bs.length) :
    memGet (memPutBytes m a bs) (a + i) = bs[i] := by
  induction bs generalizing m a i with
  | nil => simp at h
  | cons b bs ih =>
    simp only [memPutBytes]
    cases i with
    | zero => rw [memGet_memPutBytes_out _ _ _ _ (by omega)]; simp
    | succ i =>
      rw [show a + (i + 1) = a + 1 + i by omega, ih _ _ _ (by simpa using h)]
      simp

/-! ### The canonical form -/

theorem memWf_tail (e : Host.Cell) (t : List Host.Cell) (h : memWf (e :: t) = true) : memWf t = true := by
  cases t with
  | nil => rfl
  | cons f t => simp only [memWf, Bool.and_eq_true] at h; exact h.2

theorem memWf_head (e : Host.Cell) (t : List Host.Cell) (h : memWf (e :: t) = true) : e.2 ≠ 0 := by
  cases t with
  | nil => simpa [memWf] using h
  | cons f t => simp only [memWf, Bool.and_eq_true, bne_iff_ne] at h; exact h.1.1

theorem memWf_lt (e : Host.Cell) (t : List Host.Cell) (h : memWf (e :: t) = true) : ∀ f ∈ t, e.1 < f.1 := by
  induction t generalizing e with
  | nil => simp
  | cons g t ih =>
    have hg : e.1 < g.1 := by simp only [memWf, Bool.and_eq_true, decide_eq_true_eq] at h; exact h.1.2
    intro f hf
    rcases List.mem_cons.mp hf with rfl | hf
    · exact hg
    · exact Nat.lt_trans hg (ih g (memWf_tail _ _ h) f hf)

theorem memWf_cons (e : Host.Cell) (t : List Host.Cell) (h0 : e.2 ≠ 0) (h1 : ∀ f ∈ t, e.1 < f.1) (h2 : memWf t = true) :
    memWf (e :: t) = true := by
  cases t with
  | nil => simpa [memWf] using h0
  | cons f t => simpa [memWf, h2, h1 f (List.mem_cons_self ..)] using h0

theorem memWf_tabDel (m : List Host.Cell) (a : Nat) (h : memWf m = true) : memWf (tabDel m a) = true := by
  induction m with
  | nil => rfl
  | cons e t ih =>
    have ht := ih (memWf_tail _ _ h)
    simp only [tabDel, List.filter_cons] at *
    split
    · exact memWf_cons _ _ (memWf_head _ _ h) (fun f hf => memWf_lt _ _ h f (List.mem_filter.mp hf).1) ht
    · exact ht

theorem mem_tabPut {α : Type} (m : Tab α) (a : Nat) (b : α) (f : Nat × α) (h : f ∈ tabPut m a b) :
    f = (a, b) ∨ f ∈ m := by
  induction m with
  | nil => simpa [tabPut] using h
  | cons e t ih =>
    obtain ⟨k, v⟩ := e
    simp only [tabPut] at h
    split at h
    · simpa using h
    · split at h
      · rcases List.mem_cons.mp h with h | h
        · exact .inl h
        · exact .inr (List.mem_cons_of_mem _ h)
      · rcases List.mem_cons.mp h with h | h
        · exact .inr (h ▸ List.mem_cons_self ..)
        · exact (ih h).imp id (List.mem_cons_of_mem _)

theorem memWf_tabPut (m : List Host.Cell) (a : Nat) (b : Byte) (hb : b ≠ 0) (h : memWf m = true) :
    memWf (tabPut m a b) = true := by
  induction m with
  | nil => simpa [tabPut, memWf] using hb
  | cons e t ih =>
    obtain ⟨k, v⟩ := e
    have hl := memWf_lt _ _ h
    have ht := memWf_tail _ _ h
    have hh := memWf_head _ _ h
    simp only [tabPut]
    split
    · exact memWf_cons _ _ hb (fun f hf => by
        rcases List.mem_cons.mp hf with rfl | hf
        · assumption
        · exact Nat.lt_trans ‹_› (hl f hf)) h
    · split
      · rename_i _ hk
        subst hk
        exact memWf_cons _ _ hb hl ht
      · exact memWf_cons _ _ hh (fun f hf => by
          rcases mem_tabPut _ _ _ _ hf with rfl | hf
          · show k < a
            omega
          · exact hl f hf) (ih ht)

/-- Writing one byte keeps the canonical form. -/
theorem memWf_memSet (m : List Host.Cell) (a : Nat) (b : Byte) (h : memWf m = true) : memWf (memSet m a b) = true := by
  unfold memSet
  split
  · exact memWf_tabDel _ _ h
  · exact memWf_tabPut _ _ _ ‹_› h

theorem memWf_memWrite (m : List Host.Cell) (a n v : Nat) (h : memWf m = true) : memWf (memWrite m a n v) = true := by
  induction n generalizing m a v with
  | zero => exact h
  | succ n ih => exact ih _ _ _ (memWf_memSet _ _ _ h)

theorem memWf_memPutBytes (m : List Host.Cell) (a : Nat) (bs : List Byte) (h : memWf m = true) :
    memWf (memPutBytes m a bs) = true := by
  induction bs generalizing m a with
  | nil => exact h
  | cons b bs ih => exact ih _ _ (memWf_memSet _ _ _ h)

/-- Bytes written one after the other, as `putMem` and a commit write them. -/
theorem memWf_foldl {α : Type} (f : α → Nat) (g : α → Byte) (l : List α) (m : List Host.Cell) (h : memWf m = true) :
    memWf (l.foldl (fun m e => memSet m (f e) (g e)) m) = true := by
  induction l generalizing m with
  | nil => exact h
  | cons e l ih => exact ih _ (memWf_memSet _ _ _ h)

end Sys2Proof.Machine
end

