-- ==== Sys2Proof/Laws/Ops.lean ====
section
/-!
SUPPORT. What the shared operations can do, said once: one lemma on the outcomes of each operation that answers one, and
one on memory for the operations from state to state that the meanings rest on.
-/

namespace Sys2Proof.Machine

/-! ### Completing, transferring, stalling -/

theorem done_cases {s t : State} {a : Arch} (h : s.done a = .next t) : t = s.completed a := by
  simpa [State.done, eq_comm] using h

theorem jump_cases {s t : State} {a : Arch} {pc : BitVec 16} (h : s.jump a pc = .next t) : t = s.jumped a pc := by
  simpa [State.jump, eq_comm] using h

theorem doneX_cases {s t : State} {d : XReg} {v : Word} (h : s.doneX d v = .next t) :
    t = s.completed (s.me.arch.setX d v) := done_cases h

theorem stall_cases {s t : State} (h : s.stall = .next t) : t = s := by simpa [State.stall, eq_comm] using h

/-! ### Faults and traps -/

/-- A fault waits for every entry pushed before it (R16), and then freezes the core. -/
theorem faultMe_cases {s t : State} {f : FaultClass} {p : Place} {a : Word} (h : s.faultMe f p a = .next t) :
    (s.me.seq = [] ∧ t = s.raise s.turn f p a 0) ∨ (s.me.seq ≠ [] ∧ t = s) := by
  unfold State.faultMe at h
  split at h
  · next e => exact .inl ⟨by simpa using e, (Host.Outcome.next.inj h).symm⟩
  · next e => exact .inr ⟨by simpa using e, stall_cases h⟩

/-- Trap entry: the DOUBLETRAP fault inside a handler or without a vector, and else R24; GATEERR is logged first. -/
theorem enterTrap_cases (s : State) (c : CoreId) (at_ ret : BitVec 16) (x : Trap) :
    (((s.core c).arch.inHandler = true ∨ (s.core c).arch.tvec = 0)
      ∧ s.enterTrap c at_ ret x = (s.noteRefused c x).raise c .doubleTrap .pc (at_.setWidth 64) x.cause.code)
    ∨ ((s.core c).arch.inHandler = false ∧ (s.core c).arch.tvec ≠ 0
      ∧ s.enterTrap c at_ ret x
          = (s.noteRefused c x).setCore c
              { (s.core c).breakRun.endChunk.stepped with arch := (s.core c).arch.enterTrap ret x }) := by
  simp only [State.enterTrap, noteRefused_core]
  split
  · next e => exact .inl ⟨by simpa using e, rfl⟩
  · next e =>
    simp only [Bool.or_eq_true, beq_iff_eq, not_or, Bool.not_eq_true] at e
    exact .inr ⟨e.1, e.2, rfl⟩

/-- A trap waits for every entry pushed before it (R16), and then is taken. -/
theorem takeTrap_cases {s t : State} {x : Trap} (h : s.takeTrap x = .next t) :
    (s.me.seq = [] ∧ t = s.enterTrap s.turn s.pc s.pc x) ∨ (s.me.seq ≠ [] ∧ t = s) := by
  unfold State.takeTrap at h
  split at h
  · next e => exact .inl ⟨by simpa using e, by simpa [eq_comm] using h⟩
  · next e => exact .inr ⟨by simpa using e, stall_cases h⟩

theorem trapAfter_cases {s t : State} {c : Cause} {v : Word} (h : s.trapAfter c v = .next t) :
    (s.me.seq = [] ∧ t = (s.setMe { s.me.countInstr with progress := s.time }).enterTrap s.turn s.pc s.npc ⟨c, v⟩)
    ∨ (s.me.seq ≠ [] ∧ t = s) := by
  unfold State.trapAfter at h
  split at h
  · next e => exact .inl ⟨by simpa using e, (Host.Outcome.next.inj h).symm⟩
  · next e => exact .inr ⟨by simpa using e, stall_cases h⟩

/-! ### Boundary instructions and blocking -/

/-- A boundary instruction acts once no chunk and no entry is left, and else only ends the chunk (R245). -/
theorem boundary_cases {s t : State} {f : State → Out} (h : s.boundary f = .next t) :
    (s.me.breakRun.endChunk.chunks = [] ∧ s.me.breakRun.endChunk.seq = [] ∧ f (s.setMe s.me.breakRun.endChunk) = .next t)
    ∨ ((s.me.breakRun.endChunk.chunks ≠ [] ∨ s.me.breakRun.endChunk.seq ≠ []) ∧ t = s.setMe s.me.breakRun.endChunk) := by
  simp only [State.boundary, Bool.and_eq_true, List.isEmpty_iff] at h
  split at h
  · next e => exact .inl ⟨e.1, e.2, h⟩
  · next e =>
    refine .inr ⟨?_, by simpa [eq_comm] using h⟩
    by_cases c : s.me.breakRun.endChunk.chunks = []
    · exact .inr (fun q => e ⟨c, q⟩)
    · exact .inl c

theorem blocked_cases {s t : State} {i : Instr} {n : Nat} {b : Body} {e : Option Edge}
    (h : s.blocked i n b e = .next t) : t = s.block i n b e := by simpa [State.blocked, eq_comm] using h

theorem finish_cases {s t : State} {f : Arch → Arch} (h : s.finish f = .next t) :
    t = s.wake.completed (f s.wake.me.arch) := done_cases h

/-! ### Local and global accesses -/

/-- Reading ahead of the sequencer notes the entries' own reads, or nothing, and never a byte that depends on an element
still to be pushed. -/
theorem readAhead_cases {s t : State} {x : Future} {f : Nat → Ahead} {a n : Nat} (h : s.readAhead x f a n = some t) :
    (∀ i < n, f (a + i) ≠ .unknown) ∧ (t = s ∨ t = s.readEarly x) := by
  unfold State.readAhead at h
  split at h
  · exact nomatch h
  · next e =>
    refine ⟨fun i hi u => e (List.any_eq_true.mpr ⟨i, by simpa using hi, by simp [u]⟩), ?_⟩
    split at h <;> simp_all

/-- A local read waits for an element still to be pushed, faults on a poisoned dword, or goes on with the bytes that the
pending entries leave (R13, R374). -/
theorem localRead_cases {s t : State} {ea n : Nat} {f : State → Nat → Out} (h : s.localRead ea n f = .next t) :
    (s.readAhead s.future s.future.loc ea n = none ∧ t = s)
    ∨ (∃ d, s.future.s.me.poisoned ea n = some d ∧ s.faultMe .memErr .core (coreAddr s.turn (d * 8)) = .next t)
    ∨ (∃ u, s.readAhead s.future s.future.loc ea n = some u ∧ s.future.s.me.poisoned ea n = none
      ∧ f (u.setMe (u.me.noteRead u.me.curChunk (linesOf ea n) [])) (memRead s.future.s.me.arch.spad ea n) = .next t) := by
  simp only [State.localRead] at h
  split at h
  · next e => exact .inl ⟨e, stall_cases h⟩
  · next u e =>
    split at h
    · next d p => exact .inr (.inl ⟨d, p, h⟩)
    · next p => exact .inr (.inr ⟨u, e, p, h⟩)

/-- A local write ends the chunk where the journal is full, or goes on with the store done or queued behind the pending
entries (R13, R18, R247). -/
theorem localWrite_cases {s t : State} {ea n v : Nat} {f : State → Out} (h : s.localWrite ea n v f = .next t) :
    (((s.me.noteWrite s.me.curChunk s.me.chunkCnt (linesOf ea n) []).journalOver s.me.curChunk).isSome = true
      ∧ t = s.setMe (s.me.cutHere (journalKeys (linesOf ea n) [])))
    ∨ f (s.setMe ((s.me.noteWrite s.me.curChunk s.me.chunkCnt (linesOf ea n) []).storeLocal ea n v)) = .next t := by
  simp only [State.localWrite] at h
  split at h
  · next e => exact .inl ⟨e, by simpa [State.truncate, eq_comm] using h⟩
  · exact .inr h

/-- A scalar access to memory goes on once its tokens are spent (20 R358). -/
theorem paying_cases {s t : State} {va pa : Nat} {f : State → Out} (h : s.paying va pa f = .next t) :
    ((s.payLines s.turn 0 [(va, pa)]).2 = true ∧ f (s.payLines s.turn 0 [(va, pa)]).1 = .next t)
    ∨ ((s.payLines s.turn 0 [(va, pa)]).2 = false ∧ t = (s.payLines s.turn 0 [(va, pa)]).1) := by
  unfold State.paying at h
  split at h
  · next u e => exact .inl (by rw [e]; exact ⟨rfl, h⟩)
  · next u e => exact .inr (by rw [e]; exact ⟨rfl, (Host.Outcome.next.inj h).symm⟩)

/-- A pending write to memory ends the chunk where the journal is full, or goes on with the bytes pending (R247). -/
theorem globalWrite_cases {s t : State} {va pa n v : Nat} {f : State → Out} (h : s.globalWrite va pa n v f = .next t) :
    (((s.noteAccess s.turn s.me.curChunk s.me.chunkCnt va pa n true).me.journalOver s.me.curChunk).isSome = true
      ∧ t = s.setMe (s.me.cutHere (journalKeys [] (linesOf pa n))))
    ∨ f ((s.noteAccess s.turn s.me.curChunk s.me.chunkCnt va pa n true).setMe
        { (s.noteAccess s.turn s.me.curChunk s.me.chunkCnt va pa n true).me with
          arch := { (s.noteAccess s.turn s.me.curChunk s.me.chunkCnt va pa n true).me.arch with
            gwrites := addPending (s.noteAccess s.turn s.me.curChunk s.me.chunkCnt va pa n true).me.arch.gwrites
              (pendingBytes s.me.curChunk s.me.chunkCnt pa n v) } }) = .next t := by
  simp only [State.globalWrite] at h
  split at h
  · next e => exact .inl ⟨e, by simpa [State.truncate, eq_comm] using h⟩
  · exact .inr h

/-! ### Pushes -/

/-- A vector instruction's push traps VFREE, stalls, or enters the sequencer (R14, R26, R118). -/
theorem vpushAs_cases {s t : State} {i : Instr} {n : Names} {rep : Option Rep} (h : s.vpushAs i n rep = .next t) :
    (∃ r, freeSource s.me.arch n.srcs = some r ∧ s.trap .vfree (BitVec.ofNat 64 r.val) = .next t)
    ∨ (freeSource s.me.arch n.srcs = none ∧ (s.me.predPending n.pred = true ∨ 16 ≤ s.me.seq.length) ∧ t = s)
    ∨ (freeSource s.me.arch n.srcs = none ∧ s.me.predPending n.pred = false ∧ s.me.seq.length < 16
      ∧ t = s.setMe { s.me.push i n rep with progress := s.time }) := by
  simp only [State.vpushAs] at h
  split at h
  · next r e => exact .inl ⟨r, e, h⟩
  · next e =>
    split at h
    · next w => exact .inr (.inl ⟨e, by simpa using w, stall_cases h⟩)
    · next w =>
      simp only [Bool.or_eq_true, decide_eq_true_eq, not_or, Bool.not_eq_true, ge_iff_le, Nat.not_le] at w
      exact .inr (.inr ⟨e, w.1, w.2, (Host.Outcome.next.inj h).symm⟩)

/-- A copy command's push traps, or is a boundary instruction that waits while q2 is full (R281). -/
theorem pushCopy_cases {s t : State} {i : Instr} {k : CopyKind} {d a c : Word} {sh : Option Word}
    (h : s.pushCopy i k d a c sh = .next t) :
    (∃ x, copyTrap s.me.arch.stashSize (copyCmd k d a c sh) c sh = some x ∧ s.takeTrap x = .next t)
    ∨ (copyTrap s.me.arch.stashSize (copyCmd k d a c sh) c sh = none
      ∧ s.boundary (fun u => if u.me.q2.length >= 2 then u.blocked i 0 0 none
          else (u.setMe { u.me with q2 := u.me.q2 ++ [copyCmd k d a c sh] }).finish id) = .next t) := by
  simp only [State.pushCopy] at h
  split at h
  · next x e => exact .inl ⟨x, e, h⟩
  · next e => exact .inr ⟨e, h⟩

/-- A slice command's push is a boundary instruction that waits while q4 is full (R307). -/
theorem pushMat_cases {s t : State} {i : Instr} {m : MatCmd} (h : s.pushMat i m = .next t) :
    (t = s.setMe s.me.breakRun.endChunk)
    ∨ (2 ≤ s.me.breakRun.endChunk.q4.length ∧ t = (s.setMe s.me.breakRun.endChunk).block i 0 0 none)
    ∨ (s.me.breakRun.endChunk.q4.length < 2
      ∧ ((s.setMe s.me.breakRun.endChunk).setMe { (s.setMe s.me.breakRun.endChunk).me with
          q4 := (s.setMe s.me.breakRun.endChunk).me.q4 ++ [m] }).finish id = .next t) := by
  have hme := me_setMe s s.me.breakRun.endChunk
  obtain ⟨-, -, h⟩ | ⟨-, rfl⟩ := boundary_cases h
  · simp only [hme] at h ⊢
    split at h
    · next e => exact .inr (.inl ⟨e, blocked_cases h⟩)
    · next e => exact .inr (.inr ⟨Nat.lt_of_not_le e, h⟩)
  · exact .inl rfl

/-! ### Memory under the operations from state to state: the two operations that write memory are `putMem` and
`commitRun` -/

section
variable (s : State) (c : CoreId)

@[simp] theorem enterTrap_mem (a r : BitVec 16) (x : Trap) : (s.enterTrap c a r x).mem = s.mem := by
  obtain ⟨-, h⟩ | ⟨-, -, h⟩ := enterTrap_cases s c a r x <;> rw [h] <;> simp

@[simp] theorem settle_mem : (s.settle c).mem = s.mem := by
  simp only [State.settle]; split <;> rfl

@[simp] theorem forward_mem (d : Holder) (b : Bool) : (s.forward c d b).mem = s.mem := rfl

@[simp] theorem recallAll_mem (d : Holder) : (s.recallAll c d).mem = s.mem := rfl

@[simp] theorem beginLend_mem (e : Edge) (d : Holder) : (s.beginLend c e d).mem = s.mem := by
  simp [State.beginLend, forward_mem, settle_mem]

@[simp] theorem moveLend_mem (e : Edge) (o d : Holder) : (s.moveLend c e o d).mem = s.mem := rfl

@[simp] theorem endLend_mem (d : Holder) : (s.endLend c d).mem = s.mem := rfl

@[simp] theorem dropWait_mem : (s.dropWait c).mem = s.mem := by
  unfold State.dropWait
  dsimp only
  split
  · rfl
  · split <;> split <;> (try split) <;> rfl

@[simp] theorem dropPend_mem (k n : Nat) : (s.dropPend c k n).mem = s.mem := rfl

@[simp] theorem rewound_mem (a : Arch) (k n : Nat) (f : Core → Core) : (s.rewound c a k n f).mem = s.mem := by
  unfold State.rewound
  dsimp only
  split <;> exact dropWait_mem s c

@[simp] theorem restore_mem (a : Arch) (k n : Nat) : (s.restore c a k n).mem = s.mem := rewound_mem s c a k n _

@[simp] theorem squash_mem (id : Nat) : (s.squash c id).mem = s.mem := by
  unfold State.squash
  dsimp only
  split
  · rfl
  · exact rewound_mem s c _ _ _ _

@[simp] theorem squashAll_mem : (s.squashAll c).mem = s.mem := by
  unfold State.squashAll
  split
  · rfl
  · exact squash_mem s c _

/-! What becomes visible where changes no contents. -/

@[simp] theorem dropKey_mem (key : SyncKey) : (s.dropKey key).mem = s.mem := rfl

@[simp] theorem dropLines_mem (l : List Nat) : (s.dropLines l).mem = s.mem := by
  induction l generalizing s with
  | nil => rfl
  | cons x l ih => exact ih _

@[simp] theorem lateAt_mem (d : Nat) (l : List Nat) : (s.lateAt d l).mem = s.mem := by
  unfold State.lateAt; split <;> rfl

theorem foldl_mem {α : Type} (f : State → α → State) (h : ∀ t a, (f t a).mem = t.mem) (l : List α) (s : State) :
    (l.foldl f s).mem = s.mem := by
  induction l generalizing s with
  | nil => rfl
  | cons a l ih => exact (ih _).trans (h s a)

@[simp] theorem lateHomes_mem (l : List Nat) : (s.lateHomes c l).mem = s.mem :=
  foldl_mem _ (fun t d => by split <;> simp) _ s

@[simp] theorem showTo_mem (o : Option (List Mark)) (f : Stale → Bool) : (s.showTo c o f).mem = s.mem := lateAt_mem _ _ _

@[simp] theorem showAll_mem (f : Stale → Bool) : (s.showAll f).mem = s.mem :=
  foldl_mem _ (fun t d => lateAt_mem t d _) _ _

@[simp] theorem engineDone_mem : (s.engineDone c).mem = s.mem := showAll_mem s _

@[simp] theorem cover_mem (m : Mark) (f : Stale → Bool) : (s.cover m f).mem = s.mem := by
  unfold State.cover; split <;> rfl

@[simp] theorem released_mem (sc : Scope) (k : Option SyncKey) : (s.released c sc k).mem = s.mem := by
  unfold State.released
  cases k with
  | none => exact cover_mem s _ _
  | some k => dsimp only; split <;> simp

@[simp] theorem acquireShow_mem (sc : Scope) (g : Option Nat) : (s.acquireShow c sc g).mem = s.mem := by
  unfold State.acquireShow; split <;> simp

@[simp] theorem acquireKey_mem (sc : Scope) (g : Option Nat) (k : SyncKey) : (s.acquireKey c sc g k).mem = s.mem := rfl

@[simp] theorem acquired_mem (sc : Scope) (k : SyncKey) : (s.acquired c sc k).mem = s.mem := acquireShow_mem s c sc none

@[simp] theorem gateOrder_mem (g : Nat) : (s.gateOrder c g).mem = s.mem := by simp [State.gateOrder]

@[simp] theorem fenced_mem (sc : Scope) : (s.fenced c sc).mem = s.mem := by
  unfold State.fenced
  split
  · exact foldl_mem _ (fun t w => by simp) _ s
  · simp

/-! Neither do copies in stashes and near caches, nor tokens. -/

@[simp] theorem writeBacks_mem (l : List StashLine) : (s.writeBacks l).mem = s.mem := rfl

@[simp] theorem keepLines_mem (f : StashLine → Bool) : (s.keepLines f).mem = s.mem := rfl

@[simp] theorem touchNear_mem (v : Fin 16) (b : Bool) (l : Nat) : (s.touchNear v b l).mem = s.mem := by
  unfold State.touchNear
  split
  · rfl
  · split <;> rfl

theorem spendToken_mem {s t : State} {v : Fin 16} {r : Fin 5} (h : s.spendToken v r = some t) : t.mem = s.mem := by
  unfold State.spendToken at h
  dsimp only at h
  split at h
  · obtain rfl := Option.some.inj h; rfl
  · split at h
    · obtain rfl := Option.some.inj h; rfl
    · split at h
      · exact nomatch h
      · obtain ⟨d, -, rfl⟩ := Option.map_eq_some_iff.mp h
        rfl

theorem transfer_mem {s t : State} {p : Option Nat} {b : Bool} {l : Nat} (h : s.transfer p b l = some t) :
    t.mem = s.mem := by
  unfold State.transfer at h
  split at h
  · obtain rfl := Option.some.inj h; rfl
  · obtain ⟨u, hu, rfl⟩ := Option.map_eq_some_iff.mp h
    split
    · exact spendToken_mem hu
    · exact (touchNear_mem u _ _ _).trans (spendToken_mem hu)

@[simp] theorem payLines_mem (who : Nat) (l : List (Nat × Nat)) : (s.payLines c who l).1.mem = s.mem := by
  induction l generalizing s with
  | nil => rfl
  | cons x l ih =>
    unfold State.payLines
    dsimp only
    split
    · exact ih s
    · split
      · rfl
      · next u h => refine (ih _).trans ?_; exact transfer_mem (t := u) h

@[simp] theorem commitStash_mem (l : List Nat) : (s.commitStash c l).mem = s.mem := rfl

@[simp] theorem wroteLines_mem (w : Option CoreId) (l : List Nat) : (s.wroteLines w l).mem = s.mem := rfl

@[simp] theorem touchSpad_mem (lo n : Nat) (w : Bool) : (s.touchSpad c lo n w).mem = s.mem := by
  unfold State.touchSpad
  split
  · rfl
  · exact squash_mem s c _

@[simp] theorem putSpad_mem (lo : Nat) (bs : List Byte) : (s.putSpad c lo bs).mem = s.mem := touchSpad_mem s c lo _ _

theorem putMem_mem (e : Option CoreId) (bs : List (Nat × Byte)) :
    (s.putMem e bs).mem = bs.foldl (fun m b => memSet m b.1 b.2) s.mem := by
  unfold State.putMem
  dsimp only
  split <;> simp

@[simp] theorem passPrio_mem : (s.passPrio c).mem = s.mem := by
  unfold State.passPrio
  split
  · rfl
  · split
    · rfl
    · dsimp only
      split
      · rfl
      · exact squash_mem s _ _

/-- A commit writes the pending bytes of the oldest run, oldest first. -/
theorem commitRun_mem : (s.commitRun c).mem
    = ((s.core c).runBytes (s.core c).headRun).foldl (fun m g => memSet m g.pa g.val) s.mem := by
  unfold State.commitRun
  simp

@[simp] theorem poolSplit_mem (n : Reg8) (key : Nat) : (s.poolSplit n key).mem = s.mem := by
  unfold State.poolSplit; split <;> rfl

@[simp] theorem arrive_mem (n : Reg8) : (s.arrive c n).mem = s.mem := poolSplit_mem _ n _

@[simp] theorem lendStep_mem : (s.lendStep c).mem = s.mem := by
  unfold State.lendStep
  dsimp only
  repeat' split
  all_goals first | rfl | exact endLend_mem _ _ _ | exact moveLend_mem _ _ _ _ _ | exact beginLend_mem _ _ _ _

@[simp] theorem block_mem (i : Instr) (n : Nat) (b : Body) (e : Option Edge) : (s.block i n b e).mem = s.mem :=
  lendStep_mem _ _

@[simp] theorem wake_mem : s.wake.mem = s.mem := dropWait_mem s _

@[simp] theorem othersAfter_mem (l : Nat) (w : Bool) : (s.othersAfter c l w).mem = s.mem := by
  unfold State.othersAfter; split <;> rfl

@[simp] theorem stashAccess_mem (va pa : Nat) (w : Bool) : (s.stashAccess c va pa w).mem = s.mem := by
  unfold State.stashAccess
  dsimp only
  split
  · dsimp only
    split
    · split
      · exact othersAfter_mem s c _ w
      · exact othersAfter_mem s c _ w
    · exact othersAfter_mem s c _ w
  · exact othersAfter_mem s c _ w

@[simp] theorem seen_mem (ch m pa : Nat) (w : Bool) : (s.seen c ch m pa w).mem = s.mem := showTo_mem _ _ _ _

@[simp] theorem noteSeen_mem (ch m pa n : Nat) (w : Bool) : (s.noteSeen c ch m pa n w).mem = s.mem := by
  unfold State.noteSeen
  exact seen_mem s c ch m pa w

@[simp] theorem readEarly_mem (x : Future) : (s.readEarly x).mem = s.mem := by
  simp only [State.readEarly]
  exact (foldl_mem _ (fun t _ => setMe_mem t _) _ _).trans (foldl_mem _ (fun _ _ => noteSeen_mem ..) _ _)

theorem readAhead_mem {t : State} {x : Future} {f : Nat → Ahead} {a n : Nat} (h : s.readAhead x f a n = some t) :
    t.mem = s.mem := by
  obtain ⟨-, rfl | rfl⟩ := readAhead_cases h <;> simp

@[simp] theorem noteAccess_mem (ch m va pa n : Nat) (w : Bool) : (s.noteAccess c ch m va pa n w).mem = s.mem := by
  simp [State.noteAccess]

@[simp] theorem noteAccesses_mem (ch m : Nat) (l : List (Nat × Nat × Nat × Bool)) :
    (s.noteAccesses c ch m l).mem = s.mem := by
  induction l generalizing s with
  | nil => rfl
  | cons x l ih => exact (ih _).trans (noteAccess_mem s c ch m x.1 x.2.1 x.2.2.1 x.2.2.2)

@[simp] theorem keepSlew_mem (j : SlewLine → SlewLine → SlewLine) (cl : Nat) (cs : List CoreId) (l : SlewLine) :
    (s.keepSlew j cl cs l).mem = s.mem := by
  unfold State.keepSlew; split <;> rfl

@[simp] theorem flushEvents_mem (v : Fin 16) (l : List Body) : (State.flushEvents v l s).mem = s.mem := by
  induction l generalizing s with
  | nil => rfl
  | cons b l ih =>
    unfold State.flushEvents
    split
    · rfl
    · exact ih _

@[simp] theorem event_mem (v : Fin 16) (h : Word) (l k n p : Nat) : (s.event v h l k n p).mem = s.mem := flushEvents_mem _ v _

end

end Sys2Proof.Machine
end

