-- ==== Sys2Proof/Tests/Slice0.lean ====
section
/-!
SUPPORT. The model's own tests: the checks of WellFormed refuse ill-formed terms; the words that the spec writes beside
an assembly form decode to it; worked examples of the spec; and, for every statement with hypotheses, a concrete state
and operands that meet them.
-/

open Sys2Proof Sys2Proof.Machine Sys2Proof.Claims

namespace Sys2Proof.Tests

set_option Elab.async false

/-! ### Small states -/

/-- A core that runs at level 6 in partition 1, launch 1. -/
def k0 : Core :=
  { Core.initial with
    run := .running, part := some 1, launch := some 1, power := { Power.reset with own := 10, cur := 6 } }

/-- Partition 1: one node of order 0, function 0. -/
def p0 : Part := { Part.fresh 0 with nodes := [⟨0, 0, 0⟩] }

/-- Cores 0 and 1 run in partition 1; core 0 has the turn. -/
def base : State := { State.reset with cores := [(0, k0), (1, k0)], parts := [(1, p0)] }

/-- The state with core 0 changed. -/
def on (f : Core → Core) : State := { base with cores := [(0, f k0), (1, k0)] }

/-- The state with core 0's registers changed. -/
def ar (f : Arch → Arch) : State := on (fun k => { k with arch := f k.arch })

/-- The state with x registers of core 0 set. -/
def xs (l : List (XReg × Word)) : State := ar (fun a => l.foldl (fun b e => b.setX e.1 e.2) a)

/-- The outcome's next state has a property. -/
def leads (o : Out) (p : State → Bool) : Bool :=
  match o with
  | .next t => p t
  | _ => false

/-! ### WellFormed: one ill-formed term for each check -/

theorem test_wf_addi : (Instr.addi 1 1 0x80000000).wf = false := by decide
theorem test_wf_slli : (Instr.slli 1 1 64).wf = false := by decide
theorem test_wf_li : (Instr.li 1 0x400000000).wf = false := by decide
theorem test_wf_ldl : (Instr.ldl 1 1 0x20000000 .byte).wf = false := by decide
theorem test_wf_beqz : (Instr.beqz 1 (-0x400000001)).wf = false := by decide
theorem test_wf_br : (Instr.br 0x2000000000).wf = false := by decide
theorem test_wf_loop : (Instr.loop false 1 0).wf = false := by decide
theorem test_wf_loopi : (Instr.loopi false 0x40000000 1).wf = false := by decide
theorem test_wf_srd : (Instr.srd 1 0x16).wf = false := by decide
theorem test_wf_vadd : (Instr.vadd ⟨1, 2, false, .x 1, ⟨0, false⟩, .raw, false, false, .rne⟩).wf = false := by decide
theorem test_wf_vadd_sat : (Instr.vadd ⟨1, 2, false, .x 1, ⟨0, false⟩, .fp32, false, true, .rne⟩).wf = false := by decide
theorem test_wf_vmin : (Instr.vmin ⟨1, 2, false, .q0, ⟨0, false⟩, .res, false, false, .rne⟩).wf = false := by decide
theorem test_wf_vand : (Instr.vand ⟨1, 2, false, .q0, ⟨0, false⟩, .int32, true, false, .rne⟩).wf = false := by decide
theorem test_wf_vsll : (Instr.vsll ⟨1, 2, false, .q0, ⟨0, false⟩, .fp32, false, false, .rne⟩).wf = false := by decide
theorem test_wf_vfma : (Instr.vfma .fma .rne ⟨1, 2, false, 3, false, 4, false, ⟨0, false⟩, .int32⟩).wf = false := by decide
theorem test_wf_vsqrt : (Instr.vsqrt ⟨1, 2, false, ⟨0, false⟩, .int32, false, .rne⟩).wf = false := by decide
theorem test_wf_vabs : (Instr.vabs ⟨1, 2, false, ⟨0, false⟩, .fp32, true, .rne⟩).wf = false := by decide
theorem test_wf_vcmp : (Instr.vcmp ⟨1, 2, false, .q0, ⟨0, false⟩, .res, false, .lt⟩).wf = false := by decide
theorem test_wf_vcvt : (Instr.vcvt ⟨1, 2, false, ⟨0, false⟩, .raw⟩ .fp32 false .rne).wf = false := by decide
theorem test_wf_vqnt : (Instr.vqnt ⟨1, 2, false, 1, ⟨0, false⟩, .e4m3, false, false, 0⟩).wf = false := by decide
theorem test_wf_vdqnt : (Instr.vdqnt ⟨1, 2, false, 3, ⟨0, false⟩, .fp32, false, false, 0⟩ false).wf = false := by decide
theorem test_wf_vred : (Instr.vred ⟨1, 2, false, ⟨0, true⟩, .fp32⟩ .add false .rne 0).wf = false := by decide
theorem test_wf_vperm : (Instr.vperm ⟨1, 2, false, ⟨0, false⟩, .int4⟩ 3 false).wf = false := by decide
theorem test_wf_vdot : (Instr.vdot ⟨1, 2, false, 3, false, 4, false, ⟨0, false⟩, .fp64⟩ false).wf = false := by decide
theorem test_wf_vsfu : (Instr.vsfu ⟨1, 2, false, ⟨0, false⟩, .fp32⟩ .exp2 .rtz).wf = false := by decide
theorem test_wf_viota : (Instr.viota 1 2 3 ⟨0, false⟩ .fp32).wf = false := by decide
theorem test_wf_vldl : (Instr.vldl ⟨1, 2, 0, ⟨0, false⟩, .fp32, true⟩).wf = false := by decide
theorem test_wf_vldls : (Instr.vldls ⟨1, 2, 3, ⟨0, false⟩, .int4, false⟩).wf = false := by decide
theorem test_wf_vgath : (Instr.vgath ⟨1, 2, 3, false, ⟨0, false⟩, .int4, false⟩).wf = false := by decide
theorem test_wf_vldg : (Instr.vldg ⟨1, 2, 0, ⟨0, false⟩, .fp32, false⟩ true).wf = false := by decide
theorem test_wf_vloop : (Instr.vloop 1 16).wf = false := by decide
theorem test_wf_tmclr : (Instr.tmclr 30 ⟨0, false⟩).wf = false := by decide
theorem test_wf_tmacc : (Instr.tmacc ⟨1, 2, false, ⟨0, false⟩, .int32⟩).wf = false := by decide
theorem test_wf_tmmerge : (Instr.tmmerge 1 2 false 8 false ⟨0, false⟩).wf = false := by decide
theorem test_wf_tmfold : (Instr.tmfold 1 3 false 0).wf = false := by decide
theorem test_wf_tmexit : (Instr.tmexit 1 31 false ⟨0, false⟩).wf = false := by decide
theorem test_wf_ldg : (Instr.ldg 1 2 0 .byte false false .pkg).wf = false := by decide
theorem test_wf_stg : (Instr.stg 1 2 0 .byte false .die).wf = false := by decide
theorem test_wf_atoml : (Instr.atoml 1 2 3 .xor .fp32).wf = false := by decide
theorem test_wf_qpop : (Instr.qpop 1 2).wf = false := by decide
theorem test_wf_ringadv : (Instr.ringadv 1 true 16).wf = false := by decide
theorem test_wf_mma : (Instr.mma 1 2 3 ⟨false, false, false, false, 0, false, 0⟩ 257).wf = false := by decide
theorem test_wf_rtset : (Instr.rtset 1 2 3 true).wf = false := by decide

/-! ### Words of the spec -/

/-- 01 R10. -/
theorem test_dec_nop : decode [0x0000] = .ok (.nop, 2) := by rfl

/-- 03 R66, 01 R10: FNEG with a rounding code of 5 in its PAGE word and a non-zero b field in its base word; the word at
the lower address is named, where the instruction wraps past 0xFFFE too. -/
theorem test_dec_lowest : decodeAt 0x0100 [0xFC54, 0x200B] = .error ⟨.resfield, 0xFC54⟩
    ∧ decodeAt 0xFFFE [0xFC54, 0x200B] = .error ⟨.resfield, 0x200B⟩ := ⟨rfl, rfl⟩

/-- 06 R133: of VRED with u set and the reserved reduction 5, the PAGE word is named; with u clear the AUX word. -/
theorem test_dec_vred_reserved : decode [0xFCAB, 0xFE05, 0xB940] = .error ⟨.resfield, 0xFCAB⟩
    ∧ decode [0xFC8B, 0xFE05, 0xB940] = .error ⟨.resfield, 0xFE05⟩ := ⟨rfl, rfl⟩

/-- 06 R119, R56, log 8: PCOUNT with an AUX prefix of zeros, and with one that is not. -/
theorem test_dec_pcount_aux : decode [0xFCC0, 0xFE00, 0x4100] = .ok (.pcount 1 0, 6)
    ∧ decode [0xFCC0, 0xFE01, 0x4100] = .error ⟨.resfield, 0xFE01⟩ := ⟨rfl, rfl⟩

/-- 05 R98. -/
theorem test_dec_li : decode [0x6D03] = .ok (.li 5 3, 2) := by rfl
/-- 05 R99. -/
theorem test_dec_div : decode [0xFC40, 0x0B94] = .ok (.div 3 4 5, 4) := by rfl
/-- 05, the example of LOOPI: level 0, imm 4, len 3. -/
theorem test_dec_loopi : decode [0xFC40, 0x5A03] = .ok (.loopi false 4 3, 4) := by rfl
/-- 06 R117: every field of an elementwise instruction. -/
theorem test_dec_vadd : decode [0xFC84, 0xFE80, 0x032A] =
    .ok (.vadd ⟨3, 1, true, .vec 2 false, ⟨2, false⟩, .fp32, false, false, .rne⟩, 6) := by rfl
/-- 07 R163. -/
theorem test_dec_tmclr : decode [0xFD00, 0xFA80, 0x0000] = .ok (.tmclr 8 ⟨0, false⟩, 6) := by rfl
theorem test_dec_tmacc : decode [0xFD04, 0xFE40, 0xFA80, 0x0822] = .ok (.tmacc ⟨8, 1, true, ⟨1, false⟩, .fp32⟩, 8) := by rfl
theorem test_dec_tmfold : decode [0xFD00, 0xFAA0, 0x1C02] = .ok (.tmfold 12 8 true 0, 6) := by rfl
theorem test_dec_tmexit : decode [0xFD00, 0xFEA0, 0xFB20, 0x2082] = .ok (.tmexit 16 12 true ⟨2, true⟩, 8) := by rfl
theorem test_dec_tmtab : decode [0xFD00, 0x28E3] = .ok (.tmtab 7 true true, 4) := by rfl
/-- 09 R186. -/
theorem test_dec_barv : decode [0xFD40, 0x0003] = .ok (.barv 3, 4) := by rfl
theorem test_dec_bwait : decode [0xFD40, 0x0803] = .ok (.bwait 3, 4) := by rfl
theorem test_dec_bmask : decode [0xFD40, 0x15C0] = .ok (.bmask 5 6, 4) := by rfl
theorem test_dec_send : decode [0xFD47, 0x1DC0] = .ok (.send 5 6 false 7, 4) := by rfl
theorem test_dec_recv : decode [0xFD42, 0x2700] = .ok (.recv 7 2, 4) := by rfl
theorem test_dec_rpoll : decode [0xFD42, 0x2F00] = .ok (.rpoll 7 2, 4) := by rfl
theorem test_dec_fetake : decode [0xFD40, 0x35C0] = .ok (.fetake 5 6, 4) := by rfl
theorem test_dec_feput : decode [0xFD40, 0x3CDC] = .ok (.feput 4 6 7, 4) := by rfl
theorem test_dec_fepeek : decode [0xFD40, 0x45DC] = .ok (.fepeek 5 6 7, 4) := by rfl
theorem test_dec_sstep : decode [0xFD40, 0x4800] = .ok (.sstep, 4) := by rfl
/-- 10 R223, R224. -/
theorem test_dec_shpark : decode [0xFD40, 0x55C0] = .ok (.shpark 5 6, 4) := by rfl
theorem test_dec_shunpark : decode [0xFD40, 0x5DC0] = .ok (.shunpark 5 6, 4) := by rfl
/-- 14 R266. -/
theorem test_dec_ldg : decode [0xFD8B, 0x05C7] = .ok (.ldg 5 6 1 .dword false true .pkg, 4) := by rfl
theorem test_dec_atom : decode [0xFDBB, 0x15DC] = .ok (.atom 5 6 7 .cas .pkg, 4) := by rfl
theorem test_dec_atoml : decode [0xFD82, 0x1CDC] = .ok (.atoml 4 6 7 .add .fp32, 4) := by rfl
theorem test_dec_fence : decode [0xFD83, 0x2000] = .ok (.fence .pkg, 4) := by rfl
theorem test_dec_chunk : decode [0xFD80, 0x2800] = .ok (.chunk, 4) := by rfl
theorem test_dec_stash : decode [0xFD81, 0x35DC] = .ok (.stashWrwin 5 6 7, 4) := by rfl
theorem test_dec_qpush : decode [0xFD80, 0xFA20, 0x3820] = .ok (.qpush 9, 6) := by rfl
theorem test_dec_qpop : decode [0xFD80, 0x4560] = .ok (.qpop 5 3, 4) := by rfl
theorem test_dec_qstat : decode [0xFD80, 0x4D00] = .ok (.qstat 5 0, 4) := by rfl
/-- 15 R282. -/
theorem test_dec_cpy : decode [0xFD81, 0x55DC] = .ok (.cpy .l2g 5 6 7, 4) := by rfl
theorem test_dec_cpyx : decode [0xFD80, 0xFA04, 0x5DDC] = .ok (.cpyx .g2l 5 6 7 4, 6) := by rfl
/-- 16 R321, R322, R307, R312. -/
theorem test_dec_ringset : decode [0xFD80, 0x60B8] = .ok (.ringset 0 5 6, 4) := by rfl
theorem test_dec_ringadv : decode [0xFD80, 0x6902] = .ok (.ringadv 1 false 2, 4) := by rfl
theorem test_dec_ringadv_head : decode [0xFD80, 0x6B11] = .ok (.ringadv 3 true 1, 4) := by rfl
theorem test_dec_mma : decode [0xFD81, 0xFE05, 0x7204] =
    .ok (.mma 2 0 1 ⟨false, false, false, true, 0, false, 5⟩ 1, 6) := by rfl
theorem test_dec_mdrain : decode [0xFD83, 0x7A7C] = .ok (.mdrain 2 3 7 ⟨false, false, true, true⟩, 4) := by rfl
/-- 23 R393 to R395. -/
theorem test_dec_rtset : decode [0xFD80, 0x85DC] = .ok (.rtset 5 6 7 false, 4) := by rfl
theorem test_dec_rtset_rd : decode [0xFD81, 0x85C0] = .ok (.rtset 5 6 0 true, 4) := by rfl
theorem test_dec_rtsend : decode [0xFD80, 0x8DDC] = .ok (.rtsend 5 6 7, 4) := by rfl
theorem test_dec_rtmark : decode [0xFD80, 0x9003] = .ok (.rtmark 3, 4) := by rfl
/-- 20 R367. -/
theorem test_dec_gpost : decode [0xFDC0, 0x05DC] = .ok (.gpost 5 6 7, 4) := by rfl
theorem test_dec_gtake : decode [0xFDC0, 0x0DDC] = .ok (.gtake 5 6 7, 4) := by rfl
theorem test_dec_gstat : decode [0xFDC4, 0x15C0] = .ok (.gstat 5 6 .peers, 4) := by rfl
theorem test_dec_gerr : decode [0xFDC0, 0x1DDC] = .ok (.gerr 5 6 7, 4) := by rfl
theorem test_dec_grearm : decode [0xFDC0, 0x25DC] = .ok (.grearm 5 6 7, 4) := by rfl
/-- 03 R66. -/
theorem test_dec_second_page : decode [0xFC84, 0xFC84, 0x032A] = .error ⟨.prefixed, 0xFC84⟩ := by rfl
theorem test_dec_rounding : decode [0xFC54, 0x194C] = .error ⟨.resfield, 0xFC54⟩ := by rfl
/-- 11, the program of the lending chain: SLLI d=x5 a=x5 imm=32. -/
theorem test_dec_slli : decode [0xF801, 0x4DA0] = .ok (.slli 5 5 32, 4) := by rfl
theorem test_dec_ori : decode [0xF808, 0x3EC0] = .ok (.ori 6 6 0x100, 4) := by rfl
theorem test_dec_ldl : decode [0xF808, 0x7703] = .ok (.ldl 7 0 64 .dword, 4) := by rfl

/-! ### States and operands that meet the hypotheses of the statements: scalar instructions and traps -/

theorem meets_MultiplyDivideAndCount : (xs [(2, 1)]).x 2 ≠ 0 := by decide +kernel

theorem meets_DivisionNeverTraps : (31 : XReg) ≠ 0 ∧ base.x 2 = 0
    ∧ ((xs [(1, 3), (2, 3)]).x 1 = (xs [(1, 3), (2, 3)]).x 2 ∧ (xs [(1, 3), (2, 3)]).x 2 ≠ 0)
    ∧ ((xs [(1, 7), (2, -2)]).x 1 = 7 ∧ (xs [(1, 7), (2, -2)]).x 2 = -2)
    ∧ ((xs [(1, -7), (2, 2)]).x 1 = -7 ∧ (xs [(1, -7), (2, 2)]).x 2 = 2)
    ∧ (xs [(1, 0x8000000000000000), (2, -1)]).x 1 = 0x8000000000000000
    ∧ (xs [(1, 0x8000000000000000), (2, -1)]).x 2 = -1 := by decide +kernel

/-- 05 R100, the table's rows. -/
theorem test_div_table : leads (exec (.div 3 1 2) (xs [(1, -7), (2, 2)])) (fun t => t.x 3 == -3)
    ∧ leads (exec (.rem 3 1 2) (xs [(1, -7), (2, 2)])) (fun t => t.x 3 == -1)
    ∧ leads (exec (.divu 3 1 2) (xs [(1, -7), (2, 2)])) (fun t => t.x 3 == 0x7FFFFFFFFFFFFFFC)
    ∧ leads (exec (.div 3 1 2) (xs [(1, 5)])) (fun t => t.x 3 == BitVec.allOnes 64) := by decide +kernel

/-- The four ends of the address range, and the tags at the edges of what TAGP takes. -/
theorem meets_PointerArithmetic :
    (let e := fun (a b : Word) => ((a.toNat % 2 ^ 56 : Nat) : Int) + b.toInt
     e 0x0300000000000001 (-1) = 0 ∧ e 0x0300000000000001 (-2) < 0 ∧ e 0xFFFFFFFFFFFFFE 1 < 2 ^ 56
     ∧ 2 ^ 56 ≤ e 0xFFFFFFFFFFFFFE 2) := by dsimp only; decide +kernel

theorem meets_PointerArithmetic_tags :
    [0, 120, 11, 77, 128, 9, 14, 3].map (fun (t : Nat) =>
      decide (16 ≤ t / 8 ∨ t % 8 ∈ [1, 2, 6, 7] ∨ (t % 8 ≠ 0 ∧ t / 8 ∉ [1, 3, 7, 8, 9])))
    = [false, false, false, false, true, true, true, true] := by decide +kernel

/-- A handler of core 0. -/
def handler : State := ar (fun a => { a with tsave := 1, tvec := 0x100 })

theorem meets_BranchesJumpsAndLoops :
    (base.x 1 = 0 ∧ 0 ≤ (base.x 1).toInt) ∧ ((xs [(1, -1)]).x 1 ≠ 0 ∧ ((xs [(1, -1)]).x 1).toInt < 0)
    ∧ (((xs [(1, 0xFFFE)]).x 1).toNat % 2 = 0 ∧ ((xs [(1, 0xFFFE)]).x 1).toNat < 2 ^ 16)
    ∧ ((xs [(1, 3)]).x 1).toNat % 2 = 1 ∧ 2 ^ 16 ≤ ((xs [(1, 0x10000)]).x 1).toNat
    ∧ base.me.arch.inHandler = false ∧ (base.x 1).toNat = 0 ∧ ((xs [(1, 65536)]).x 1).toNat ≠ 0
    ∧ handler.me.arch.inHandler = true := by decide +kernel

/-- Registers at pc 0, before a 2-byte instruction at the end of a loop body, with two loop counts. -/
def atEnd (r0 r1 : BitVec 16) : Arch :=
  { k0.arch with loop0 := loopWord 0 2 3 r0, loop1 := loopWord 0 2 5 r1 }

/-- Each case of R21, at the counts where they meet. -/
theorem meets_NextPcAndLoopEnds :
    (let npc : BitVec 16 := 0 + BitVec.ofNat 16 base.me.ilen
     let at0 := fun (a : Arch) => loopRem a.loop0 ≠ 0 ∧ npc = loopEnd a.loop0
     let at1 := fun (a : Arch) => loopRem a.loop1 ≠ 0 ∧ npc = loopEnd a.loop1
     (at0 (atEnd 2 0) ∧ loopRem (atEnd 2 0).loop0 ≠ 1) ∧ (at0 (atEnd 1 0) ∧ loopRem (atEnd 1 0).loop0 = 1 ∧ ¬at1 (atEnd 1 0))
     ∧ (at0 (atEnd 1 1) ∧ loopRem (atEnd 1 1).loop0 = 1 ∧ at1 (atEnd 1 1)) ∧ (¬at0 (atEnd 0 2) ∧ at1 (atEnd 0 2))
     ∧ (¬at0 (atEnd 0 0) ∧ ¬at1 (atEnd 0 0)))
    ∧ (atEnd 0 0).inHandler = false ∧ handler.me.arch.inHandler = true := by dsimp only; decide +kernel

/-- The inner loop reloads when the outer one goes on (R21). -/
theorem test_loop_ends : ((base.completed (atEnd 1 2)).me.arch.loop0, (base.completed (atEnd 1 2)).me.arch.pc)
    = (loopWord 0 2 3 3, 0) := by decide +kernel

theorem meets_ZeroRegisterAndPredicates : (1 : XReg) ≠ 0 ∧ (0 : XReg) ≠ 1 ∧ (7 : PReg) ≠ 0 ∧ (0 : PReg) ≠ 7 := by decide

/-- Core 0 with a handler. -/
def vectored : State := ar (fun a => { a with tvec := 0x100 })

theorem meets_TrapEntry : vectored.me.seq = []
    ∧ (vectored.me.arch.inHandler = false ∧ vectored.me.arch.tvec ≠ 0) ∧ base.me.arch.tvec = 0 ∧ base.me.seq = []
    ∧ (handler.me.arch.inHandler = true ∧ handler.me.seq = [] ∧ handler.me.arch.inHandler = true
      ∧ (handler.x 1).toNat / 2 ^ 48 % 2 = 0 ∧ (handler.x 1).toNat / 2 ^ 32 % 2 = 0) := by decide +kernel

/-- R24: BRK enters with the address after it. -/
theorem test_brk : leads (exec (.brk 7) vectored) (fun t => t.me.arch.tpc == 2 && t.me.arch.tval == 7
    && t.me.arch.tcause == 11 && t.me.arch.pc == 0x100 && t.me.arch.inHandler) := by decide +kernel

/-- A handler without and with a VLOOP to return to, and a core outside a handler. -/
theorem meets_TrapReturn : handler.me.arch.inHandler = true ∧ handler.me.arch.redo = none ∧ base.me.arch.inHandler = false
    ∧ handler.me.seq = [] ∧ base.me.seq = [] ∧ base.me.arch.tvec = 0
    ∧ (let s := ar (fun a => { a with tsave := 1, redo := some (6, [], 3) })
       s.me.arch.inHandler = true ∧ s.me.arch.redo = some (6, [], 3)) := by dsimp only; decide +kernel

/-- A store of v5 behind an operation that takes an element of q0 which is still to be pushed. -/
def behindQ0 : State :=
  let s := ar (fun a => { a with live := 0xFFFFFFFF, p := a.p.set 1 2, x := a.x.set 1 0x1000 })
  let next := fun (o : Out) => match o with
    | .next t => t
    | _ => s
  next (exec (.vstl ⟨5, 1, 0, ⟨1, false⟩, .fp32, false⟩)
    (next (exec (.vadd ⟨5, 2, false, .q0, ⟨1, false⟩, .int32, false, false, .rne⟩) s)))

/-- The first and the last dword of the program range; bytes that an element still to be pushed decides; two stores
behind an entry, of which the younger takes the byte that they share. -/
theorem meets_LocalAccesses :
    ((0 : Nat) : Int) = (base.x 1).toNat % 2 ^ 56 + 0 * (Size.dword.bytes : Int) ∧ 0 % Size.dword.bytes = 0
    ∧ base.me.arch.stashSize ≤ 0 ∧ 0 + Size.dword.bytes ≤ 0x7E000
    ∧ (let s := xs [(1, 0x7DFF0)]
       let ea := 0x7DFF8
       ((ea : Nat) : Int) = (s.x 1).toNat % 2 ^ 56 + 1 * (Size.dword.bytes : Int) ∧ ea % Size.dword.bytes = 0
       ∧ s.me.arch.stashSize ≤ ea ∧ ea + Size.dword.bytes ≤ 0x7E000
       ∧ (s.readAhead s.future s.future.loc ea Size.dword.bytes).isSome = true
       ∧ s.future.s.me.poisoned ea Size.dword.bytes = none ∧ s.me.seq = []
       ∧ (s.me.noteWrite s.me.curChunk s.me.chunkCnt (linesOf ea Size.dword.bytes) []).journalOver s.me.curChunk = none)
    ∧ (behindQ0.future.loc 0x1000 = .unknown ∧ behindQ0.future.loc 0x1008 ≠ .unknown ∧ behindQ0.me.seq.length = 2)
    ∧ (let ws : List LateStore := [⟨1, 0x100, [1, 2]⟩, ⟨1, 0x101, [3]⟩, ⟨2, 0x100, [4]⟩]
       ∀ w ∈ ws, w.left ≤ 1 ∨ w.left = 2) := by
  dsimp only; decide +kernel

/-- 01 R13: a completed entry lets the stores behind it alone take effect, in order. -/
theorem test_late_stores :
    let b := ({ k0.arch with slog := [⟨1, 0x100, [1, 2]⟩, ⟨1, 0x101, [3]⟩, ⟨2, 0x100, [4]⟩] } : Arch).passEntry
    memRead b.spad 0x100 2 = 0x301 ∧ b.slog = [⟨1, 0x100, [4]⟩] := by decide +kernel

/-- Below the scratchpad, at the spill window, over its end and beyond the scratchpad; and a misaligned halfword. -/
theorem meets_LocalAddressTraps :
    let ea := fun (s : State) (off : Int) (z : Size) => ((s.x 1).toNat % 2 ^ 56 : Int) + off * (z.bytes : Int)
    (ea (xs [(1, 1)]) 0 .half % (Size.half.bytes : Int) ≠ 0) ∧ ea base (-1) .byte < base.me.arch.stashSize
    ∧ 0x80000 < ea (xs [(1, 0x80000)]) 0 .byte + 1
    ∧ (ea (xs [(1, 0x7E000)]) 0 .byte + 1 ≤ 0x80000 ∧ 0x7E000 < ea (xs [(1, 0x7E000)]) 0 .byte + 1
      ∧ base.me.arch.stashSize ≤ ea (xs [(1, 0x7E000)]) 0 .byte) := by dsimp only; decide +kernel

/-- 05 R102: a byte is sign-extended by LDL and zero-extended by LDLU. -/
theorem test_load_extends :
    let s := ar (fun a => { a with spad := [(5, 0x80)] })
    leads (exec (.ldl 2 1 5 .byte) s) (fun t => t.x 2 == 0xFFFFFFFFFFFFFF80)
    ∧ leads (exec (.ldlu 2 1 5 .byte) s) (fun t => t.x 2 == 0x80) := by dsimp only; decide +kernel

theorem meets_ScalarFloatInstructions : (Fmt.fp32.value 0x7FC00000).isNan = true
    ∧ (Fmt.fp64.value 0x7FF8000000000000).isNan = true := by decide +kernel

/-- 1 + 2 = 3 and 1 / 3 rounds down to 0x3EAAAAAA toward zero (05 R109). -/
theorem test_fadd : leads (exec (.fadd ⟨.rne, .fp32⟩ 3 1 2) (xs [(1, 0x3F800000), (2, 0x40000000)]))
    (fun t => t.x 3 == 0x40400000) := by decide +kernel
theorem test_fdiv : leads (exec (.fdiv ⟨.rtz, .fp32⟩ 3 1 2) (xs [(1, 0x3F800000), (2, 0x40400000)]))
    (fun t => t.x 3 == 0x3EAAAAAA) := by decide +kernel

/-- One and one half, which meet every sign of a sum, a product and a root; zeros, infinities and a NaN in each place. -/
theorem meets_ExactRounding :
    (let f := float4 .fp32
     let fin := fun (c : Nat) => f.mag c < f.inf
     let one := 0x3F800000
     fin one ∧ fin 0x3F000000 ∧ f.real one = 1 ∧ f.real 0x3F000000 = 1 / 2 ∧ f.real 0xBF800000 = -1 ∧ fin 0xBF800000
     ∧ f.real one + f.real 0x3F000000 ≠ 0 ∧ f.real one + f.real 0xBF800000 = 0 ∧ f.real one - f.real one = 0
     ∧ f.real 0 = 0 ∧ f.real 0x80000000 = 0 ∧ f.mag 0x80000000 = 0 ∧ f.real one * f.real 0 = 0
     ∧ f.mag 0x7F800000 = f.inf ∧ f.mag 0xFF800000 = f.inf ∧ f.inf < f.mag 0x7FC00000
     ∧ one < 2 ^ f.w ∧ 0xFF800000 < 2 ^ f.w
     ∧ f.real 0x3F000000 < f.real one ∧ f.real 0x80000000 = f.real 0 ∧ f.neg 0x80000000 ∧ ¬f.neg 0
     ∧ 0 < f.mag 1 ∧ f.mag 1 < 2 ^ f.m ∧ 2 ^ f.m ≤ f.mag one)
    ∧ (let inf := fun (n : Bool) (ts : List Sys2Proof.Num) => Sys2Proof.Num.inf n ∈ ts
       let ts : List Sys2Proof.Num := [.inf true, .fin false 1 0]
       inf true ts ∧ ¬inf false ts ∧ inf false [.inf true, .inf false] ∧ Sys2Proof.Num.nan ∉ ts
       ∧ numReal (sumExact .rdn [.fin false 0 0, .fin true 0 0]) = 0) := by dsimp only; decide +kernel

/-- 02 R37, its worked conversions: 1/3 into BF16; 0.3, 460 and 470 into E4M3; 5 and 7 into E2M1. -/
theorem test_conversions :
    let x := Fmt.fp32.value
    [RMode.rne, .rtz, .rdn, .rup].map (fun rm => (Fmt.bf16.convFloat rm false (x 0x3EAAAAAB)).val)
      = [0x3EAB, 0x3EAA, 0x3EAA, 0x3EAB]
    ∧ [RMode.rne, .rtz, .rdn].map (fun rm => (Fmt.e4m3.convFloat rm false (x 0x3E99999A)).val) = [0x2A, 0x29, 0x29]
    ∧ [false, true].map (fun sat => (Fmt.e4m3.convFloat .rne sat (x 0x43EB0000)).val) = [0x7F, 0x7E]
    ∧ (Fmt.e4m3.convFloat .rne false (x 0x43E60000)).val = 0x7E
    ∧ [RMode.rne, .rup].map (fun rm => (Fmt.e2m1.convFloat rm false (x 0x40A00000)).val) = [6, 7]
    ∧ Fmt.e2m1.convFloat .rtz false (x 0x40E00000) = ⟨7, true⟩ := by decide +kernel

/-- 02 R44: the residues of -1000. -/
theorem test_residues : resOf (-1000) = 0x1C1418 ∧ resToInt 0x1C1418 = -1000 := by decide +kernel

theorem meets_RegisterAndFeatureReads :
    (base.special 0x14).isSome = true ∧ ((base.special 0x1A).isSome = true ∧ base.me.seq = [])
    ∧ (base.special 0x7E).isSome = true ∧ base.special 0x15 = none ∧ base.special 0x80 = none := by decide +kernel

/-- Each rule at the last value that it accepts and the first that it refuses. -/
theorem meets_SpecialRegisterWrites : base.me.seq = []
    ∧ (sidReserved 0xFF = true ∧ sidReserved 0x0B = false ∧ sidReadOnly 0x0B = true)
    ∧ ¬((4 : Nat) ≤ 3) ∧ ¬((1024 : Nat) = 0 ∨ 1024 < 1024) ∧ ((1025 : Nat) = 0 ∨ 1024 < 1025) ∧ ((0 : Nat) = 0 ∨ 1024 < 0)
    ∧ (0x0001000000000000 / 2 ^ 48 % 2 = 1) ∧ (Fmt.fp32.value 0x7FC00000).isNan = true
    ∧ (Fmt.fp32.value 0x3F800000).isNan = false
    ∧ ((0x10F : Word) &&& ~~~(0x10F : Word) = 0 ∧ 0x10F % 4 = 3) ∧ (0x010 : Word) &&& ~~~(0x10F : Word) ≠ 0
    ∧ (0x10E : Word) &&& ~~~(0x10F : Word) = 0 ∧ (0x10E : Nat) % 4 ≠ 3
    ∧ (bit 0x10000 16 = true ∧ winLg base.me.arch.sw[0] < 16)
    ∧ (let s := ar (fun a => { a with sw := a.sw.set 0 0x4000000000000000 })
       (0x10000 : Nat) < 2 ^ 32 ∧ 0x10000 / 8 % 2 ^ 13 = 0 ∧ 0x10000 % 8 = s.me.arch.stashCfg.toNat % 8
       ∧ ¬∃ i : Fin 16, bit 0x10000 (16 + i.val) = true ∧ winLg s.me.arch.sw[i] < 16) := by dsimp only; decide +kernel

/-- A ring of two slots of 4096 bytes, FP32. -/
def ring2 : Ring := ⟨0x2000000000000000, 2, 0, 0, 4096, 0xFFFFFF⟩

/-- Core 0 with that ring as ring 1. -/
def ringed : State := ar (fun a => a.setRing 1 ring2)

theorem meets_QuietRegisterWrites :
    ringed.me.sliceQuiet = true ∧ Quiet ringed ∧ (0x7FFFF : Nat) / 2 ^ 19 % 2 ^ 13 = 0
    ∧ gangBad ringed.turn 0x200 = false ∧ gangBad ringed.turn 0x10 = true
    ∧ bmBad 0x82 = false ∧ ringed.pending 7 = false ∧ chcfgTrap ringed.me.arch.stashSize 0x100001000 = none
    ∧ ringed.me.ringNamed 1 = false ∧ ({ ringed.me.arch.rings[1] with base := 0x2000000000000040 } : Ring).check 0 = none
    ∧ ({ ringed.me.arch.rings[1] with tile := 1 } : Ring).check 0 ≠ none
    ∧ ((2 : Word).toNat < 2 * ({ ringed.me.arch.rings[1] with tail := 2 } : Ring).slots
      ∧ ({ ringed.me.arch.rings[1] with tail := 2 } : Ring).count ≤ ringed.me.arch.rings[1].slots)
    ∧ 2 * ringed.me.arch.rings[1].slots ≤ (4 : Word).toNat := by decide +kernel

/-- A table at 0x40 that repeats an entry, one that is a permutation, and tables over both ends of the program range. -/
theorem meets_QuietRegisterWrites_perm :
    let perm := ar (fun a => { a with spad := (List.range 191).map (fun i => (0x41 + i, BitVec.ofNat 8 (i + 1))) })
    let tab := fun (s : State) (i : Nat) => memGet s.me.arch.spad (0x40 + i)
    (0x100000040 / 2 ^ 32 = 1 ∧ 0x100000040 / 2 ^ 19 % 2 ^ 13 = 0 ∧ base.me.arch.stashSize ≤ 0x40 ∧ 0x40 + 192 ≤ 0x7E000)
    ∧ base.me.poisoned 0x40 192 = none ∧ tab base 1 = tab base 0 ∧ perm.me.poisoned 0x40 192 = none
    ∧ (List.range 192).all (fun i => decide ((tab perm i).toNat < 192)
        && (List.range i).all (fun j => tab perm j != tab perm i)) = true
    ∧ 0 < (ar (fun a => { a with stashCfg := 1 })).me.arch.stashSize ∧ (0x7E000 : Nat) < 0x7E000 - 191 + 192 := by
  dsimp only; decide +kernel

/-! ### Vector instructions -/

/-- Core 0 with every vector register live, and other changes. -/
def lively (f : Arch → Arch) : State := ar (fun a => f { a with live := 0xFFFFFFFF })

/-- Operands without last-use bits. -/
def vb : VBin := ⟨1, 2, false, .vec 3 false, ⟨1, false⟩, .int32, false, false, .rne⟩
def vo : VOne := ⟨4, 2, false, ⟨0, false⟩, .fp32⟩
def vt : VTri := ⟨4, 1, false, 2, true, 3, false, ⟨7, true⟩, .fp32⟩
def vm : VMem := ⟨5, 1, 0, ⟨0, false⟩, .fp32, false⟩
def vs : VStr := ⟨5, 1, 2, ⟨0, false⟩, .fp32, false⟩
def vi : VIdx := ⟨5, 1, 6, false, ⟨0, false⟩, .int32, false⟩
def vq : VQOps := ⟨4, 6, false, 5, ⟨0, false⟩, .int8, false, false, 0⟩

/-- Every form of the names that a push captures: with every register live, no pending predicate and room. -/
theorem meets_VectorInstructionsPush :
    (List.finRange 32).all (fun r => (lively id).me.arch.isLive r) = true
    ∧ (List.finRange 8).all (fun p => !(lively id).me.predPending p) = true ∧ (lively id).me.seq.length < 16
    ∧ [vb.names, vt.names, vo.names, vm.loadNames, vm.storeNames, ⟨tripleSrc 29 true, triple 29, some 1, none, 0⟩].all
        (fun n => (freeSource (lively id).me.arch n.srcs).isNone) = true
    ∧ freeSource base.me.arch vb.names.srcs = some 2 := by decide +kernel

theorem meets_PushLiveness :
    (let n : Names := ⟨[(2, true), (3, false)], [1], none, none, 0⟩
     (1 : VReg) ∈ n.dsts ∧ ((2 : VReg) ∉ n.dsts ∧ ((2 : VReg), true) ∈ n.srcs)
     ∧ ((3 : VReg) ∉ n.dsts ∧ ((3 : VReg), true) ∉ n.srcs))
    ∧ base.me.arch.isLive vb.a = false ∧ base.me.arch.isLive vo.a = false
    ∧ base.me.arch.isLive vm.v = false ∧ base.me.arch.isLive 0 = false ∧ base.me.arch.isLive 31 = false := by
  dsimp only; decide +kernel

/-- Core 0 after fifteen pushes. -/
def fifteen : State :=
  lively (fun a => { a with pushes := 15, recent := List.replicate 15 ⟨.vadd vb, 0, 0, 0, 0, 0, 0⟩, x := a.x.set 1 2 })

/-- VLOOP over no entry and over fifteen, with a free source and with too few entries. -/
theorem meets_PredicateAndSequencerInstructions :
    fifteen.me.predPending 1 = false ∧ (fifteen.me.seq = [] ∧ fifteen.me.arch.isLive 31 = true)
    ∧ fifteen.me.seq.length < 16
    ∧ (15 ≤ fifteen.me.arch.pushes ∧ 15 ≤ fifteen.me.arch.recent.length
      ∧ ∀ o ∈ fifteen.me.arch.recent.take 15, loopable o.instr = true)
    ∧ (0 ≤ fifteen.me.arch.pushes ∧ 0 ≤ fifteen.me.arch.recent.length
      ∧ ∀ o ∈ fifteen.me.arch.recent.take 0, loopable o.instr = true)
    ∧ freeSource fifteen.me.arch (loopNames 1 (fifteen.me.arch.recent.take 15).reverse).srcs = none
    ∧ freeSource fifteen.me.arch (namesOf (.vloop 1 0)).srcs = none
    ∧ (freeSource { fifteen.me.arch with live := 0 } (loopNames 1 (fifteen.me.arch.recent.take 15).reverse).srcs).isSome = true
    ∧ ¬(1 ≤ base.me.arch.pushes) := by decide +kernel

/-- The state after an outcome that has one. -/
def after (o : Out) : State :=
  match o with
  | .next t => t
  | _ => base

/-- Whether the only entry of core 0 executes in the next cycle of its cluster, as i: what Ready asks, by computation. -/
def readies (s : State) (i : Instr) : Bool :=
  let b := s.bind 0
  let k := b.1.core 0
  b.2 == [0] && (match k.seq with
    | [] => false
    | e :: _ => e.current.1.instr == i && (k.journalOver e.chunk).isNone && (k.vecBad e.current.1).isNone
      && (match e.rep with
        | none => true
        | some r => 1 <= r.j && r.j <= r.times && r.i < r.body.length)
      && k.errs.jrnl.isEmpty && k.wait.isNone && k.run == .running && !e.snap.inHandler && e.snap.tvec != 0)

/-- A state that `readies` accepts meets Ready, with the entry ready to trap. -/
theorem ready_of_readies (s : State) (i : Instr) (h : readies s i = true) :
    ∃ e, Ready s (s.bind 0).1 0 0 e e.current.1 e.current.2 ∧ e.current.1.instr = i ∧ CanTrap (s.bind 0).1 0 e := by
  unfold readies at h
  unfold Ready CanTrap
  generalize s.bind 0 = b at h ⊢
  obtain ⟨u, cs⟩ := b
  dsimp only at h ⊢
  generalize u.core 0 = k at h ⊢
  simp only [Bool.and_eq_true, beq_iff_eq] at h
  obtain ⟨rfl, h⟩ := h
  split at h
  · cases h
  · rename_i e _ hs
    simp only [Bool.and_eq_true, beq_iff_eq, Option.isNone_iff_eq_none, List.isEmpty_iff, bne_iff_ne, ne_eq,
      Bool.not_eq_eq_eq_not, Bool.not_true] at h
    obtain ⟨⟨⟨⟨⟨⟨⟨⟨hi, hj⟩, hv⟩, hr⟩, he⟩, hw⟩, hn⟩, hh⟩, ht⟩ := h
    refine ⟨e, ⟨rfl, by rw [hs]; rfl, rfl, ?_, hj, hv⟩, hi, he, hw, hn, hh, ht⟩
    intro r hr'
    rw [hr'] at hr
    simpa [and_assoc] using hr

/-- Core 0 after it has pushed an instruction, with a handler, every vector register live and other changes. -/
def pushed (i : Instr) (f : Arch → Arch) : State :=
  after (exec i (lively (fun a => f { a with tvec := 0x100, p := a.p.set 1 2 })))

/-- One instruction of each kind, with vector, captured and queued operands; a repetition of a VLOOP. -/
theorem meets_IntegerLaneResults :
    ([.vadd vb, .vsub { vb with sat := true }, .vmul { vb with b := .x 1 }, .vmin { vb with ty := .uint8 }, .vmax vb,
      .vdiv vb, .vsll vb, .vsrl vb, .vsra vb, .vand vb, .vor vb, .vxor vb, .vabs ⟨1, 2, false, ⟨0, false⟩, .int32, true, .rne⟩,
      .vneg ⟨1, 2, false, ⟨0, false⟩, .int32, false, .rne⟩, .vcmp ⟨1, 2, false, .vec 3 false, ⟨0, false⟩, .int32, true, .lt⟩]
        : List Instr).all (fun i => readies (pushed i id) i) = true
    ∧ readies (pushed (.vadd { vb with b := .q0 }) (fun a => { a with q0 := [5] })) (.vadd { vb with b := .q0 }) = true := by
  decide +kernel

/-- In the repetition that comes next of a VLOOP over one entry. -/
theorem meets_IntegerLaneResults_loop :
    readies (pushed (.vloop 1 1) (fun a => { a with x := a.x.set 1 2, pushes := 1, recent := [⟨.vadd vb, 0, 0, 0, 0, 0, 0⟩] }))
      (.vadd vb) = true := by decide +kernel

/-- 06 R125: lanes 5 + 3 and 0xFFFFFFFF + 2, wrapped; lane 2 is not active. -/
theorem test_vadd :
    leads (exec (.sequencerEntryExecute 0)
      (pushed (.vadd vb) (fun a => { a with v := (a.v.set 2 0xFFFFFFFF00000005).set 3 0x000000070000000200000003 })))
      (fun t => (t.core 0).arch.v[1] == 0x0000000100000008) := by decide +kernel

theorem meets_MoveAndReduceResults :
    ([.vsel { vt with ty := .int32 }, .vmov vo, .vsplat 1 (.x 2) ⟨0, false⟩ .int8, .viota 1 2 3 ⟨0, true⟩ .int32,
      .vperm { vo with ty := .int32 } 3 false, .vslide vo (.x 1), .vins 1 2 3 .int32, .vext 1 false (.x 2) .int32,
      .vpopc 1 false 1 .int32, .vred { vo with ty := .int32 } .add true .rne 5, .vred { vo with ty := .int32 } .max false .rne 5,
      .vred { vo with ty := .int32 } .min true .rne 5, .vred { vo with ty := .int32 } .maxi false .rne 5,
      .vred { vo with ty := .uint8 } .mini false .rne 5, .vdot { vt with ty := .int8 } true] : List Instr).all
        (fun i => readies (pushed i id) i) = true
    ∧ vo.d ≠ 5 := by decide +kernel

theorem meets_FloatLaneResults :
    ([.vadd { vb with ty := .fp32 }, .vsub { vb with ty := .bf16 }, .vmul { vb with ty := .fp16 }, .vdiv { vb with ty := .fp64 },
      .vmin { vb with ty := .fp32 }, .vmax { vb with ty := .fp32 }, .vadd { vb with ty := .res }, .vsub { vb with ty := .res },
      .vmul { vb with ty := .res }, .vcmp ⟨1, 2, false, .vec 3 false, ⟨0, false⟩, .res, false, .ne⟩,
      .vred { vo with ty := .res } .add false .rne 5, .vsfu { vo with ty := .fp16 } .rsqrt .rup, .vsqrt ⟨1, 2, false, ⟨0, false⟩, .fp32, false, .rdn⟩,
      .vabs ⟨1, 2, false, ⟨0, false⟩, .fp32, false, .rne⟩, .vneg ⟨1, 2, false, ⟨0, false⟩, .fp32, false, .rne⟩,
      .vcmp ⟨1, 2, false, .vec 3 false, ⟨0, false⟩, .fp32, false, .un⟩, .vfma .nfma .rup vt, .vdot { vt with ty := .e4m3 } true,
      .vsfu vo .exp2 .rne, .vred vo .add false .rup 5, .vred vo .max false .rne 5, .vred vo .min false .rne 5,
      .vred vo .maxi false .rne 5, .vred vo .mini false .rne 5, .vcvt { vo with ty := .res } .int32 true .rne,
      .vcvt { vo with ty := .s24 } .fp32 false .rne, .vqnt vq, .vdqnt vq true] : List Instr).all
        (fun i => readies (pushed i id) i) = true
    ∧ vq.d ≠ vq.b := by decide +kernel

/-- Containers that R42 and R38 accept and refuse, at the edges. -/
theorem meets_FloatLaneResults_containers :
    let resBad := fun (r : Nat) => 2 ^ 25 ≤ r ∨ 256 < r / 2 ^ 16
    ¬resBad 0x100FFFF ∧ resBad 0x1010000 ∧ resBad 0x2000000 ∧ ¬((2 : Nat) ^ 24 ≤ 0xFFFFFF) ∧ (2 : Nat) ^ 24 ≤ 0x1000000
    ∧ lane (0x1010000 : VWord) 32 0 = 0x1010000 := by dsimp only; decide +kernel

/-- Pairs that VCVT converts, of each kind; blocks with and without a number that is not finite. -/
theorem meets_FloatLaneResults_values :
    (∀ p ∈ ([(.fp32, .e4m3), (.bf16, .int8), (.int4, .fp16), (.uint8, .int64), (.int32, .res), (.res, .int32), (.fp32, .s24),
        (.s24, .fp32)] : List (Fmt × Fmt)), convAllowed p.1 p.2 = true)
    ∧ ConvPair .fp32 .e4m3 ∧ ConvPair .res .int64 ∧ ConvPair .int8 .res
    ∧ (Fmt.fp32.value 0x7F800000).isFin = false ∧ (Fmt.fp32.value 0x3F800000).isFin = true
    ∧ numReal (Fmt.fp32.value 0x3F800000) = 1 ∧ numReal (Fmt.fp32.value 0) = 0 := by
  refine ⟨by decide +kernel, .inl ⟨rfl, .inl rfl⟩, .inr (.inr (.inl ⟨rfl, .inr rfl⟩)), .inr (.inl ⟨rfl, .inr (.inr rfl)⟩),
    by decide +kernel, by decide +kernel, by decide +kernel, by decide +kernel⟩

/-- 06 R131's worked example: the block's largest magnitude 3.5 has the scale 2^-7 in E4M3, and -0.05 becomes 0xCD. -/
theorem test_quantise : quantScale .e4m3 [Fmt.fp32.value 0x40600000, Fmt.fp32.value 0xBD4CCCCD] = 0x780000
    ∧ quantOf .e4m3 0x780000 (Fmt.fp32.value 0xBD4CCCCD) = 0xCD := by decide +kernel

/-- 06 R131, 02 R37: a NaN that VQNT makes 0 sets amaxf.sat (bit 1) and amaxf.nf (bit 0). -/
theorem test_vqnt_nan :
    leads (exec (.sequencerEntryExecute 0) (pushed (.vqnt vq) (fun a => { a with v := a.v.set 6 0x7FC00000 })))
      (fun t => (t.core 0).arch.amaxf == 3 && lane (t.core 0).arch.v[4] 8 0 == 0) := by decide +kernel

/-- Local loads and stores of one row at 0x1000, at the last row that ends in the program range, misaligned and beyond. -/
theorem meets_VectorMemoryEntries :
    let at_ := fun (x : Word) (a : Arch) => { a with x := (a.x.set 1 x).set 2 4 }
    ([.vldl vm, .vstl vm, .vldls vs, .vstls vs, .vgath vi, .vscat vi] : List Instr).all
        (fun i => readies (pushed i (at_ 0x1000)) i) = true
    ∧ (let s := pushed (.vldl vm) (at_ 0x7DF00)
       let k := (s.bind 0).1.core 0
       (List.range 64).all (fun l => decide ((0x7DF00 + 4 * l) % 4 = 0 ∧ k.arch.stashSize ≤ 0x7DF00 + 4 * l ∧ 0x7DF00 + 4 * l + 4 ≤ 0x7E000)
         && (k.poisoned (0x7DF00 + 4 * l) 4).isNone) = true)
    ∧ LeastAt 64 (fun l => (0x1002 + 4 * (l : Int)) % 4 ≠ 0) (fun l => 0x1002 + 4 * (l : Int)) 0
    ∧ LeastAt 64 (fun l => 0x7E000 ≤ 0x7DF04 + 4 * (l : Int)) (fun l => 0x7DF04 + 4 * (l : Int)) 63
    ∧ (let s := pushed (.vstl vm) (at_ 0x1000)
       let k := (s.bind 0).1.core 0
       (k.seq.head?).all (fun e => (k.noteWrite e.chunk e.n (((storedBytes 32 64 (fun l => lane k.arch.v[5] 32 l)).map
         (fun b => linesOf (0x1000 + 4 * b.1) b.2.length)).flatten) []).journalOver e.chunk == none) = true) := by
  refine ⟨by decide +kernel, by dsimp only; decide +kernel, ?_, ?_, by dsimp only; decide +kernel⟩
  · exact ⟨by decide, by decide, fun k _ _ => by simp only; omega⟩
  · exact ⟨by decide, by decide, fun k hk h => by simp only at h ⊢; omega⟩

/-- A gate with a 64 KiB window that partition 1 sees at 2^40, over the memory at 2 MiB. -/
def windowGate (st : GateState) (n : Nat) : Gate :=
  ⟨st, [⟨⟨1, 0, 0, true, true, true, true, true⟩, 0⟩], List.replicate n ⟨7, 1, 0, 0⟩, BitVec.ofNat 64 n, 0,
    some ⟨1, 0x200000, [(1, 0x10000000000)]⟩, 0, 0, st⟩

/-- Whether a translation yields an address. -/
def okIs (e : Except FaultClass Nat) (n : Nat) : Bool :=
  match e with
  | .ok m => m == n
  | .error _ => false

theorem ok_of_okIs {e : Except FaultClass Nat} {n : Nat} (h : okIs e n = true) : e = .ok n := by
  unfold okIs at h
  split at h
  · rw [beq_iff_eq] at h
    rw [h]
  · cases h

/-- Core 0 with a vector access through x1 pushed, in the partition that sees the window. -/
def vecGlobal (i : Instr) (x : Word) : State :=
  { pushed i (fun a => { a with x := a.x.set 1 x }) with gates := [(0, windowGate .run 0)] }

/-- Rows in the window; a row whose lane 16 leaves it; a bad tag, an address over the end, a misaligned one. -/
theorem meets_VectorMemoryEntries_global :
    ([.vldg vm true, .vldg vm false, .vstg vm] : List Instr).all (fun i =>
      [0x10000000000, 0x1000000FFC0].all (fun (b : Nat) =>
        let s := vecGlobal i (BitVec.ofNat 64 b)
        let u := (s.bind 0).1
        let k := u.core 0
        let at_ := fun (m : Nat) => (List.range m).map (fun l => (b + 4 * l, 0x200000 + (b - 0x10000000000) + 4 * l))
        let act := if b = 0x10000000000 then 64 else 16
        let v := u.payLines 0 1 (at_ act)
        readies s i && !u.gateStall k.part ((at_ 64).map (fun x => (x.1, 4)))
        && (u.gateStoreTrap k.part ((at_ 64).map (fun x => (x.1, 4)))).isNone && v.2
        && (at_ act).all (fun x => okIs (u.elemPa 0 k x.1 (i == .vstg vm)) x.2)
        && (k.seq.head?).all (fun e => (((v.1.noteAccesses 0 e.chunk e.n ((at_ act).map (fun x => (x.1, x.2, 4, true)))).core 0).journalOver
          e.chunk).isNone)
        && (act == 64 || (match u.elemPa 0 k (b + 64 : Nat) (i == .vstg vm) with
          | .ok _ => false
          | .error f => f == .translate)))) = true
    ∧ (readies (vecGlobal (.vldg vm false) 0x0100000000001000) (.vldg vm false) = true ∧ (0x0100000000001000 : Nat) / 2 ^ 56 % 8 ≠ 0)
    ∧ ((0xFFFFFFFFFFFF00 + 4 * 63 + 4 : Int) ≤ 2 ^ 56 ∧ ¬(0xFFFFFFFFFFFF04 + 4 * 63 + 4 : Int) ≤ 2 ^ 56) := by
  refine ⟨by decide +kernel, by decide +kernel, by decide⟩

/-- Operands of page 4, on the triples at v8, v12 and v16. -/
def tmInstrs : List Instr :=
  [.tmclr 8 ⟨0, false⟩, .tmacc ⟨8, 1, false, ⟨1, false⟩, .fp32⟩, .tmacc ⟨8, 1, false, ⟨0, true⟩, .bf16⟩,
   .tmmerge 8 12 false 16 false ⟨0, false⟩, .tmfold 8 12 false 0, .tmexit 8 12 false ⟨0, false⟩, .tmtab 1 true false]

theorem meets_TransformedMeanEntries : tmInstrs.all (fun i => readies (pushed i id) i) = true := by decide +kernel

/-- An arithmetic context with traps, and one that is quiet. -/
def tmc (quiet : Bool) : TmCtx := { tmCtx k0.arch ⟨.nop, 0, 0, 0, 0, 0, 1⟩ with quiet := quiet }

/-- One term 1.0 on an empty total; a NaN, which traps or with quiet poisons; a term that would be the 2^32nd. -/
theorem meets_TransformedMeanEntries_terms :
    AccAll (tmc false) Total.empty [0x3F800000] ⟨0, 0x3F800000, 1⟩ false
    ∧ AccAll (tmc false) Total.empty [] Total.empty false
    ∧ AccIs (tmc true) Total.empty 0x7FC00000 ⟨nan32, nan32, 1⟩ true
    ∧ AccTraps (tmc false) Total.empty 0x7FC00000 .tmdomain
    ∧ AccTraps (tmc false) ⟨0, 0x3F800000, 0xFFFFFFFF⟩ 0x3F800000 .tmcount := by
  refine ⟨⟨⟨0, 0x3F800000, 1⟩, false, false, ?_, ⟨rfl, rfl⟩, rfl⟩, ⟨rfl, rfl⟩, ?_, ?_, ?_⟩
  · refine ⟨by decide, by decide, ?_⟩
    rw [if_neg (by decide +kernel)]
    refine ⟨rfl, ?_⟩
    rw [if_neg (by decide +kernel), show (tmc false).regime = .additive by decide +kernel]
    exact ⟨rfl, by decide +kernel⟩
  · refine ⟨by decide, by decide, ?_⟩
    rw [if_pos (by decide +kernel)]
    exact ⟨rfl, rfl, rfl, rfl⟩
  · exact .inl ⟨⟨by decide +kernel, rfl⟩, rfl⟩
  · exact .inr ⟨fun h => absurd h.1 (by decide +kernel), by decide, rfl⟩

/-- Two totals of 2^32 - 1 terms: neither a merge nor a fold of them has a total. -/
theorem meets_TransformedMeanEntries_counts :
    let full : Total := ⟨0, 0, 0xFFFFFFFF⟩
    (full.n ≠ 0 ∧ 2 ^ 32 ≤ full.n + full.n) ∧ MergeIs (tmc false) Total.empty full full
    ∧ ∀ t, ¬FoldIs (tmc false) 6 (fun _ => full) t := by
  refine ⟨by decide, rfl, ?_⟩
  rintro t ⟨b, h, -⟩
  have h := h 0 (by decide)
  rw [MergeIs, if_neg (by decide), if_neg (by decide)] at h
  exact absurd h.1 (by decide)

/-- Numbers in and over a table's domain, in both orders and equal, with the two zeros; knots that are numbers. -/
theorem meets_TransformedMeanEntries_sequences :
    (let x := f32.real
     f32.mag 0 < f32.inf ∧ f32.mag 0x3F800000 < f32.inf ∧ x 0 < x 0x3F800000 ∧ x 0 ≤ x 0x3F000000 ∧ x 0x3F000000 ≤ x 0x3F800000
     ∧ (List.replicate 257 0x3F800000).length = 257 ∧ ¬f32.inf < f32.mag 0xFF800000 ∧ x 0x80000000 = x 0
     ∧ f32.neg 0x80000000 ∧ ¬f32.neg 0 ∧ x 0x3F000000 ≠ x 0x3F800000 ∧ 0 < x 0x3F000000)
    ∧ numReal (.fin true 3 0) < 0 ∧ 0 < numReal (.fin false 3 0) ∧ numReal (.fin true 0 0) = 0 := by
  dsimp only; decide +kernel

/-- 07 R153, R154: both sequences are exact at a knot. -/
theorem test_sequences : log2Seq (Fmt.fp32.value 0x41000000) = 0x40400000 ∧ exp2Seq (Fmt.fp32.value 0x40400000) = 0x41000000
    ∧ exp2Seq (Fmt.fp32.value 0x3F000000) = 0x3FB504F3 := by decide +kernel

/-- A fold of empty totals; an empty total to finish, and one that has a mean. -/
theorem meets_TransformedMeanEntries_exits :
    FoldIs (tmc false) 6 (fun _ => Total.empty) Total.empty ∧ ExitDomain (tmc false) Total.empty
    ∧ ¬ExitDomain (tmc false) ⟨0, 0x3F800000, 1⟩ := by
  refine ⟨?_, .inl rfl, ?_⟩
  · have h : ∀ n, FoldIs (tmc false) n (fun _ => Total.empty) Total.empty := by
      intro n
      induction n with
      | zero => rfl
      | succ n ih => exact ⟨fun _ => Total.empty, fun _ _ => rfl, ih⟩
    exact h 6
  · rintro (h | ⟨-, h, -⟩)
    · exact absurd h (by decide)
    · exact absurd h (by decide +kernel)

/-- TMTAB at an aligned place whose words are 0, so that lo is not below hi, and at one whose last word is 1.0; a
misaligned place, one below the range and one over its end. -/
theorem meets_TransformedMeanEntries_tables :
    let one := fun (a : Arch) => { a with spad := [(0x40A, 0x80), (0x40B, 0x3F)] }
    let num := fun (s : State) (i : Nat) => Fmt.fp32.value (memRead ((s.bind 0).1.core 0).arch.spad i 4)
    [id, one].all (fun f =>
      let s := pushed (.tmtab 1 true false) f
      readies s (.tmtab 1 true false) && (List.range 259).all (fun i => (num s (4 * i)).isFin)
      && (((s.bind 0).1.core 0).poisoned 0 1036).isNone) = true
    ∧ (num (pushed (.tmtab 1 true false) id) 0x404).lt (num (pushed (.tmtab 1 true false) id) 0x408) = false
    ∧ (num (pushed (.tmtab 1 true false) one) 0x404).lt (num (pushed (.tmtab 1 true false) one) 0x408) = true
    ∧ readies (pushed (.tmtab 1 true false) (fun a => { a with x := a.x.set 1 2 })) (.tmtab 1 true false) = true
    ∧ ((2 : Nat) % 4 ≠ 0 ∧ 0x7E000 < 0x7DBF8 + 1036 ∧ 0x7DBF4 + 1036 ≤ 0x7E000) := by dsimp only; decide +kernel

/-! ### Synchronisation -/

/-- Both cores are members of line 7 at the partition and of line 0 alone; core 0's x1 names core 1's channel 3. -/
def lined : State :=
  { base with cores := [0, 1].map (fun n => (n, { k0 with arch := { k0.arch with
      bm := (k0.arch.bm.set 7 0x85).set 0 0x80, tvec := 0x100, x := k0.arch.x.set 1 0x3001 } })) }

theorem meets_BarrierInstructions : Quiet lined ∧ lined.me.wait = none
    ∧ (ended lined).enabled 1 = false ∧ ((ended lined).enabled 7 = true ∧ (ended lined).pending 7 = false)
    ∧ (let s := on (fun k => { k with pend := 0x80, arch := { k.arch with bm := k.arch.bm.set 7 0x85 } })
       Quiet s ∧ (ended s).enabled 7 = true ∧ (ended s).pending 7 = true ∧ s.me.wait = none) := by
  dsimp only; decide +kernel

/-- 09 R190: lines 0 and 7 of the mask arrive, line 1 is not enabled; line 0 is the core's own group. -/
theorem test_bmask : leads (exec (.bmask 2 3) (lined.setMe { lined.me with arch := lined.me.arch.setX 3 0x83 }))
    (fun t => t.x 2 == 0x008181) := by decide +kernel

/-- chcfg of channel 3 at core 1: one slot at 0x1000, its sender core 0; and at core 0, from core 1. -/
def channelled (n : Nat) : State :=
  let f := fun (snd : Word) (k : Core) => { k with
    arch := { k.arch with chcfg := k.arch.chcfg.set 3 (0x100001000 + snd <<< 40), x := k.arch.x.set 1 0x3001 }
    chans := k.chans.set 3 { k.chans[3] with count := n, lens := k.chans[3].lens.set 0 8 } }
  { base with cores := [(0, f 1 k0), (1, f 0 { k0 with chans := Vector.replicate 16 Chan.reset })] }

theorem meets_ChannelInstructions :
    let s := (channelled 0).setCore 1 { (channelled 0).core 1 with chans := Vector.replicate 16 Chan.reset }
    let dst := sendDst (s.x 1)
    let q := sendCh (s.x 1)
    let w := ((ended s).core dst).arch.chcfg[q]
    (Quiet s ∧ payloadTrap s.me.arch.stashSize (s.x 2) 8 = none ∧ s.me.poisoned (s.x 2).toNat 8 = none
      ∧ (ended s).refuses dst s.turn = false ∧ chEn w = true ∧ (((ended s).core dst).chans[q]).free (chSlots w) = true
      ∧ chSender w = s.turn ∧ (ended s).spadHeld dst (chBase w) 8 true = false)
    ∧ (Quiet (channelled 1) ∧ chEn (channelled 1).me.arch.chcfg[3] = true ∧ ((channelled 1).me.chans[3]).count ≠ 0)
    ∧ (Quiet s ∧ chEn s.me.arch.chcfg[3] = true ∧ (s.me.chans[3]).count = 0)
    ∧ chEn base.me.arch.chcfg[0] = false := by dsimp only; decide +kernel

/-- 09 R195: length and address. -/
theorem test_recv : leads (exec (.recv 5 3) (channelled 1)) (fun t => t.x 5 == 0x800001000) := by decide +kernel

/-- Own words at offsets 64 (full) and 72 (empty); the last word of the program range. -/
def worded : State := ar (fun a => { (((a.setX 1 64).setX 2 72).setX 3 0x7DFF8) with empties := [72] })

theorem meets_FullEmptyInstructions :
    let e := ended worded
    let u := fun (r : XReg) => e.touchSpad (addrCore (worded.x r)) (addrOffset (worded.x r)) 8 false
    Quiet worded ∧ worded.me.wait = none
    ∧ (∀ r ∈ ([1, 2, 3] : List XReg), worded.wordTrap (worded.x r) 8 = none ∧ e.wordRefused (worded.x r) = false
        ∧ e.spadHeld (addrCore (worded.x r)) (addrOffset (worded.x r)) 8 true = false
        ∧ (e.core (addrCore (worded.x r))).poisoned (addrOffset (worded.x r)) 8 = none
        ∧ addrCore (worded.x r) = worded.turn
        ∧ (worded.readAhead worded.future worded.future.loc (addrOffset (worded.x r)) 8).isSome = true
        ∧ worded.future.s.me.poisoned (addrOffset (worded.x r)) 8 = none)
    ∧ worded.me.seq = []
    ∧ ((u 1).core 0).isFull 64 = true ∧ ((u 2).core 0).isFull 72 = false ∧ ((u 2).core 0).bankUse 72 < 32 := by
  dsimp only; decide +kernel

theorem meets_SuperstepAndShareInstructions :
    Quiet base ∧ (ended base).enabled launchLine = false ∧ base.me.q2 = [] ∧ base.me.copy = none ∧ base.me.plan = []
    ∧ (let s := on (fun k => { k with launch := none })
       Quiet s ∧ s.me.launch = none)
    ∧ (let s := on (fun k => { k with wait := some ⟨.sstep, 4, 5, 0, none⟩ })
       s.me.breakRun.endChunk.chunks = [] ∧ s.me.seq = [] ∧ s.stage = 5 ∧ (ended s).pending launchLine = false)
    ∧ (∀ n ∈ [0, 1, 2, 3, 4, 5], ∀ p ∈ ([0, 0x80] : List (BitVec 8)),
      let s := on (fun k => { k with
        arch := { k.arch with bm := k.arch.bm.set launchLine 0x85 }, pend := p
        wait := if n = 0 then none else some ⟨.sstep, 4, n, 0, none⟩ })
      s.me.breakRun.endChunk.chunks = [] ∧ s.me.seq = [] ∧ (s.stage = n ∨ n < 2) ∧ (ended s).enabled launchLine = true) := by
  dsimp only; decide +kernel

/-- 10 R223: of 10 shares at most 8 are parked. -/
theorem test_shpark : leads (exec (.shpark 5 1) (xs [(1, 9)])) (fun t => t.x 5 == 8 && t.me.arch.sparked == 8) := by
  decide +kernel

/-! ### Memory, queues and engines -/

/-- Core 0 with a pointer to the window in x1 (untyped) and x2 (int32), and a core address in x3. -/
def windowed : State :=
  { xs [(1, 0x10000000000), (2, 0x5800010000000000), (3, 0x80)] with gates := [(0, windowGate .run 0)] }

/-- At the last dword and the first word of the window, with the state that the tokens leave. -/
theorem meets_GlobalAccesses :
    (windowed.globalTrap (windowed.x 1) (accessFmtBad (windowed.x 1)) (0x10000000000 + 8191 * 8) 8 .core = none
      ∧ windowed.gateStoreTrap windowed.me.part [(0x1000000FFF8, 8)] = none
      ∧ (windowed.readAhead windowed.future windowed.future.glob 0x20FFF8 8).isSome = true ∧ windowed.me.seq = []
      ∧ windowed.gateStall windowed.me.part [(0x1000000FFF8, 8)] = false
      ∧ okIs (windowed.accessPa 0x1000000FFF8 false true) 0x20FFF8 = true ∧ okIs (windowed.accessPa 0x1000000FFF8 true false) 0x20FFF8 = true
      ∧ (windowed.payLines windowed.turn 0 [(0x1000000FFF8, 0x20FFF8)]).2 = true)
    ∧ (atomType (windowed.x 2) = some .int32 ∧ ptrBlk (windowed.x 2) = 0
      ∧ windowed.globalTrap (windowed.x 2) false 0x10000000000 4 .pkg = none
      ∧ windowed.gateStoreTrap windowed.me.part [(0x10000000000, 4)] = none
      ∧ (windowed.readAhead windowed.future windowed.future.glob 0x200000 4).isSome = true
      ∧ windowed.gateStall windowed.me.part [(0x10000000000, 4)] = false
      ∧ okIs (windowed.accessPa 0x10000000000 true true) 0x200000 = true
      ∧ (windowed.payLines windowed.turn 0 [(0x10000000000, 0x200000)]).2 = true)
    ∧ (windowed.wordTrap (windowed.x 3) 4 = none ∧ addrCore (windowed.x 3) = windowed.turn
      ∧ (windowed.readAhead windowed.future windowed.future.loc 0x80 4).isSome = true
      ∧ windowed.future.s.me.poisoned 0x80 4 = none) := by decide +kernel

theorem meets_GlobalAccesses_journal :
    (let s := (windowed.payLines windowed.turn 0 [(0x1000000FFF8, 0x20FFF8)]).1
     (s.noteAccess s.turn s.me.curChunk s.me.chunkCnt 0x1000000FFF8 0x20FFF8 8 true).me.journalOver s.me.curChunk = none)
    ∧ (let s := (windowed.payLines windowed.turn 0 [(0x10000000000, 0x200000)]).1
       let q := (s.beginAcquire true .pkg 0x10000000000).seen s.turn s.me.curChunk s.me.chunkCnt 0x200000 true
       let t := (q.endAcquire true .pkg 0x10000000000 0x200000 4).noteAccess q.turn q.me.curChunk q.me.chunkCnt 0x10000000000 0x200000 4 false
       (t.noteAccess t.turn t.me.curChunk t.me.chunkCnt 0x10000000000 0x200000 4 true).me.journalOver t.me.curChunk = none)
    ∧ (let k := windowed.me.noteRead windowed.me.curChunk (linesOf 0x80 4) []
       (k.noteWrite k.curChunk k.chunkCnt (linesOf 0x80 4) []).journalOver k.curChunk = none) := by dsimp only; decide +kernel

theorem meets_FenceChunkHalt : Quiet windowed ∧ windowed.windows windowed.me.part ≠ [] ∧ windowed.me.enginesIdle = true
    ∧ Scope.core ≠ Scope.gate ∧ base.windows base.me.part = [] := by decide +kernel

/-- Partition 1's page table: a page of 1 GiB over physical 0 that may be written. -/
def paged : State :=
  { base with
    mem := [(0x1000, 1), (0x1001, 0x20), (0x2000, 1), (0x2001, 0x30), (0x3000, 7)], parts := [(1, { p0 with root := 0x1000 })] }

/-- The same with a window of cacheable addresses and a stash; functions' tokens without an allotment, and without a
token. -/
def stashed (n : Option Nat) : State :=
  let s := { paged with cores := [(0, { k0 with arch := { k0.arch with stashCfg := 0x10001, sw := k0.arch.sw.set 0 0x4000000000000000 } })] }
  s.onVf 0 (fun v => { v with tokens := Vector.replicate 5 ⟨n, 0, 0, [], []⟩ })

theorem meets_StashInstructions : base.me.arch.windowBad 15 0 = false
    ∧ base.me.arch.windowBad 0 0x4000000000000000 = false ∧ base.me.arch.windowBad 0 0x3C00000000000000 = true
    ∧ ((stashed none).fetchLines 1 2).2 = true ∧ ((stashed (some 0)).fetchLines 1 2).2 = false
    ∧ ((stashed none).me.arch.cacheable 64 = true ∧ (stashed none).winAt (stashed none).me.part 64 = none
      ∧ okIs ((stashed none).translate (stashed none).turn (stashed none).me.part 64 false) 64 = true
      ∧ (stashed none).readBad (stashed none).turn 64 = false ∧ ((stashed none).fetchLine 1).isSome = true)
    ∧ base.me.arch.cacheable 64 = false
    ∧ (match base.translate base.turn base.me.part 64 false with
      | .ok _ => false
      | .error f => f == .translate) = true := by decide +kernel

/-- 14 R276: the lines of a range are brought in. -/
theorem test_fetch : leads (exec (.stashFetch 5 1 2) ((stashed none).setMe { (stashed none).me with
      arch := ((stashed none).me.arch.setX 1 64).setX 2 128 })) (fun t => t.stash.map (·.va) == [2, 1]) := by decide +kernel

theorem meets_QueueInstructions : base.me.wait = none
    ∧ (ar (fun a => { a with q0 := List.replicate 7 0 })).me.arch.q0.length < 8
    ∧ (ar (fun a => { a with q0 := List.replicate 8 0 })).me.arch.q0.length = 8
    ∧ (ar (fun a => { a with q1 := [5] })).me.arch.popQueue 1 = [5] ∧ base.me.arch.popQueue 1 = []
    ∧ base.me.arch.owed = [] ∧ base.me.queueCount 0 ≤ 8
    ∧ (ar (fun a => { a with owed := [0, 7] })).me.arch.owed = [0, 7]
    ∧ (0 : Word) = (ar (fun a => { a with owed := [0, 7] })).x 1 := by decide +kernel

/-- 15 R279: an element that an undone chunk had pushed, and that an entry has popped, is not pushed twice. -/
theorem test_owed : leads (exec (.qpush 1) (ar (fun a => { a with owed := [0, 7] })))
    (fun t => t.me.arch.q0 == [] && t.me.arch.owed == [7]) := by decide +kernel

/-- Core 0 with ring 1 and ring 2 for bf16 and FP32 elements, a copy control word of 64 bytes in x2, a shape of one row in x3, and
a drain control word in x4. -/
def engined (f : Core → Core) : State :=
  let r : Ring := ⟨0x2800000000000000, 4, 0, 0, 4096, 0xFFFFFF⟩
  let q : Ring := { r with base := 0x2000000000000000 }
  let regs := fun (a : Arch) => (((a.setX 1 0x1000).setX 2 64).setX 3 0x1000000000000).setX 4 0x0700000000000000
  on (fun k => f { k with arch := ((regs k.arch).setRing 1 r).setRing 2 q })

theorem meets_EngineCommandsIssue :
    let s := engined id
    let m : MmaMode := ⟨false, false, false, false, 0, false, 5⟩
    let dm : DrainMode := ⟨false, false, false, false⟩
    Quiet s ∧ copyTrap s.me.arch.stashSize (copyCmd .l2l 0x1000 0 64 none) 64 none = none
    ∧ copyTrap s.me.arch.stashSize (copyCmd .l2l 0x1000 0 64 (some (s.x 3))) 64 (some (s.x 3)) = none
    ∧ mmaTrap s.me.arch s.turn 0 1 1 m 256 = none ∧ drainTrap s.me.arch 0 2 (s.x 4) dm = none
    ∧ rtsendTrap s.me.arch.stashSize 0x1234_0000003F 0x1000 0x0700000000010002 = none
    ∧ (s.me.q2.length < 2 ∧ s.me.q4.length < 2 ∧ s.me.q6.length < 2)
    ∧ (let t := engined (fun k => { k with
          q2 := List.replicate 2 (copyCmd .l2l 0 0 0 none), q4 := List.replicate 2 ⟨0, 1, .mma 1 m 1⟩
          q6 := List.replicate 2 (rtCmd k.arch 0 0 0) })
       Quiet t ∧ t.me.q2.length = 2 ∧ t.me.q4.length = 2 ∧ t.me.q6.length = 2) := by dsimp only; decide +kernel

/-- A ring that no command names and one that an MMA in the queue names; geometries with and without res bits. -/
theorem meets_RingAndStreamInstructions :
    let old := ringed.me.arch.rings[1]
    let half : Ring := { ring2 with tail := 1 }
    let g : Ring := ⟨0x2000000000000000, 2, 0, 0, 0x1000, 0xFFFFFF⟩
    ((0xFFFFFF_00_1000_0002 / 2 ^ 32 % 2 ^ 8 = 0) ∧ ringed.me.ringNamed 1 = false ∧ g.check ringed.me.arch.stashSize = none
      ∧ ({ g with base := 0x2000000000000001 } : Ring).check 0 ≠ none)
    ∧ (0xFFFFFF_01_1000_0002 / 2 ^ 32 % 2 ^ 8 ≠ 0 ∧ g.check 0 ≠ some .fmt ∧ g.check 0 ≠ some .base)
    ∧ (engined (fun k => { k with q4 := [⟨0, 1, .mma 1 ⟨false, false, false, false, 0, false, 5⟩ 1⟩] })).me.ringNamed 1 = true
    ∧ (old.slots ≠ 0 ∧ old.count + 2 ≤ old.slots) ∧ (old.slots < old.count + 3)
    ∧ (half.slots ≠ 0 ∧ 1 ≤ half.count) ∧ half.count < 2 ∧ base.me.arch.rings[0].slots = 0 := by dsimp only; decide +kernel

/-- Entry 63's control word, its state word, and the words that no entry has. -/
theorem meets_RingAndStreamInstructions_named :
    [0x43F, 0x53F, 0x63F, 0x83F, 0x07F].map (fun x => (decide (x / 2 ^ 11 = 0 ∧ x / 2 ^ 6 % 4 = 0 ∧ x / 2 ^ 8 % 8 < 6), x / 2 ^ 8 % 8))
      = [(true, 4), (true, 5), (false, 6), (false, 0), (false, 0)]
    ∧ rtsetTrap 0 4 0x101 = none ∧ rtsetTrap 0 0 0x10001 = none := by decide +kernel

/-- Gate 0 of package 0 named by core 0's x1, its payload at 0x40, in a state of the gate with n posts queued. -/
def gated (st : GateState) (n : Nat) : State :=
  { xs [(1, 0x07FFFFE00000000), (2, 0x40)] with gates := [(0, windowGate st n)] }

theorem meets_GateInstructions :
    let s := gated .run 1
    let e := ended s
    let g := e.gate 0
    Quiet s ∧ e.gateNamed (ptrAddr (s.x 1)) = some 0
    ∧ s.me.part.bind g.slotFor = some (0, ⟨⟨1, 0, 0, true, true, true, true, true⟩, 0⟩)
    ∧ (match e.myVf with
        | none => true
        | some v => (e.spendToken v gateTokens).any (fun (t : State) => t.turn == s.turn)) = true
    ∧ (∀ o ∈ [GateOp.post, .take, .stat .peers, .err, .rearm],
        o.allowed ⟨1, 0, 0, true, true, true, true, true⟩ = true ∧ e.windowHeld g o = false)
    ∧ s.gateTrap (s.x 1) (some (s.x 2)) = none ∧ s.gateTrap (s.x 1) none = none ∧ s.me.poisoned 0x40 64 = none := by
  dsimp only; decide +kernel

/-- 20 R369: the payload of a take reaches the buffer, and the word carries the post's number 1 and status OK. -/
theorem test_gtake : leads (exec (.gtake 5 1 2) (gated .run 1)) (fun t => t.x 5 == 0x100000000
    && memRead t.me.arch.spad 0x40 8 == 7) := by decide +kernel

/-! ### Events of a core -/

/-- Core 0 blocked in an instruction at a stage. -/
def blocked (i : Instr) (stage : Nat) (s : State) : State := s.setMe { s.me with wait := some ⟨i, 4, stage, 0, none⟩ }

theorem meets_CoreEvents :
    (let s := blocked (.qpop 5 1) 0 (ar (fun a => { a with q1 := [5] }))
     s.me.wait.map (fun x => (x.instr, x.stage)) = some (.qpop 5 1, 0) ∧ s.me.run = .running ∧ s.me.arch.popQueue 1 = [5])
    ∧ (let s := blocked (.send 1 2 false 0) 1 ((channelled 0).setCore 1 { (channelled 0).core 1 with chans := Vector.replicate 16 Chan.reset })
       s.refuses 1 0 = false ∧ chEn (s.core 1).arch.chcfg[3] = true ∧ ((s.core 1).chans[3]).free (chSlots (s.core 1).arch.chcfg[3]) = true
       ∧ chSender (s.core 1).arch.chcfg[3] = 0 ∧ s.spadHeld 1 0x1000 8 true = false ∧ sendDst (s.me.arch.getX 1) = 1
       ∧ sendCh (s.me.arch.getX 1) = 3)
    ∧ (let s := blocked (.fetake 5 1) 2 worded
       s.me.chunks = [] ∧ s.me.seq = [] ∧ s.wordTrap (s.x 1) 8 = none ∧ (ended s).wordRefused (s.x 1) = false
       ∧ (ended s).spadHeld 0 64 8 true = false ∧ ((ended s).core 0).poisoned 64 8 = none
       ∧ (((ended s).touchSpad 0 64 8 false).core 0).isFull 64 = true)
    ∧ (lined.setMe { lined.me with pend := 1 }).phaseDone 0 0 = true
    ∧ (State.reset.core 5).run = .inReset ∧ ¬(base.me.run = .inReset ∨ base.me.run = .held) := by
  dsimp only; decide +kernel

/-- 08 R180: the release of line 7 once both members have arrived; core 1's pend bit falls too. -/
theorem test_release :
    let s := lined.onCores [0, 1] (fun k => { k with pend := 0x80 })
    leads (exec (.barrierRelease 0 7) s) (fun t => (t.core 0).pend == 0 && (t.core 1).pend == 0) := by
  dsimp only; decide +kernel

/-- Core 0 with other shares and levels. -/
def powered (f : Power → Power) : State := on (fun k => { k with power := f k.power })

theorem meets_LevelSteps :
    (let k := fun (f : Power → Power) => (powered f).me
     ((k id).power.mode = .run ∧ (k id).power.cur < 12)
     ∧ ((k (fun p => { p with cur := 0 })).stepGoal = some 6) ∧ ((k (fun p => { p with cur := 11 })).stepGoal = some 6)
     ∧ ((k (fun p => { p with own := 1 })).stepGoal = none)
     ∧ ((k (fun p => { p with own := 24 })).target = some 11) ∧ (k (fun p => { p with own := 1 })).eff < 2) := by
  dsimp only; decide +kernel

/-- 10 R212: a loan of 4 shares reaches core 0. -/
theorem test_lend : leads (exec (.lend 0) { base with amber := [.lend (.core 1) (.core 0) (.core 1) 1 4] })
    (fun t => (t.core 0).power.inHere == 4 && (t.core 0).holding == 14) := by decide +kernel

theorem meets_AmberMessages :
    (base.me.power.mode ≠ .lend ∧ Holder.core 1 ≠ Holder.core 0
      ∧ base.me.power.inb.all (fun x => !x.is (.core 1) (.core 1) 1) = true)
    ∧ (let b : Contrib := ⟨.core 1, .core 1, 1, 5, 0, 0, 0, true⟩
       let k := (powered (fun p => { p with inb := [b] })).me
       k.power.mode ≠ .lend ∧ k.power.inb = [b] ∧ b.due = 0 ∧ 5 ≤ b.here ∧ 5 ≤ k.spare)
    ∧ base.me.power.mode = .run ∧ (powered (fun p => { p with mode := .halted })).me.power.mode = .halted
    ∧ (let s := (blocked (.barv 7) 0 vectored).onCore 0 (fun k =>
         { k with power := { k.power with mode := .lend, edge := some (.core 1) } })
       s.me.power.mode = .lend ∧ s.me.power.edge = some (.core 1) ∧ s.me.satisfied = false
       ∧ s.me.arch.waitcfg.getLsbD 1 = false ∧ s.me.arch.inHandler = false ∧ s.me.arch.tvec ≠ 0) := by
  dsimp only; decide +kernel

/-- A link that narrows, with a cluster whose slice runs and with none, and one that widens. -/
theorem meets_GovernorAndRegulators :
    base.time.toNat + 1700 < 2 ^ 64 ∧ (on (fun k => { k with run := .stopped })).me.run = .stopped ∧ base.me.run ≠ .stopped
    ∧ base.me.power.mode ≠ .dark ∧ base.me.launch = some 1 ∧ base.me.power.own ≤ 24
    ∧ base.me.power.mode = .run
    ∧ ({ base with links := base.links.set 17 ⟨.full, some .narrow⟩ } : State).links[17].change = some .narrow
    ∧ Width.narrow.shares ≤ Width.full.shares ∧ base.sliceClusters = [] ∧ Width.standby.shares < Width.full.shares
    ∧ (on (fun k => { k with slice := { k.slice with ran := some 0 } })).sliceClusters = [0] := by
  decide +kernel

/-- Core 0 with a wake. -/
def woken : State := powered (fun p => { p with wake := some ⟨0, 0⟩ })

theorem meets_GovernorAndRegulators_slew :
    (0 : CoreId) ∈ clusterCores 0 ∧ woken.me.power.wake = some ⟨0, 0⟩ ∧ (∀ i : Fin 10, 4 ≤ (woken.rampUp[i]).val)
    ∧ (clusterCores 0).all (fun d => decide ((woken.core d).slice.cmd = none) && !(woken.core d).slice.endedNow
      && !(woken.core d).slice.filling && (d == 0 || decide ((woken.core d).power.wake = none))) = true
    ∧ ({ woken with parts := [(1, { p0 with attached := true })] } : State).attachedTo 0 = true := by
  decide +kernel

/-- Core 0 with one ended chunk that has a pending byte, with a conflict or without. -/
def chunked (bad : Bool) : State :=
  on (fun k => { k with
    chunks := [⟨0, k.arch, 3, none, true, false, [], [], [(3, 0)], [], [], [], [], [], bad⟩], nextChunk := 1
    arch := { k.arch with gwrites := [⟨0, 0, 0x40, 9⟩] } })

theorem meets_MemoryEvents :
    ((chunked false).commitReady 0 = true ∧ (chunked false).me.headRun.any (·.conflict) = false
      ∧ ((chunked false).me.headRun.find? (chunked false).me.cutEarly).isNone = true
      ∧ (chunked false).journalBad 0 (runLines (chunked false).me.headRun) = none)
    ∧ ((chunked true).commitReady 0 = true ∧ (chunked true).me.headRun.any (·.conflict) = true
      ∧ (chunked true).me.chunks.length = 1)
    ∧ (paged.me.part = some 1 ∧ (tabFind paged.parts 1).map (·.root) = some 0x1000 ∧ paged.me.run = .running)
    ∧ (match paged.walk 0x3FFFFFFF 0x1000 5 with
        | .ok lf => lf.w && lf.base == 0
        | .error _ => false) = true
    ∧ (match paged.walk (2 ^ 55 - 1) 0x1000 5 with
        | .ok _ => false
        | .error f => f == .translate) = true
    ∧ (0x3FFFFFFF < 2 ^ 55 ∧ inGateRegion 0x3FFFFFFF = false ∧ 0x3FFFFFFF < devPageVa ∧ (paged.winAt (some 1) 0x3FFFFFFF).isNone = true)
    ∧ (okIs (paged.translate 0 (some 1) 64 false) 64 = true ∧ okIs (paged.translate 0 (some 1) 64 true) 64 = true)
    ∧ paged.heldBack (some 0) [1] = false ∧ base.heldBack none [1] = false := by decide +kernel

theorem test_commit : leads (exec (.chunkCommit 0 false) (chunked false)) (fun t => t.mem == [(0x40, 9)]) := by decide +kernel

/-! ### Engines at work -/

/-- A local copy of 64 bytes from 0 to 0x1000, and a copy of two rows of 8 bytes to global memory that advances ring 1. -/
def cmd64 : CopyCmd := copyCmd .l2l 0x1000 0 64 none
def cmdRows (kind : CopyKind) : CopyCmd := ⟨kind, 0, 0x200, 8, 2, 64, 16, 7, true, 1, true⟩

/-- Core 0 with a copy command in progress, in the partition whose pages map to themselves, with ring 1. -/
def copying (m : CopyCmd) (pos : Nat) : State :=
  { paged with cores := [(0, { k0 with arch := k0.arch.setRing 1 ring2, copy := some ⟨m, pos, [], [], false⟩ })] }

theorem payLines_free (ls : List (Nat × Nat)) : ∀ (s : State) (c : CoreId), s.vfs = State.reset.vfs → (s.payLines c 2 ls).2 = true := by
  induction ls with
  | nil => intro s c _; rfl
  | cons x ls ih =>
    intro s c h
    have spent : ∀ v r, s.spendToken v r = some s := by
      intro v r
      simp only [State.spendToken, h, State.reset, Vf.reset, Vector.getElem_replicate, Fin.getElem_fin]
    have vfs : ∀ v nc l, (s.touchNear v nc l).vfs = s.vfs := by
      intro v nc l
      unfold State.touchNear
      repeat' split
      all_goals rfl
    rw [State.payLines]
    split
    · exact ih s c h
    · unfold State.transfer
      split
      · rename_i hs
        revert hs
        split
        · intro hs; cases hs
        · intro hs; simp only [spent, Option.map_some] at hs; cases hs
      · rename_i t hs
        refine ih _ c ?_
        revert hs
        split
        · intro hs; cases hs; exact h
        · intro hs
          simp only [spent, Option.map_some, Option.some.injEq] at hs
          subst hs
          show State.vfs (if _ then _ else _) = _
          split
          · exact h
          · rw [vfs]; exact h

/-- Copies of every kind, in one segment or several: no gate has a window, and every page maps to itself. -/
theorem copying_free (m : CopyCmd) (pos : Nat) : CopyFree (copying m pos) 0 := by
  refine ⟨rfl, rfl, rfl, rfl, rfl, rfl, fun as => ⟨?_, ?_⟩, rfl, fun ls => payLines_free ls _ _ rfl⟩
  · induction as with
    | nil => rfl
    | cons a as ih => exact ih
  · induction as with
    | nil => rfl
    | cons a as ih => exact ih

theorem copying_mapped (kind : CopyKind) : CopyMapped (copying (cmdRows kind) 0) 0 (cmdRows kind) id := by
  have h : (List.range 0x80 ++ (List.range 0x20).map (0x200 + ·)).all (fun a => okIs (paged.translate 0 (some 1) a false) a
      && okIs (paged.translate 0 (some 1) a true) a) = true := by decide +kernel
  have g : ∀ a w, a < 0x80 ∨ 0x200 ≤ a ∧ a < 0x220 → (copying (cmdRows kind) 0).translate 0 (some 1) a w = .ok a := by
    intro a w ha
    have := List.all_eq_true.mp h a (by
      rw [List.mem_append, List.mem_map]
      rcases ha with ha | ha
      · exact .inl (List.mem_range.mpr ha)
      · exact .inr ⟨a - 0x200, List.mem_range.mpr (by omega), by omega⟩)
    rw [Bool.and_eq_true] at this
    show paged.translate 0 (some 1) a w = .ok a
    cases w
    · exact ok_of_okIs this.1
    · exact ok_of_okIs this.2
  refine ⟨fun r _ => ?_, fun a b h => h, fun _ r a h => g a false ?_, fun _ r a h => g a true ?_⟩
  · simp only [cmdRows]; omega
  · simp [CoversRow, cmdRows] at h; omega
  · simp [CoversRow, cmdRows] at h; omega

theorem meets_CopyEngineEvents :
    (let k := (on (fun k => { k with q2 := [cmd64] })).me
     k.enginesRun = true ∧ k.halting = false ∧ k.q2 = [cmd64] ∧ k.copy = none ∧ k.arch.q3.length < 4)
    ∧ (let e : PlanEntry := ⟨1, 0, 0, 8⟩
       let s := blocked .sstep 3 (on (fun k => { k with plan := [e] }))
       s.me.plan[s.me.planAt]? = some e ∧ s.me.inExchange = true ∧ s.me.q2 = [] ∧ s.me.copy = none
       ∧ s.me.poisoned 0 8 = none ∧ s.spadHeld 1 0 8 true = false ∧ s.me.enginesRun = true ∧ s.me.halting = false)
    ∧ (Remains (cmdRows .l2g) 9 0x211 ∧ FirstOf (cmdRows .l2g) 8 0x211)
    ∧ (4096 < (copyCmd .l2l 0x1000 0 5000 none).total ∧ (cmdRows .l2g).total ≤ 0 + 4096) := by
  refine ⟨by dsimp only; decide +kernel, by dsimp only; decide +kernel,
    ⟨⟨⟨by decide, by decide⟩, ?_⟩, ?_⟩, by decide, by decide⟩
  · intro r h ⟨h1, _⟩
    simp only [cmdRows] at h h1
    omega
  · refine ⟨⟨0x210, by decide, by decide, by decide⟩, ?_⟩
    rintro g h b hb ⟨_, h2⟩
    simp [cmdRows] at h2
    omega

/-- The copied bytes arrive, and the completion's element carries rows and length (15 R289). -/
theorem test_copy :
    let s := on (fun k => { k with copy := some ⟨cmd64, 0, [], [], false⟩, arch := { k.arch with spad := [(63, 7)] } })
    leads (exec (.copySegment 0 false) s) (fun t => memGet (t.core 0).arch.spad 0x103F == 7
      && (t.core 0).arch.q3 == [0x100000040]) := by dsimp only; decide +kernel

/-- 15 R286, R289: the second row of a copy to global memory lies 16 bytes on, and ring 1 advances. -/
theorem test_copy_rows :
    let s := copying (cmdRows .l2g) 0
    leads (exec (.copySegment 0 false) (s.onCore 0 (fun k => { k with arch := { k.arch with spad := [(65, 7)] } })))
      (fun t => memGet t.mem 0x211 == 7 && (t.core 0).arch.rings[1].tail == 1 && (t.core 0).arch.q3 == [0x0701000200000008]) := by
  dsimp only; decide +kernel

/-- An MMA of one step on tile 0 from ring 1, which holds a tile. -/
def mma1 (gang : Bool) : MmaMode := ⟨false, false, gang, false, 0, false, 5⟩

/-- The cores with that ring, in gang [0, 1], and a slice command in a phase. -/
def sliced (m : MatOp) (ph : Phase) (n : Nat) (gang : List CoreId) : State :=
  let r : Ring := ⟨0x2800000000000000, 4, 0, 1, 4096, 0xFFFFFF⟩
  { base with cores := [0, 1].map (fun c => (c, { k0 with
      arch := { k0.arch.setRing 1 r with gang := 2 }, slice := ⟨some ⟨⟨0, 1, m⟩, ph, n, gang, false⟩, false, false, none⟩ })) }

theorem meets_MatrixEvents :
    let k := (engined (fun k => { k with q4 := [⟨0, 1, .mma 1 (mma1 false) 1⟩] })).me
    k.enginesRun = true ∧ k.slice.cmd = none ∧ k.q4 = [⟨0, 1, .mma 1 (mma1 false) 1⟩] ∧ k.arch.q5.length < 4 := by
  dsimp only; decide +kernel

theorem meets_MatrixEvents_gang :
    let s := sliced (.mma 1 (mma1 true) 1) .joining 0 []
    s.me.gangCores 0 = [0, 1] ∧ (0 : CoreId) ∈ [(0 : CoreId), 1]
    ∧ s.me.gangMma = some (⟨0, 1, .mma 1 (mma1 true) 1⟩, 1, mma1 true, 1) ∧ s.unfit [0, 1] = []
    ∧ [(0 : CoreId), 1].all (fun d => (s.core d).enginesRun && (s.core d).part == s.me.part
      && (s.core d).committed.gang == s.me.committed.gang && !(s.core d).mismatch (s.me.bFmt 1) false 1) = true := by
  dsimp only; decide +kernel

/-- A step of a core alone and of the gang's two members. -/
theorem meets_MatrixEvents_step :
    (∃ y, CanStep (sliced (.mma 1 (mma1 false) 1) .running 0 []) 0 y)
    ∧ (∃ y, CanStep (sliced (.mma 1 (mma1 true) 1) .running 0 [0, 1]) 0 y)
    ∧ (∃ y, CanStep (sliced (.mma 1 (mma1 true) 1) .running 0 [0, 1]) 1 y) := by
  have h : ∀ (s : State) (d : CoreId), (s.stepOf d).any (fun t => (s.core d).stepping && s.tilesHere t && !s.stepBad t) = true →
      (s.core d).chunks = [] → (s.core d).poison = [] → (s.core d).errs.acc = [] → ∃ y, CanStep s d y := by
    intro s d h h1 h2 h3
    revert h
    cases hy : s.stepOf d with
    | none => intro h; cases h
    | some y =>
      intro h
      simp only [Option.any_some, Bool.and_eq_true, Bool.not_eq_true'] at h
      exact ⟨y, hy, h.1.1, h.1.2, h.2, h1, h2, h3⟩
  exact ⟨h _ _ (by decide +kernel) rfl rfl rfl, h _ _ (by decide +kernel) rfl rfl rfl, h _ _ (by decide +kernel) rfl rfl rfl⟩

theorem meets_MatrixEvents_value :
    let s := sliced (.mma 1 (mma1 false) 1) .running 0 []
    (s.stepOf 0).any (fun t => !t.mode.byp && !blkReserved (s.ringA t).blk && !blkReserved (s.ringB t).blk && !t.p.res
      && (s.ringA t).blk == 0) = true
    ∧ (float4 .fp32).mag (tileElem (s.me.z[0]) 0) < (float4 .fp32).inf := by dsimp only; decide +kernel

/-- An MMA that has ended, alone and with done on a line without and with an open arrival; drains without and with a ring. -/
theorem meets_MatrixEvents_ends :
    let s := sliced (.mma 1 (mma1 false) 1) .running 1 []
    let done : MmaMode := ⟨false, false, false, false, 7, true, 5⟩
    let a := sliced (.mma 1 done 1) .running 1 []
    let b := a.onCore 0 (fun k => { k with arch := { k.arch with bm := k.arch.bm.set 7 0x85 } })
    let d := fun (nor : Bool) => sliced (.drain ⟨false, nor, false, true⟩ 0x3F800000 7) .running 0 []
    s.me.slice.cmd.any (fun r => r.phase == .running && r.k == 1 && !r.corrected) = true ∧ s.me.enginesRun = true
    ∧ s.me.halting = false ∧ done.done = true ∧ done.line = 7
    ∧ (b.me.arch.bm[7]).getLsbD 7 = true ∧ b.me.pend.getLsbD 7 = false
    ∧ (b.onCore 0 (fun k => { k with pend := 0x80 })).me.pend.getLsbD 7 = true
    ∧ [true, false].all (fun n => (d n).me.slice.cmd.any (fun r => r.phase == .running) && (d n).me.enginesRun
      && !(d n).me.halting && (d n).me.errs.acc.isEmpty && (d n).me.chunks.isEmpty) = true
    ∧ (d false).me.arch.resTile 0 = false ∧ ((d false).me.arch.rings[1]).blk = 0
    ∧ ((d false).me.arch.rings[1]).fmt = FpTy.bf16.fmt := by
  dsimp only; decide +kernel

/-- Entry 3: packets from the local port go to the core at 0x2000. -/
def view3 : View := ⟨0x200001, Vector.replicate 4 0x100010001, 0, 0, 0⟩

/-- Core 0 with that entry, a router command in progress, and other changes. -/
def routed (x : Packet) (f : Core → Core) : State :=
  on (fun k => f { k with
    entries := k.entries.set 3 ⟨view3, 0, 0, [(0, x)], []⟩, arch := { k.arch with views := k.arch.views.set 3 view3 } })

theorem meets_RouterEvents :
    let c : RtCmd := rtCmd base.me.arch 0x700000003 0x1000 0x0700000000000001
    (base.me.enginesRun = true ∧ base.me.rcmd = none)
    ∧ (c.lost = false ∧ base.me.roomAt c.entry 0 = true ∧ 0 < c.npk ∧ base.me.poison = [])
    ∧ (let s := routed ⟨false, 7, 0, 5, false⟩ id
       let n := s.me.entries[3]
       s.back = [] ∧ n.nextEmission.any (fun x => x.1 == ⟨false, 7, 0, 5, false⟩ && !s.emitBad 0 3 x.1) = true
       ∧ portOut n.words.ports[n.cur] = 1 ∧ s.me.run = .running ∧ s.me.prio = false ∧ (7 : BitVec 16) ∉ s.me.lostCids)
    ∧ (let s := routed ⟨false, 7, 0, 5, false⟩ (fun k => { k with lostCids := [7] })
       (7 : BitVec 16) ∈ s.me.lostCids)
    ∧ (base.me.entries[3].idle = true ∧ base.me.run ≠ .frozen
      ∧ (ar (fun a => { a with views := a.views.set 3 view3 })).me.committed.views[3] ≠ base.me.entries[3].words)
    ∧ (let s := on (fun k => { k with run := .frozen, arch := { k.arch with views := k.arch.views.set 3 view3 } })
       s.me.run = .frozen ∧ s.me.committed.views[3] ≠ s.me.entries[3].words)
    ∧ (c.mark = false ∧ c.nres ≤ (base.me.entries[c.entry]).results.length
      ∧ (base.me.entries[c.entry]).results.all (!·) = true ∧ base.me.halting = false ∧ base.me.arch.q7.length < 4
      ∧ base.me.q6 = [])
    ∧ (15 : Nat) < 16
    ∧ ((on (fun k => { k with run := .stopped })).me.run = .stopped ∧ linkAt (linkPort 0).1 (linkPort 0).2 = some 0
      ∧ ((base.setCore (linkPort 0).1 k0).core (linkPort 0).1).run = .running ∧ k0.lostCids = []) := by
  dsimp only; decide +kernel

/-- 23 R388: the packet's body at dbase; nothing is written once the collective is lost (R396). -/
theorem test_emit : leads (exec (.streamPacket 0 ⟨3, none⟩) (routed ⟨false, 7, 0, 5, false⟩ id))
    (fun t => memRead (t.core 0).arch.spad 0x2000 8 == 5)
    ∧ leads (exec (.streamPacket 0 ⟨3, none⟩) (routed ⟨false, 7, 0, 5, false⟩ (fun k => { k with lostCids := [7] })))
    (fun t => memRead (t.core 0).arch.spad 0x2000 8 == 0) := by decide +kernel

/-! ### Faults, stops, tenancy and the host -/

/-- A TRANSLATE fault of core 0. -/
def fault1 : Detected := ⟨.translate, .global, 0x40, 0, 0, some 1, some 1⟩

/-- Launch 1 of partition 1, running with a watchdog of 1000 microseconds. -/
def launch1 : Launch := { State.reset.readLaunch 0 1 0 with part := 1, interval := 1000, state := .running }

theorem meets_FaultHandling :
    (let s : State := { base with pendingFaults := [fault1] }
     s.pendingFaults = [fault1] ∧ fault1.part = some 1 ∧ (tabFind s.parts 1).any (fun p => !p.faulted) = true
     ∧ (0 : CoreId) ∈ s.coresOf 1 ∧ (s.core 0).run ≠ .inReset)
    ∧ (tabFind [(1, { p0 with faulted := true })] 1).any (·.faulted) = true
    ∧ windowed.parts = [(1, p0)] ∧ windowed.mapsTo 1 p0 0x200008 = some 0x10000000008
    ∧ (let s : State := { base with launches := [(1, launch1)], time := 1700000 }
       s.watchdogCycles s.me = some 1700000 ∧ s.me.run = .running ∧ s.me.dbg.hold = false
       ∧ 1700000 ≤ s.time.toNat - s.me.progress.toNat) := by dsimp only; decide +kernel

/-- 19 R338: the fault freezes the partition's cores. -/
theorem test_fault : leads (exec .fault { base with pendingFaults := [fault1] })
    (fun t => (t.core 0).run == .frozen && (t.core 1).run == .frozen && (tabFind t.parts 1).any (·.faulted)) := by
  decide +kernel

/-- Partition 1 in a stop state. -/
def stopping (f : Part → Part) : State := { base with parts := [(1, f p0)] }

/-- Partitions 1 and 2 share a node in time, and partition 1 has a launch that runs; its slice is 100 microseconds. -/
def slicing (time : Word) : State :=
  { base with
    parts := [(1, { p0 with shared := [⟨⟨0, 0, 0⟩, 100⟩] }), (2, { p0 with vf := 1, shared := [⟨⟨0, 0, 0⟩, 100⟩] })]
    launches := [(1, launch1)], time := time }

theorem meets_StopAndResume :
    (p0.stop = .none ∧ p0.faulted = false ∧ base.time.toNat + 1700 ≤ (1700 : Word).toNat ∧ tabFind base.parts 1 = some p0)
    ∧ (base.me.part = some 1 ∧ (stopping (fun p => { p with stop := .sweeping })).me.flushed = false)
    ∧ (let s := (stopping (fun p => { p with stop := .sweeping })).onCores [0, 1] (fun k => { k with flushed := true })
       s.pendingFaults = [] ∧ (s.coresOf 1).all (fun x => (s.core x).flushed) = true)
    ∧ (let p : Part := { p0 with stop := .stopped }
       let s := stopping (fun _ => p)
       s.time.toNat ≤ (0 : Word).toNat ∧ s.hasSlice 1 p = true ∧ s.turnCame 1 p = true ∧ p.migrating = false
       ∧ s.mayMigrate 1 p [⟨0, 0, 2⟩] = true ∧ s.quiet 1 [(0, k0)] = true ∧ s.mayMigrate 1 p [] = false)
    ∧ (let y : StashLine := ⟨0, 0x400000000, 0x8000, .m, true⟩
       let s := { windowed with stash := [y] }
       y.st = .m ∧ y.bad = true ∧ y.core ∈ s.coresOf 1 ∧ s.mapsTo 1 p0 (64 * y.line) = some 0x10000000000
       ∧ windowed.stash.all (!·.bad) = true)
    ∧ (StopState.resuming 0 ≠ .none ∧ (0 : Word).toNat ≤ base.time.toNat) ∧ k0.run ≠ .inReset := by dsimp only; decide +kernel

/-- At the last time before the stop of the slice is asked for, and at the first at which it is. -/
theorem meets_StopAndResume_slice :
    (tabFind (slicing 0).parts 1).any (fun p => !((slicing 0).sharers 1 p).isEmpty && p.stop == .none && !p.faulted
      && (leastNat (p.shared.map (·.slice))).getD 100000 == 100
      && decide ((168299 : Word).toNat + 1700 < p.since.toNat + 100 * 1700)
      && decide (p.since.toNat + 100 * 1700 ≤ (168300 : Word).toNat + 1700)) = true
    ∧ (slicing 0).launchesOf 1 .running ≠ [] := by decide +kernel

/-- A gate's entry for partition 1. -/
def entry1 : GateEntry := ⟨1, 2, 10, true, true, true, true, true⟩

theorem meets_GateAndTokenEvents :
    ((base.gate (gateKey ⟨0, 5⟩)).state = .unset ∧ entriesOk [entry1] = true
      ∧ base.windowOk ⟨0, 5⟩ [entry1] ⟨1, 0x200000, [(1, 0x10000000000)]⟩ = true ∧ (0 : Fin 128) ∈ base.domain)
    ∧ (windowed.gate 0).state ≠ .unset ∧ ((gated .closed 0).gate 0).state = .closed
    ∧ ((base.time.toNat / 17000 + 1) * 17000 < 2 ^ 64 ∧ (base.time.toNat / 17000 + 1) * 17000 / 17000 = base.tokensAt + 1)
    ∧ ((List.finRange 16).all (fun v => (List.finRange 5).all (fun r =>
        ((base.vfs[v]).tokens[r]).plan.isEmpty && ((base.vfs[v]).tokens[r]).drawn == 0))) = true
    ∧ ((⟨some 2, 0, 9, [], []⟩ : Tokens).plan = [] ∧ (9 + 7) / 8 ≤ 2)
    ∧ (let s := blocked (.gstat 5 1 .posts) 1 (gated .run 1)
       s.me.wait.map (fun x => (x.instr, x.stage)) = some (.gstat 5 1 .posts, 1) ∧ s.me.run = .running
       ∧ s.gateNamed (ptrAddr (s.me.arch.getX 1)) = some 0
       ∧ (s.me.part.bind (s.gate 0).slotFor).isSome = true ∧ s.myVf = some 0
       ∧ (s.spendToken 0 gateTokens).isSome = true) := by dsimp only; decide +kernel

/-- 20 R359: of 9 tokens drawn, 2 are due in the next period. -/
theorem test_debt : ((⟨some 5, 0, 9, [(3, 9)], []⟩ : Tokens).refill.1.left, (⟨some 5, 0, 9, [(3, 9)], []⟩ : Tokens).refill.2)
    = (3, [(3, 2)]) := by decide +kernel

/-- Function 0 enabled, and more. -/
def vf0 (f : Vf → Vf) (s : State) : State := s.onVf 0 (fun v => { f v with enabled := true, inc := 1 })

/-- An entry that adds node 1 to partition 1, alone in its command. -/
def reconf1 (node : Nat) (last : Bool) : ReconfEntry := ⟨true, last, 0, 1, 0, ⟨0, 0, node⟩, true, true⟩

theorem meets_PartitionEvents :
    (base.vfs[0].enabled = false ∧ base.boot.done = true ∧ 1 ∈ base.boot.policies ∧ base.boot.hasFrontEnd 0 = true)
    ∧ (vf0 id base).vfs[0].enabled = true
    ∧ (let ms : List (Nat × BitVec 512) := [(0, 3)]
       let p : Part := { p0 with resize := [ms] }
       let s := stopping (fun _ => p)
       ms.all (fun m => m.2 == 0) = false ∧ ms.all (fun m => s.domain.any (fun g => g.val == m.1)) = true
       ∧ p.resize = ms :: [] ∧ s.launches = [] ∧ p.migrating = false
       ∧ (s.parts.all (fun q => q.1 == 1 || (s.resizeChanges p ms).all (fun x =>
            !maskHas ms x.1 x.2 || !inNodes q.2.nodes x.1 x.2))) = true)
    ∧ (base.otherAllotments 1 + 65536 ≤ 65536 - base.reserve ∧ base.otherAllotments 1 + 65537 > 65536 - base.reserve)
    ∧ (∀ i : Fin 10, 8 ≤ (base.rampUp[i]).val ∧ 8 ≤ (base.rampDown[i]).val)
    ∧ ((vf0 id base).reconfReason (vf0 id base).parts .add (reconf1 1 false) = none ∧ (vf0 id base).parts = [(1, p0)])
    ∧ (vf0 id base).reconfReason (vf0 id base).parts .add (reconf1 1 true) = none
    ∧ (vf0 id { base with parts := [] }).reconfReason [] .add (reconf1 1 true) = none
    ∧ (vf0 id base).reconfReason (vf0 id base).parts .add (reconf1 512 true) = some 1
    ∧ (let e : ReconfEntry := { reconf1 2 true with first := false }
       let r : Reconf := [(.add, reconf1 1 false)]
       let run := fun (x : Reconf) => match (vf0 id base).reconfRun 0 (vf0 id base).parts x with
         | .ok _ => none
         | .error y => some y
       e.first = false ∧ e.last = true ∧ r.length < 64 ∧ 64 ≤ (List.replicate 64 (ReOp.add, e)).length
       ∧ run (r ++ [(.add, e)]) = none ∧ run (r ++ [(.add, { e with node := ⟨0, 0, 512⟩ })]) = some (1, 1)
       ∧ ({ e with last := false } : ReconfEntry).last = false) := by dsimp only; decide +kernel

/-- 20 R355: the only entry of a command is applied; a core of the node joins the partition. -/
theorem test_reconf :
    leads (exec (.reconfigureAdd (reconf1 0 true)) (vf0 id { base with parts := [], cores := [(1, Core.initial)] }))
      (fun t => (tabFind t.parts 1).map (·.nodes) == some [⟨0, 0, 0⟩] && (t.core 1).part == some 1 && t.reply == none) := by
  decide +kernel

/-- A Morup object with one native variant, one kernel and a text section of one halfword. -/
def object1 : List Host.Cell :=
  [(0, 0x4D), (1, 0x4F), (2, 0x46), (4, 1), (24, 1), (28, 64), (32, 1), (36, 160), (40, 176), (44, 2), (48, 1), (52, 128),
   (56, 1), (60, 96), (70, 1), (72, 2), (76, 180), (98, 1), (102, 1), (142, 0xFF), (143, 0xFF), (170, 1), (171, 1),
   (176, 0x6B)]

/-- A launch record at 0x1000 of host memory that names it, for one core of partition 1 on node 0. -/
def record1 : List Host.Cell :=
  [(0x1001, 0x20), (0x1008, 182), (0x1016, 1), (0x1020, 1), (0x1024, 1), (0x1028, 1), (0x1030, 1), (0x1034, 1), (0x1038, 1)]

/-- Function 0 enabled with a submission to carry out; no core has started. -/
def hosted (x : Submission) : State :=
  let h := record1 ++ object1.map (fun e => (e.1 + 0x2000, e.2))
  vf0 (fun v => { v with subs := [x], qsize := 2 }) { State.reset with parts := [(1, p0)], host := State.reset.host.set 0 h }

/-- The result of a check, if it passes. -/
def okOf {α : Type} (e : Except Nat α) : Option α :=
  match e with
  | .ok a => some a
  | .error _ => none

theorem meets_HostEvents_launch :
    let s := hosted ⟨1, 1, 0x1000⟩
    (okOf (s.launchRefusal (s.readLaunch 0 1 0x1000) (s.hostNat 0 0x1000 144))).any (fun d => d.text == [0, 0]) = true
    ∧ (okOf (s.launchRefusal (s.readLaunch 0 1 0) (s.hostNat 0 0 144))).isNone = true := by dsimp only; decide +kernel

/-- The launch as accepted. -/
def accepted : State := after (exec (.launch 0) (hosted ⟨1, 1, 0x1000⟩))

/-- 24 R402: identifier 1, and the next is 2. -/
theorem meets_HostEvents_start :
    accepted.nextLaunch = 2
    ∧ (match tabFind accepted.launches 1, tabFind accepted.parts 1 with
      | some l, some p => accepted.mayStart 1 l p && (match accepted.loadFor l p (accepted.areaUse 1) with
        | .ok (some _) => true
        | _ => false)
      | _, _ => false) = true := by decide +kernel

/-- 08 R172: the core of the launch is held at its entry. -/
theorem test_start : leads (exec (.launchStart 1) accepted) (fun t => (t.core 0).run == .held && (t.core 0).launch == some 1
    && (t.core 1).run == .inReset) := by decide +kernel

theorem meets_HostEvents :
    ((tabFind (hosted ⟨1, 2, 1⟩).parts 1).map (·.vf) = some 0 ∧ (hosted ⟨1, 2, 1⟩).launchesOf 1 .running = [])
    ∧ (1 ≤ (256 : Word).toNat ∧ (256 : Word).toNat ≤ 256) ∧ ((hosted ⟨1, 4, 0⟩).vfs[0].dseq.toNat ≤ (0 : Word).toNat)
    ∧ (let s := { vf0 (fun v => { v with qsize := 2 }) base with
         host := base.host.set 0 [(0, 1), (8, 3), (16, 5)] }
       let q := s.vfs[0]
       q.enabled = true ∧ q.sqread % q.sqSize ≠ (1 : Word).toNat % q.sqSize ∧ (q.sqread + 1) % q.sqSize = (1 : Word).toNat % q.sqSize
       ∧ entryOk (s.sqEntry 0) = true ∧ BitVec.ofNat 64 (s.sqEntry 0) = q.hseq + 1 ∧ q.held = []) := by
  dsimp only; decide +kernel

/-- A function with events 2 and 3 retained, and a RESYNC to carry out. -/
def resyncing : Vf := { Vf.reset with enabled := true, subs := [⟨9, 4, 1⟩], dseq := 3, retained := [(2, 5), (3, 6)] }

/-- RESYNC after 1, and after 0 with event 1 gone. -/
theorem meets_HostEvents_resync :
    resyncing.subs = [⟨9, 4, 1⟩] ∧ (0 : Word).toNat < resyncing.dseq.toNat
    ∧ resyncing.retained.any (fun e => e.1.toNat == (1 : Word).toNat + 1) = true
    ∧ resyncing.retained.all (fun e => e.1.toNat != (0 : Word).toNat + 1) = true := by decide +kernel

/-- A table for package 3: column 0 of each die is Slate's, columns 1 to 32 are logical, with spares. -/
def table1 (spares : List Nat) : BootTable :=
  let all := fun (cs : List Nat) => ((List.range 4).map (fun d => cs.map (fun c => (d, c)))).flatten
  ⟨3, [3], 1, all [0], all spares, [], 0, [], 100, []⟩

/-- A boot that finds everything in order. -/
def boot1 (spares : List Nat) : BootInput := ⟨true, true, true, 2, [4], table1 spares⟩

theorem meets_ManagementEvents_boot :
    BootTable.ok (boot1 [33, 34, 35]).table = true
    ∧ ((boot1 [33, 34, 35]).fetched = true ∧ (boot1 [33, 34, 35]).tableOk = true ∧ (boot1 [33, 34, 35]).imagesOk = true
      ∧ base.boot.columnFaults = [])
    ∧ BootTable.ok { table1 [33, 34, 35] with slateWidth := 3 } = false
    ∧ (let t : BootTable := { table1 [33, 34, 35] with remap := [(1, 33), (2, 34), (3, 35)] }
       BootTable.ok t = true ∧ 4 ∈ usedColumns t 0 ∧ ∀ x ∈ t.spareColumns, x.1 = 0 → x.2 ∈ usedColumns t 0) := by
  dsimp only; decide +kernel

theorem meets_ManagementEvents :
    (base.boot.umber < 2 ∧ 1 ≤ base.boot.umber ∧ 2 ∉ base.boot.policies) ∧ base.time.toNat + 1700000 < 2 ^ 64
    ∧ ((List.finRange 16).all (fun w => w == 0 || !((vf0 id base).vfs[w]).enabled) = true ∧ ((vf0 id base).vfs[0]).enabled = true)
    ∧ base.attachedTo 0 = false
    ∧ (let s := stopping (fun p => { p with attached := true })
       s.attachedTo 0 = true ∧ s.me.run = .running ∧ s.me.wait = none ∧ s.me.arch.pc ≠ 2 ∧ (2 : Half) ∉ s.me.dbg.brks
       ∧ s.me.arch.stashSize ≤ (0x7DFFF : BitVec 19).toNat / 8 * 8 ∧ (0x7DFFF : BitVec 19).toNat / 8 * 8 ≤ 0x7DFFF)
    ∧ (let s : State := { on (fun k => { k with dbg := ⟨false, false, [0], 0⟩ }) with parts := [(1, { p0 with attached := true })] }
       s.attachedTo 0 = true ∧ s.me.arch.pc = 0 ∧ (0 : Half) ∈ s.me.dbg.brks ∧ s.me.dbg.hold = false)
    ∧ ((on (fun k => { k with dbg := ⟨true, false, [0], 0⟩ })).me.dbg.hold = true)
    ∧ base.me.errs = ⟨[], [], [], []⟩ := by
  dsimp only; decide +kernel

/-! ### KPF (04 R84 to R86) -/

/-- A record of LI x5 with the immediate -3: header, tag 1 and 5, tag 0 and -3 in SLEB128. -/
theorem test_kpf_record :
    (readRecords 8 0 [0x0D, 0, 0, 8, 1, 5, 0, 0x7D]).map (fun rs => (rs.map (fun r => (r.page, r.op, r.ops)), rs.all (KRecord.ok 1)))
      = some ([(0, 13, [.x 5, .imm (-3)])], true) := by decide +kernel

/-- A reserved tag, a last use that is no vector register's, and a vector register of two groups, last used. -/
theorem test_kpf_tags : readOperand [11, 0] = none ∧ readOperand [0x81, 0] = none
    ∧ readOperand [0x82, 0xC8, 0x01] = some (.v 200 true, []) := by decide +kernel

/-- A target beyond the records is BADKPF: the only record's transfer names record 1. -/
theorem test_kpf_target : (match translate [0x12, 0, 0, 4, 10, 1] [] 1 0 0 with
    | .bad => true
    | _ => false) = true := by decide +kernel

/-! ### Reset and steps -/

theorem meets_CoreReset : (base.setCore 0 k0.toReset).core 0 = k0.toReset := by rfl

theorem meets_CoreReset_turn : (State.reset.core 9).run = .inReset ∧ (on (fun k => { k with run := .held })).me.run = .held
    ∧ (on (fun k => { k with run := .halted })).me.run = .halted := by decide +kernel

theorem meets_EveryStepHasANextState : State.reset.agendaOk = true := by rfl
theorem meets_StepKeepsMemoryCanonical : paged.memOk := by rfl

/-- Core 0 at an ADDI x3 = x0 + 5 (word 0x2B05), at the head of the agenda. -/
def stepping1 (f : Core → Core) : State :=
  { on (fun k => f { k with istore := putHalves [] 0 [0x2B05] }) with agenda := [.core 0] }

/-- With the word correct and with it uncorrectable. -/
theorem meets_StepRunsDecodedInstruction :
    [id, fun (k : Core) => { k with errs := ⟨[0], [], [], []⟩ }].map (fun f =>
      let s := stepping1 f
      (s.agenda == [.core 0] && s.me.run == .running && s.me.wait.isNone && s.me.power.cur != 15 && !s.me.dbg.hold
        && !s.me.dbg.brks.contains s.me.arch.pc && !s.settling s.me && !s.me.waitsForRun, s.me.fetchBad))
    = [(true, false), (true, true)] := by decide +kernel

/-- No stop is due, whatever time has passed. -/
theorem meets_StepRunsDecodedInstruction_due : (stepping1 id).tick.due = none := by rfl

theorem meets_StepRunsDecodedInstruction_decode : decode (stepping1 id).me.fetchHalves = .ok (.addi 3 0 5, 2)
    ∧ decode base.me.fetchHalves = .ok (.nop, 2)
    ∧ decode (on (fun k => { k with istore := putHalves [] 0 [0xE800] })).me.fetchHalves = .error ⟨.illegal, 0xE800⟩ := by
  refine ⟨rfl, rfl, rfl⟩

/-- An instruction of each page is well formed and fits. -/
theorem meets_RoundTrips :
    ([.add 1 2 3, .loopi true 5 6, .vadd vb, .vldg vm false, .tmexit 1 2 false ⟨0, false⟩] : List Instr).all
      (fun i => i.hasWords && i.wf && i.fits) = true
    ∧ ([.send 1 2 true 7, .mma 0 1 2 (mma1 true) 256, .gstat 1 2 .peers] : List Instr).all
      (fun i => i.hasWords && i.wf && i.fits) = true
    ∧ ([.add 1 2 3, .loopi true 5 6, .vadd vb, .vldg vm false, .tmexit 1 2 false ⟨0, false⟩, .send 1 2 true 7,
        .mma 0 1 2 (mma1 true) 256, .gstat 1 2 .peers] : List Instr).map (fun i => i.fields.page) = [0, 1, 2, 3, 4, 5, 6, 7] := by
  decide +kernel

/-- The whole package takes its first step: the instruction placed at reset runs. -/
theorem test_first_step : leads (step (State.reset.withFetchWord 16 0x2B05)) (fun t => t.me.arch.x[3] == 5 && t.fresh == 1) := by rfl


/-! ### Witnesses of wider clauses -/

/-- A gate in each of its states, whose entry 0 has no rate, a spent bucket or a rate with tokens left; queues empty,
half full and full; ERROR recorded by this entry and by another. -/
theorem meets_GateInstructions_reply :
    let g := windowGate .run 1
    let sl : GateSlot := ⟨⟨1, 0, 0, true, true, true, true, true⟩, 0⟩
    let rated := fun (n : Nat) => ({ sl with entry := { sl.entry with rate := 5 }, bucket := n } : GateSlot)
    g.slots[0]? = some sl ∧ sl.entry.rate = 0
    ∧ ((rated 0).entry.rate ≠ 0 ∧ (rated 0).bucket = 0) ∧ ((rated 1).entry.rate ≠ 0 ∧ (rated 1).bucket ≠ 0)
    ∧ ([GateState.unset, .run, .error, .migrating, .closed].map (fun st => (windowGate st 1).state))
      = [.unset, .run, .error, .migrating, .closed]
    ∧ (windowGate .run 16).queue.length = 16 ∧ (windowGate .run 0).queue = []
    ∧ (g.queue.length ≠ 16 ∧ g.queue = ⟨7, 1, 0, 0⟩ :: [])
    ∧ g.recBy = 0 ∧ ({ g with recBy := 1 } : Gate).recBy ≠ 0 ∧ g.recBy < 8 ∧ tabFind base.parts 1 = some p0 := by
  dsimp only; decide +kernel

/-- The largest element of each type. -/
theorem meets_GlobalAccesses_atoms : [AtomTy.int32, .int64, .fp32, .bf16].all (fun ty => decide (2 ^ ty.fmt.width - 1 < 2 ^ ty.fmt.width)
    && (ty.fmt.width == if ty == .bf16 then 16 else if ty == .int64 then 64 else 32)) = true := by decide +kernel

/-- 14 R269: a signed minimum, a sum that wraps, and a swap that compares. -/
theorem test_atoms : atomNew .min .int32 0xFFFFFFFF 1 0 = 0xFFFFFFFF ∧ atomNew .add .int32 0xFFFFFFFF 2 0 = 1
    ∧ atomNew .cas .int32 5 9 5 = 9 ∧ atomNew .cas .int32 6 9 5 = 6 := by decide +kernel

/-- A word of core 1's bank, named by core 0. -/
theorem meets_GlobalAccesses_remote :
    let s := xs [(1, coreAddr 1 0x80)]
    let e := ended s
    Quiet s ∧ s.wordTrap (s.x 1) 4 = none ∧ addrCore (s.x 1) = 1 ∧ (1 : CoreId) ≠ s.turn ∧ e.wordRefused (s.x 1) = false
    ∧ e.spadHeld 1 (addrOffset (s.x 1)) 4 true = false ∧ (e.core 1).poisoned (addrOffset (s.x 1)) 4 = none := by
  dsimp only; decide +kernel

/-- A least element where nothing has the property, and where a copy of one row of 64 bytes leaves the program range. -/
theorem meets_CopyChecks :
    LeastOf (RowByteOutside 0 64 1 0 0 0x7DFFF) 5 ∧ LeastOf (RowByteOutside 0x7DFE0 64 1 0 0 0x7DFFF) 0x7E000
    ∧ RowByteOutside 0x7DFE0 64 1 0 0 0x7DFFF 0x7E000 := by
  refine ⟨?_, ?_, Or.inr (by decide), 0, by decide, 32, by decide, by decide⟩
  · rintro y ⟨h, r, hr, i, hi, e⟩
    have h0 : ((0 : Word).toNat % 2 ^ 56 : Nat) = 0 := by decide
    rw [h0] at e
    omega
  · rintro y ⟨h, r, hr, i, hi, e⟩
    have h0 : ((0x7DFE0 : Word).toNat % 2 ^ 56 : Nat) = 0x7DFE0 := by decide
    rw [h0] at e
    exact ⟨⟨Or.inr (by decide), 0, by decide, 32, by decide, by decide⟩, by omega⟩

/-- Operands that trap, of each command. -/
theorem meets_EngineCommandsIssue_traps :
    let s := engined id
    let m : MmaMode := ⟨false, false, false, false, 0, false, 5⟩
    (copyTrap s.me.arch.stashSize (copyCmd .l2l 0x1000 0 (64 + 2 ^ 40) none) (64 + 2 ^ 40) none).isSome = true
    ∧ (copyTrap s.me.arch.stashSize (copyCmd .l2l 0x1000 0 64 (some 0)) 64 (some 0)).isSome = true
    ∧ (mmaTrap s.me.arch s.turn 0 0 1 m 1).isSome = true
    ∧ (drainTrap s.me.arch 0 0 (s.x 4) ⟨false, false, false, false⟩).isSome = true
    ∧ (rtsendTrap s.me.arch.stashSize (2 ^ 6) 0x1000 0x0700000000010002).isSome = true := by dsimp only; decide +kernel

/-- The object with a second section: an exchange plan of one entry towards a rank. -/
def object2 (rank : BitVec 8) : List Host.Cell :=
  [(0, 0x4D), (1, 0x4F), (2, 0x46), (4, 1), (24, 2), (28, 184), (32, 1), (36, 160), (40, 176), (44, 2), (48, 1), (52, 128),
   (56, 1), (60, 96), (98, 1), (102, 2), (142, 1), (170, 1), (171, 1), (176, 0x6B)]
  ++ [(190, 1), (192, 2), (196, 180), (220, 3), (224, 32), (228, 248), (248, 1), (252, 16), (260, 1), (264, 8), (276, rank)]

/-- The object with a data section of 16 zero bytes. -/
def object3 : List Host.Cell :=
  [(0, 0x4D), (1, 0x4F), (2, 0x46), (4, 1), (24, 2), (28, 184), (32, 1), (36, 160), (40, 176), (44, 2), (48, 1), (52, 128),
   (56, 1), (60, 96), (98, 1), (102, 2), (142, 0xFF), (143, 0xFF), (170, 1), (171, 1), (176, 0x6B)]
  ++ [(190, 1), (192, 2), (196, 180), (220, 1), (224, 16)]

/-- The bytes of an object. -/
def bytesOf (o : List Host.Cell) : List Byte := (List.range 280).map (fun i => memGet o i)

/-- The launch that the record names, with another object. -/
def launch2 (o : List Host.Cell) : Launch := { (hosted ⟨1, 1, 0x1000⟩).readLaunch 0 1 0x1000 with object := bytesOf o }

/-- A launch and its record, with each cause of a refusal at its boundary. -/
theorem meets_RefusalsAre :
    let s := hosted ⟨1, 1, 0x1000⟩
    let l := s.readLaunch 0 1 0x1000
    let rec_ := s.hostNat 0 0x1000 144
    (rec_ / 2 ^ 112 % 2 ^ 16 = 0 ∧ (rec_ + 2 ^ 112) / 2 ^ 112 % 2 ^ 16 ≠ 0)
    ∧ [112, 128, 352, 480, 608].all (fun b => rec_ / 2 ^ b % 2 ^ 16 == 0) = true
    ∧ (rec_ / 2 ^ 151 % 2, rec_ / 2 ^ 156 % 2 ^ 4, rec_ / 2 ^ 169 % 2 ^ 7) = (0, 0, 0)
    ∧ tabFind s.parts l.part = some p0 ∧ (tabFind s.parts 9).isNone = true
    ∧ (p0.vf = l.vf ∧ l.node.ok = true ∧ p0.nodes.any (fun n => decide (l.node.order ≤ n.order)
        && n.hasCluster l.node.pkg l.node.origin) = true) ∧ (p0.vf ≠ 1)
    ∧ (l.g = (1, 1, 1) ∧ l.s = (1, 1, 1) ∧ l.bms.all (· == 0) = true) ∧ l.interval = 100000
    ∧ (match s.loadFor { l with object := [] } p0 [] with
      | .error f => f == LoadFail.badMagic
      | .ok _ => false) = true
    ∧ (match s.loadFor (launch2 object3) p0 [] with
      | .error f => f == LoadFail.layout
      | .ok _ => false) = true
    ∧ (match s.loadFor l p0 [] with
      | .ok (some d) => d.share == 0 && d.plans.all (·.isEmpty) && p0.allotment == 10 * 8
      | _ => false) = true
    ∧ ({ p0 with allot := some 9 } : Part).allotment < 10
    ∧ (match s.loadFor (launch2 (object2 1)) p0 [] with
      | .ok (some d) => d.plans == [[⟨1, 0, 0, 8⟩]]
      | _ => false) = true
    ∧ objNat l.object 0 64 % 2 ^ 32 = 0x00464F4D ∧ 64 ≤ l.object.length
    ∧ objNat ((l.object.set 4 2)) 0 64 / 2 ^ 32 % 2 ^ 16 ≠ 1 := by dsimp only; decide +kernel

/-- A launch whose plan is valid, and one whose plan names a rank that the launch lacks, as they start. -/
theorem meets_HostEvents_plan : [0, 1].map (fun rank =>
    let s : State := { accepted with launches := accepted.launches.map (fun e => (e.1, { e.2 with object := bytesOf (object2 rank) })) }
    match tabFind s.launches 1, tabFind s.parts 1 with
    | some l, some p => s.mayStart 1 l p && (match s.loadFor l p (s.areaUse 1) with
      | .ok (some d) => d.planBad l.size == (rank == 1)
      | _ => false)
    | _, _ => false) = [true, true] := by decide +kernel

/-- The line that a directory request brings in is correct; a clean chunk, and one whose executions have not been
squashed. -/
theorem meets_MemoryEvents_lines : paged.fillBad 0 64 = false ∧ ({ paged with memPoison := [8] } : State).fillBad 0 64 = true
    ∧ ((chunked false).me.chunks.all (fun h => tabGet 0 (chunked false).me.squashes h.start.pc.toNat < 8)) = true := by
  decide +kernel

/-- Behind a VADD of integers nothing can trap; behind one of residues that are still to be pushed something can. -/
theorem meets_SuperstepAndShareInstructions_early :
    (pushed (.vadd vb) id).future.risky = false ∧ (pushed (.vadd ⟨1, 2, false, .q0, ⟨0, false⟩, .res, false, false, .rne⟩) id).future.risky = true
    ∧ base.future.risky = false ∧ base.me.seq = [] := by decide +kernel

/-- A partition that migrates from node 0 to node 2, its cores' shares back. -/
theorem meets_StopAndResume_cutover :
    let p : Part := { p0 with stop := .stopped, migrating := true, dest := [(⟨0, 0, 0⟩, ⟨0, 0, 2⟩)] }
    let s := stopping (fun _ => p)
    p.migrating = true ∧ s.quiet 1 p.movedSaved = true ∧ s.launchesOf 1 .running = [] := by dsimp only; decide +kernel

/-- A step whose A comes from the bypass. -/
theorem meets_MatrixEvents_bypass :
    let s := (sliced (.mma 1 { mma1 false with byp := true } 1) .running 0 []).onCore 0 (fun k => { k with
      bypass := some ⟨0, [], .bf16, 0⟩ })
    (s.stepOf 0).any (fun t => t.mode.byp && !t.p.res && t.p.e == 48 && (s.core 0).stepping && s.tilesHere t && !s.stepBad t) = true := by
  dsimp only; decide +kernel

/-- Telemetry: an interval that has ended, and the next that has not; what a turn finds due. -/
theorem meets_ManagementEvents_telemetry :
    (let s : State := { base with time := 1700000 }
     (s.telemetryAt + 1) * 1700000 ≤ s.time.toNat)
    ∧ (base.time.toNat < (base.telemetryAt + 1) * 1700000 ∧ base.time.toNat / 1700000 = base.telemetryAt
      ∧ (base.telemetryAt + 1) * 1700000 < 2 ^ 64) := by dsimp only; decide +kernel

/-- The listing of 04 R74 as records: LI x5, 3; ADDI x5, x5, -1; BNEZ x5, record 1; HALT. -/
def kpfCount : List Byte :=
  [0x0D, 0, 0, 8, 1, 5, 0, 3, 5, 0, 0, 12, 1, 5, 1, 5, 0, 0x7F, 18, 0, 0, 8, 1, 5, 10, 1, 0, 1, 0, 4, 0, 0]

/-- Its code is the listing's, the branch with an IMM prefix; without a scratch area. -/
theorem test_kpf_native : translate kpfCount [] 1 0 0
    = .code (halfBytes [0x6D03, 0x2DBF, 0xF9FF, 0x95FF, 0x0100]) [(0, 0), (8, 2), (18, 4), (26, 8)] := by decide +kernel

/-- x40 takes the lowest register that is free, a constant that no prefixes hold is built, and a vector register beyond
the file takes one that no record names. -/
theorem test_kpf_registers :
    (KRecord.native ⟨[40], [], []⟩ (fun _ => 0) 0 ⟨0, 0, 0, 0, 0, 0, 13, [.x 40, .imm (2 ^ 40)]⟩).map List.length = some 6
    ∧ (⟨[40, 2], [1, 33], [9]⟩ : KFiles).xOf 40 = some 3 ∧ (⟨[40, 2], [1, 33], [9]⟩ : KFiles).vOf 33 = some 0
    ∧ (⟨[40, 2], [1, 33], [9]⟩ : KFiles).pOf 9 = some 1 ∧ (⟨List.range 33, [], []⟩ : KFiles).xOf 32 = none := by
  decide +kernel

/-- No interval of telemetry has ended that has no record yet, whatever time has passed. -/
theorem meets_StepRunsDecodedInstruction_telemetry :
    let s : State := { stepping1 id with telemetryAt := 2 ^ 64 }
    s.tick.time.toNat / 1700000 ≤ s.telemetryAt ∧ s.boot.telemetry.length ≤ 1000 :=
  ⟨Nat.le_trans (Nat.div_le_self _ _) (Nat.le_of_lt (BitVec.isLt _)), by decide +kernel⟩
end Sys2Proof.Tests
end

/-! PROOFS. The sequential core (01): the next pc and the loop counts (R20, R21). -/

namespace Sys2Proof.Machine

open Claims

/-! ### What a completed or transferring instruction leaves of its core (01 R20, R21) -/

theorem completed_arch (s : State) (a : Arch) : (s.completed a).me.arch = a.advance s.me.ilen := by simp

theorem jumped_arch (s : State) (a : Arch) (pc : BitVec 16) : (s.jumped a pc).me.arch = { a with pc := pc } := by simp

/-- The count left is the low field of loop.n.cnt; the other three stay. -/
theorem loopSetRem_eq (w : Word) (r : BitVec 16) :
    loopSetRem w r = loopStart w ++ loopEnd w ++ loopReload w ++ r := by
  have h : w.extractLsb' 16 48 = loopStart w ++ loopEnd w ++ loopReload w := by
    ext i hi
    simp only [loopStart, loopEnd, loopReload, BitVec.getElem_extractLsb']
    grind
  rw [loopSetRem, h]

/-- An instruction whose next address is npc is the last of the body of the loop that w counts (R21). -/
def EndsLoop (w : Word) (npc : BitVec 16) : Prop := loopRem w ≠ 0 ∧ npc = loopEnd w

theorem endsLoop_iff {w : Word} {npc : BitVec 16} : (loopRem w != 0 && npc == loopEnd w) = true ↔ EndsLoop w npc := by
  simp [EndsLoop]

theorem rem_pred {r : BitVec 16} : (r - 1 != 0) = true ↔ r ≠ 1 := by
  simp only [bne_iff_ne, ne_eq]
  bv_omega

section
variable {a : Arch} {len : Nat}

/-- Flowing on changes the pc and the loop counts alone. -/
theorem advance_frame : a.advance len = { a with
    pc := (a.advance len).pc, loop0 := (a.advance len).loop0, loop1 := (a.advance len).loop1 } := by
  unfold Arch.advance
  dsimp only
  repeat' split
  all_goals rfl

theorem advance_inHandler (h : a.inHandler = true) : a.advance len = { a with pc := a.pc + BitVec.ofNat 16 len } := by
  simp only [Arch.advance, h, if_true]

variable (h : a.inHandler = false)
include h

theorem advance_noLoop (h0 : ¬EndsLoop a.loop0 (a.pc + BitVec.ofNat 16 len))
    (h1 : ¬EndsLoop a.loop1 (a.pc + BitVec.ofNat 16 len)) :
    a.advance len = { a with pc := a.pc + BitVec.ofNat 16 len } := by
  simp only [Arch.advance, h, Bool.false_eq_true, endsLoop_iff, h0, h1, if_false]

theorem advance_loop0_again (h0 : EndsLoop a.loop0 (a.pc + BitVec.ofNat 16 len)) (hr : loopRem a.loop0 ≠ 1) :
    a.advance len = { a with loop0 := loopSetRem a.loop0 (loopRem a.loop0 - 1), pc := loopStart a.loop0 } := by
  simp only [Arch.advance, h, Bool.false_eq_true, endsLoop_iff, h0, rem_pred, hr, ne_eq, not_false_eq_true, if_true,
    if_false]

theorem advance_loop0_done (h0 : EndsLoop a.loop0 (a.pc + BitVec.ofNat 16 len)) (hr : loopRem a.loop0 = 1)
    (h1 : ¬EndsLoop a.loop1 (a.pc + BitVec.ofNat 16 len)) :
    a.advance len = { a with loop0 := loopSetRem a.loop0 0, pc := a.pc + BitVec.ofNat 16 len } := by
  have last : loopRem a.loop0 - 1 = 0 := by rw [hr]; rfl
  simp only [Arch.advance, h, Bool.false_eq_true, endsLoop_iff, h0, h1, last, bne_self_eq_false, if_true, if_false]

/-- Loop 0 is done where loop 1 ends too: loop 0 is loaded again for the next round of loop 1. -/
theorem advance_both_done (h0 : EndsLoop a.loop0 (a.pc + BitVec.ofNat 16 len)) (hr : loopRem a.loop0 = 1)
    (h1 : EndsLoop a.loop1 (a.pc + BitVec.ofNat 16 len)) :
    a.advance len = { a with
      loop0 := loopSetRem a.loop0 (loopReload a.loop0), loop1 := loopSetRem a.loop1 (loopRem a.loop1 - 1)
      pc := if loopRem a.loop1 = 1 then a.pc + BitVec.ofNat 16 len else loopStart a.loop1 } := by
  have last : loopRem a.loop0 - 1 = 0 := by rw [hr]; rfl
  simp only [Arch.advance, h, Bool.false_eq_true, endsLoop_iff, h0, h1, last, rem_pred, bne_self_eq_false, ne_eq,
    if_true, if_false, ite_not]

theorem advance_loop1 (h0 : ¬EndsLoop a.loop0 (a.pc + BitVec.ofNat 16 len))
    (h1 : EndsLoop a.loop1 (a.pc + BitVec.ofNat 16 len)) :
    a.advance len = { a with
      loop1 := loopSetRem a.loop1 (loopRem a.loop1 - 1)
      pc := if loopRem a.loop1 = 1 then a.pc + BitVec.ofNat 16 len else loopStart a.loop1 } := by
  simp only [Arch.advance, h, Bool.false_eq_true, endsLoop_iff, h0, h1, rem_pred, ne_eq, if_true, if_false, ite_not]

end

/-- Settles O7: each step of R21 is a lemma about `Arch.advance`. -/
theorem nextPcAndLoopEnds : Obligations.NextPcAndLoopEnds := by
  unfold Obligations.NextPcAndLoopEnds
  intro s a tgt
  simp only [completed_arch, jumped_arch, ← loopSetRem_eq]
  refine ⟨advance_frame, trivial, fun h => ?_, fun h => ⟨fun h0 hr => ?_, fun h0 hr h1 => ?_, fun h0 hr h1 => ?_,
    fun h0 h1 => ?_, fun h0 h1 => ?_⟩⟩
  · rw [advance_inHandler h]; exact ⟨rfl, rfl, rfl⟩
  · rw [advance_loop0_again h h0 hr]; exact ⟨rfl, rfl, rfl⟩
  · rw [advance_loop0_done h h0 hr h1]; exact ⟨rfl, rfl, rfl⟩
  · rw [advance_both_done h h0 hr h1]; exact ⟨rfl, rfl, rfl⟩
  · rw [advance_loop1 h h0 h1]; exact ⟨rfl, rfl, rfl⟩
  · rw [advance_noLoop h h0 h1]; exact ⟨rfl, rfl, rfl⟩

end Sys2Proof.Machine

/-! PROOFS. Registers read after writes (01 R8, R9) and reset (01 R27). -/

namespace Sys2Proof.Machine

open Claims

/-! ### x registers and predicates (01 R8, R9) -/

theorem getP_zero (a : Arch) : a.getP 0 = 256 := rfl

theorem setP_zero (a : Arch) (n : Nat) : a.setP 0 n = a := rfl

theorem getP_setP_same (a : Arch) {p : PReg} (n : Nat) (h : p ≠ 0) : (a.setP p n).getP p = min n 256 := by
  simp [Arch.getP, Arch.setP, h]

theorem getP_setP_ne (a : Arch) {p q : PReg} (n : Nat) (h : q ≠ p) : (a.setP p n).getP q = a.getP q := by
  unfold Arch.getP Arch.setP
  split
  · rfl
  · split
    · rfl
    · exact congrArg Fin.val (Vector.getElem_set_ne p.isLt q.isLt (fun e => h (Fin.ext e.symm)))

theorem getP_le (a : Arch) (p : PReg) : a.getP p ≤ 256 := by
  unfold Arch.getP
  split
  · exact Nat.le_refl _
  · exact Nat.le_of_lt_succ (a.p[p]).isLt

/-- Settles O8: reads after writes of the x registers and the predicates. -/
theorem zeroRegisterAndPredicates : Obligations.ZeroRegisterAndPredicates := by
  unfold Obligations.ZeroRegisterAndPredicates
  intro a r q v p o n
  exact ⟨getX_zero a, setX_zero a v, getX_setX_same a r v, getX_setX_ne a r q v, getP_zero a, setP_zero a n,
    getP_setP_same a n, getP_setP_ne a n, getP_le a o⟩

/-! ### Reset (01 R27) -/

theorem memRead_nil (a n : Nat) : memRead [] a n = 0 := by
  induction n generalizing a with
  | zero => rfl
  | succ n ih => simp [memRead, memGet, tabGet, ih]

theorem reset_core (c : CoreId) : State.reset.core c = Core.initial := rfl

/-- Settles O52: each listed field of `State.reset`. -/
theorem resetState : Obligations.ResetState := by
  unfold Obligations.ResetState
  refine ⟨rfl, rfl, rfl, rfl, rfl, rfl, rfl, memRead_nil, fun c => ?_⟩
  rw [reset_core]
  exact ⟨rfl, rfl, rfl, fun _ => rfl⟩

/-- Settles O53: the memory after reset lists no byte, and the agenda no turn. -/
theorem resetIsSound : Obligations.ResetIsSound := ⟨rfl, rfl⟩

theorem reset_getX (spad : List Host.Cell) (r : XReg) : (Arch.reset spad).getX r = 0 := by
  unfold Arch.getX
  split
  · rfl
  · simp [Arch.reset]

theorem reset_getP (spad : List Host.Cell) (p : PReg) (h : p ≠ 0) : (Arch.reset spad).getP p = 0 := by
  simp [Arch.getP, Arch.reset, h]

theorem reset_isLive (spad : List Host.Cell) (v : VReg) : (Arch.reset spad).isLive v = false := by
  simp [Arch.isLive, Arch.reset]

theorem toReset_arch (k : Core) : k.toReset.arch = Arch.reset k.arch.spad := rfl

theorem toReset_levelReg (k : Core) : k.toReset.levelReg = 0xF := by
  have h : k.toReset.power.cur = gatedLevel := rfl
  simp [Core.levelReg, h, gatedLevel]

theorem toReset_shareOwn (k : Core) : k.toReset.shareOwn = 0 := by
  have h : k.toReset.power.own = 0 := rfl
  simp [Core.shareOwn, h, toReset_arch, Arch.reset]

theorem toReset_chans (k : Core) (n : Fin 16) :
    (k.toReset.chans[n]).count = 0 ∧ (k.toReset.chans[n]).held = none := by
  have h : k.toReset.chans[n] = Chan.reset := Vector.getElem_replicate ..
  rw [h]
  exact ⟨rfl, rfl⟩

theorem toReset_views (k : Core) (n : Fin 64) :
    (k.toReset.arch.views[n]).ctl = 0 ∧ ∀ j : Fin 4, (k.toReset.arch.views[n]).ports[j] = 0 := by
  have h : k.toReset.arch.views[n] = ⟨0, Vector.replicate 4 0, 0, 0, 0⟩ := Vector.getElem_replicate ..
  rw [h]
  exact ⟨rfl, fun j => Vector.getElem_replicate ..⟩

theorem startMessage_reset (k : Core) (w : Half) :
    (k.toReset.startMessage w).run = .held ∧ (k.toReset.startMessage w).arch.pc = w &&& 0xFFFE := ⟨rfl, rfl⟩

theorem executes_running {k : Core} (h : k.executes = true) : k.run = .running := by
  simp only [Core.executes, Bool.and_eq_true, beq_iff_eq] at h
  exact h.1.1

/-- A core that does not execute spends its turn. -/
theorem coreTurn_idle (s : State) (c : CoreId) (h : (s.core c).executes = false) :
    s.coreTurn c = (s, .done (.next { s with turn := c })) := by
  simp [State.coreTurn, h]

/-- Settles O51: the fields of `Core.toReset`, and a turn of a core that does not execute. -/
theorem coreReset : Obligations.CoreReset := by
  unfold Obligations.CoreReset
  intro k s c w
  refine ⟨⟨rfl, rfl, rfl⟩, ?_, ?_, fun h => ?_, fun h => coreTurn_idle s c ?_⟩
  · simp only [toReset_arch]
    exact ⟨rfl, reset_getX _, reset_getP _, reset_isLive _, rfl, rfl, rfl, rfl, rfl, rfl, rfl, rfl,
      fun n => Vector.getElem_replicate .., rfl, rfl, rfl, rfl, rfl, rfl, rfl, rfl, rfl, rfl, rfl, rfl, rfl, rfl, rfl⟩
  · exact ⟨rfl, rfl, rfl, rfl, rfl, rfl, rfl, toReset_levelReg k, toReset_shareOwn k, rfl,
      fun n => ⟨Vector.getElem_replicate .., Vector.getElem_replicate ..⟩,
      fun n => ⟨Vector.getElem_replicate .., Vector.getElem_replicate .., toReset_chans k n⟩,
      fun n => toReset_views k n⟩
  · refine ⟨_, rfl, ?_⟩
    rw [onCore_core_same, h]
    exact startMessage_reset k w
  · refine Bool.eq_false_iff.mpr fun e => ?_
    rw [executes_running e] at h
    obtain h | h | h := h <;> cases h

end Sys2Proof.Machine

/-! PROOFS. Vector instructions are pushed with their operands captured (01 R14, R26). -/

namespace Sys2Proof.Machine

open Claims

/-! ### Pushing into the vector sequencer (01 R14, R26) -/

section
variable {s : State} {i : Instr} {n : Names} {rep : Option Rep}

theorem vpushAs_free {r : VReg} (h : freeSource s.me.arch n.srcs = some r) :
    s.vpushAs i n rep = s.trap .vfree (BitVec.ofNat 64 r.val) := by
  simp only [State.vpushAs, h]

theorem vpushAs_waits (h : freeSource s.me.arch n.srcs = none)
    (w : s.me.predPending n.pred = true ∨ 16 ≤ s.me.seq.length) : s.vpushAs i n rep = .next s := by
  have wait : (s.me.predPending n.pred || decide (s.me.seq.length ≥ 16)) = true := by simpa using w
  simp only [State.vpushAs, h, wait, if_true, State.stall]

theorem vpushAs_pushes (h : freeSource s.me.arch n.srcs = none) (p : s.me.predPending n.pred = false)
    (room : s.me.seq.length < 16) :
    s.vpushAs i n rep = .next (s.setMe { s.me.push i n rep with progress := s.time }) := by
  have go : (s.me.predPending n.pred || decide (s.me.seq.length ≥ 16)) = false := by simpa [p] using room
  simp only [State.vpushAs, h, go, Bool.false_eq_true, if_false]

theorem pushed_xa {k : Core} {x : XReg} (h : (namesOf i).xa = some x) : (k.pushed i).xa = k.arch.getX x := by
  simp [Core.pushed, h]

theorem pushed_xb {k : Core} {x : XReg} (h : (namesOf i).xb = some x) : (k.pushed i).xb = k.arch.getX x := by
  simp [Core.pushed, h]

/-- An instruction whose meaning is its push pushes what it names. -/
theorem pushes_of_vpush (h : exec i s = s.vpush i) : Pushes s i (namesOf i) := by
  simp only [Pushes, h, State.vpush]
  exact ⟨trivial, rfl, rfl, rfl, rfl, rfl, fun x hx => pushed_xa hx, fun x hx => pushed_xb hx,
    fun r hr => vpushAs_free hr, fun hn => ⟨vpushAs_waits hn, vpushAs_pushes hn⟩⟩

end

/-- VRED's names, with its index reductions told apart by a proposition. -/
theorem namesOf_vred (o : VOne) (red : Red) (u : Bool) (rm : RMode) (b : VReg) : namesOf (.vred o red u rm b)
    = ⟨[(o.a, o.la)], if red = .maxi ∨ red = .mini then [o.d, b] else [o.d], none, none, o.gov.pred⟩ := by
  simp [namesOf]

/-- Settles O18: each of these instructions means its push. -/
theorem vectorInstructionsPush : Obligations.VectorInstructionsPush := by
  unfold Obligations.VectorInstructionsPush
  intro s ob ou ot oo oc oq om os oi d a b x y xs g p ty l m rm var fn red
  have push : ∀ i, exec i s = s.vpush i → Pushes s i (namesOf i) := fun i => pushes_of_vpush
  refine ⟨⟨push _ rfl, push _ rfl, push _ rfl, push _ rfl, push _ rfl, push _ rfl, push _ rfl, push _ rfl, push _ rfl,
      push _ rfl, push _ rfl, push _ rfl⟩,
    ⟨push _ rfl, push _ rfl, push _ rfl, push _ rfl, push _ rfl, push _ rfl, push _ rfl, push _ rfl, push _ rfl,
      push _ rfl, push _ rfl, push _ rfl⟩,
    ⟨push _ rfl, push _ rfl, ?_, push _ rfl, push _ rfl, push _ rfl, push _ rfl, push _ rfl⟩,
    ⟨push _ rfl, push _ rfl, push _ rfl, push _ rfl, push _ rfl, push _ rfl, push _ rfl, push _ rfl⟩,
    ⟨push _ rfl, push _ rfl, push _ rfl, push _ rfl, push _ rfl, push _ rfl⟩⟩
  rw [← namesOf_vred oo red l rm b]
  exact push _ rfl

end Sys2Proof.Machine

/-! PROOFS. What a push changes of a core, and liveness (01 R26). -/

namespace Sys2Proof.Machine

open Claims

/-! ### Frames of a core's accounts of instructions -/

theorem onLastChunk_frame (k : Core) (f : Chunk → Chunk) :
    k.onLastChunk f = { k with chunks := (k.onLastChunk f).chunks } := by
  unfold Core.onLastChunk
  split <;> rfl

/-- Counting an instruction changes the chunks, whether the core waits for a run, and the debugger's single step. -/
theorem countInstr_frame (k : Core) : k.countInstr = { k with
    chunks := k.countInstr.chunks, await := k.countInstr.await, dbg := k.countInstr.dbg } := by
  unfold Core.countInstr
  split
  · rfl
  · dsimp only
    rw [onLastChunk_frame]
    split <;> rfl

theorem retire_frame (k : Core) (a : Arch) : k.retire a = { k with
    arch := (k.retire a).arch, chunks := (k.retire a).chunks
    await := (k.retire a).await, dbg := (k.retire a).dbg } := by
  rw [retire_arch]
  exact countInstr_frame { k with arch := a.advance k.ilen }

/-! ### Liveness (01 R26) -/

theorem isLive_setLive_same (a : Arch) (r : VReg) (b : Bool) : (a.setLive r b).isLive r = b := by
  cases b <;> simp [Arch.isLive, Arch.setLive]

theorem isLive_setLive_ne (a : Arch) {r q : VReg} (b : Bool) (h : q ≠ r) : (a.setLive r b).isLive q = a.isLive q := by
  have ne : q.val ≠ r.val := fun e => h (Fin.ext e)
  have off : (1#32 <<< r.val).getLsbD q.val = false := by
    simp only [BitVec.getLsbD_shiftLeft, BitVec.getLsbD_one]
    grind
  cases b with
  | true => simp only [Arch.isLive, Arch.setLive, if_true, BitVec.getLsbD_or, off, Bool.or_false]
  | false =>
    have wide : q.val < 32 := q.isLt
    simp only [Arch.isLive, Arch.setLive, Bool.false_eq_true, if_false, BitVec.getLsbD_and, BitVec.getLsbD_not, off,
      wide, decide_true, Bool.not_false, Bool.and_true]

/-- Marking the last uses frees just the sources that have the bit. -/
theorem isLive_freed (a : Arch) (r : VReg) (srcs : List (VReg × Bool)) :
    (srcs.foldl (fun (b : Arch) s => if s.2 then b.setLive s.1 false else b) a).isLive r
      = (a.isLive r && !decide ((r, true) ∈ srcs)) := by
  induction srcs generalizing a with
  | nil => simp
  | cons e srcs ih =>
    obtain ⟨q, b⟩ := e
    rw [List.foldl_cons, ih]
    cases b with
    | false => simp
    | true =>
      by_cases h : r = q
      · subst h; simp [isLive_setLive_same]
      · simp [isLive_setLive_ne a false h, h]

/-- Marking the destinations makes just them live. -/
theorem isLive_made (a : Arch) (r : VReg) (dsts : List VReg) :
    (dsts.foldl (fun (b : Arch) q => b.setLive q true) a).isLive r = (decide (r ∈ dsts) || a.isLive r) := by
  induction dsts generalizing a with
  | nil => simp
  | cons q dsts ih =>
    rw [List.foldl_cons, ih]
    by_cases h : r = q
    · subst h; simp [isLive_setLive_same]
    · simp [isLive_setLive_ne a true h, h]

/-- A destination is live; another register is live if it was and is no last use. -/
theorem isLive_liveAfter (a : Arch) (n : Names) (r : VReg) :
    (a.liveAfter n).isLive r = (decide (r ∈ n.dsts) || (a.isLive r && !decide ((r, true) ∈ n.srcs))) := by
  unfold Arch.liveAfter
  rw [isLive_made, isLive_freed]

/-- Of the registers at most the liveness bits differ. -/
def OnlyLive (a b : Arch) : Prop := ∃ w, b = { a with live := w }

theorem OnlyLive.eq {a b : Arch} : OnlyLive a b → b = { a with live := b.live } := by
  rintro ⟨w, rfl⟩
  rfl

theorem OnlyLive.foldl {α : Type} {f : Arch → α → Arch} (hf : ∀ a x, OnlyLive a (f a x)) (l : List α) (a : Arch) :
    OnlyLive a (l.foldl f a) := by
  induction l generalizing a with
  | nil => exact ⟨a.live, rfl⟩
  | cons x l ih =>
    obtain ⟨w, hw⟩ := hf a x
    obtain ⟨u, hu⟩ := ih (f a x)
    exact ⟨u, by rw [List.foldl_cons, hu, hw]⟩

theorem onlyLive_setLive (a : Arch) (r : VReg) (b : Bool) : OnlyLive a (a.setLive r b) := ⟨_, rfl⟩

theorem onlyLive_freed (a : Arch) (srcs : List (VReg × Bool)) :
    OnlyLive a (srcs.foldl (fun (b : Arch) s => if s.2 then b.setLive s.1 false else b) a) :=
  OnlyLive.foldl (fun b s => by
    split
    · exact onlyLive_setLive b s.1 false
    · exact ⟨b.live, rfl⟩) srcs a

theorem onlyLive_liveAfter (a : Arch) (n : Names) : OnlyLive a (a.liveAfter n) := by
  obtain ⟨w, hw⟩ := onlyLive_freed a n.srcs
  obtain ⟨u, hu⟩ := OnlyLive.foldl (fun b q => onlyLive_setLive b q true) n.dsts
    (n.srcs.foldl (fun (b : Arch) s => if s.2 then b.setLive s.1 false else b) a)
  exact ⟨u, by rw [Arch.liveAfter, hu, hw]⟩

/-- The registers that a push leaves to the flow to the next pc. -/
def Core.pushArch (k : Core) (i : Instr) (n : Names) : Arch := { k.arch.liveAfter n with
  recent := (k.pushed i :: k.arch.recent).take 15, pushes := min 15 (k.arch.pushes + 1) }

theorem push_eq (k : Core) (i : Instr) (n : Names) (rep : Option Rep) : k.push i n rep
    = Core.retire { k with seq := k.seq ++ [⟨k.pushed i, k.ilen, k.curChunk, k.chunkCnt, k.arch, rep⟩] }
        (k.pushArch i n) := rfl

theorem push_arch (k : Core) (i : Instr) (n : Names) (rep : Option Rep) :
    (k.push i n rep).arch = (k.pushArch i n).advance k.ilen := by rw [push_eq, retire_arch]

theorem isLive_push (k : Core) (i : Instr) (n : Names) (rep : Option Rep) (r : VReg) : (k.push i n rep).arch.isLive r
    = (decide (r ∈ n.dsts) || (k.arch.isLive r && !decide ((r, true) ∈ n.srcs))) := by
  rw [← isLive_liveAfter, push_arch]
  simp [Arch.isLive, Core.pushArch]

theorem push_seq (k : Core) (i : Instr) (n : Names) (rep : Option Rep) : (k.push i n rep).seq
    = k.seq ++ [⟨k.pushed i, k.ilen, k.curChunk, k.chunkCnt, k.arch, rep⟩] := by simp [push_eq]

/-- Of the registers a push changes liveness, what VLOOP remembers, the pc and the loop counts. -/
theorem push_arch_frame (k : Core) (i : Instr) (n : Names) (rep : Option Rep) : (k.push i n rep).arch = { k.arch with
    live := (k.push i n rep).arch.live, recent := (k.pushed i :: k.arch.recent).take 15
    pushes := min 15 (k.arch.pushes + 1), pc := (k.push i n rep).arch.pc
    loop0 := (k.push i n rep).arch.loop0, loop1 := (k.push i n rep).arch.loop1 } := by
  obtain ⟨w, hw⟩ := onlyLive_liveAfter k.arch n
  have start : k.pushArch i n = { k.arch with
      live := w, recent := (k.pushed i :: k.arch.recent).take 15, pushes := min 15 (k.arch.pushes + 1) } := by
    rw [Core.pushArch, hw]
  rw [push_arch, advance_frame, start]

/-- Of the core a push changes its registers, the sequencer and its account of instructions. -/
theorem push_frame (k : Core) (i : Instr) (n : Names) (rep : Option Rep) : k.push i n rep = { k with
    arch := (k.push i n rep).arch, seq := (k.push i n rep).seq, chunks := (k.push i n rep).chunks
    await := (k.push i n rep).await, dbg := (k.push i n rep).dbg } := by
  rw [push_seq, push_eq]
  exact retire_frame _ _

theorem freeSource_head {a : Arch} {r : VReg} {l : Bool} {srcs : List (VReg × Bool)} (h : a.isLive r = false) :
    freeSource a ((r, l) :: srcs) = some r := by simp [freeSource, h]

/-- An instruction that names a free vector first, and means its push, traps. -/
theorem vpush_free {s : State} {i : Instr} {r : VReg} {l : Bool} {srcs : List (VReg × Bool)}
    (h : s.me.arch.isLive r = false) (n : (namesOf i).srcs = (r, l) :: srcs) :
    s.vpush i = s.trap .vfree (BitVec.ofNat 64 r.val) := vpushAs_free (by rw [n]; exact freeSource_head h)

theorem maskPrefix_free {s : State} {d : PReg} {a : VReg} {l : Bool} {p : PReg} {f : Fmt} {z : Bool}
    (h : s.me.arch.isLive a = false) : s.maskPrefix d a l p f z = s.trap .vfree (BitVec.ofNat 64 a.val) := by
  simp [State.maskPrefix, h]

/-- Settles O19: liveness bit by bit, the two frames of a push, and a free first source on each page. -/
theorem pushLiveness : Obligations.PushLiveness := by
  unfold Obligations.PushLiveness
  refine ⟨fun k i n rep r => ⟨fun hd => ?_, fun hd hs => ?_, fun hd hs => ?_, push_arch_frame k i n rep,
    push_seq k i n rep, push_frame k i n rep⟩, fun s ob oo om d a l g p ty => ⟨fun h => vpush_free h rfl,
    fun h => vpush_free h rfl, fun h => vpush_free h rfl, fun h => vpush_free h rfl, maskPrefix_free⟩⟩
  · simp [isLive_push, hd]
  · simp [isLive_push, hd, hs]
  · simp [isLive_push, hd, hs]

end Sys2Proof.Machine

/-! PROOFS. A turn of a core fetches, decodes and executes (01 R8, 03 R52, R66). -/

namespace Sys2Proof.Machine

open Claims

/-! ### A turn of a core (01 R8, 03 R52) -/

theorem newest_all {α : Type} {n : Nat} {l : List α} (h : l.length ≤ n) : newest n l = l := by
  simp [newest, Nat.sub_eq_zero_of_le h]

/-- No interval ends before one that is recorded already: nothing is recorded. -/
theorem recordTo_none {s : State} {n : Nat} {f : Nat → Nat → Nat × Nat × Nat} (h : n ≤ s.telemetryAt)
    (room : s.boot.telemetry.length ≤ 1000) : (s.recordTo n f).boot = s.boot := by
  simp [State.recordTo, Nat.sub_eq_zero_of_le h, newest_all room]

/-- What is due comes first, and then the agenda: here a core's turn. -/
theorem nextTurn_core {s : State} {c : CoreId} {r : List Turn} (due : s.due = none) (h : s.agenda = .core c :: r) :
    s.nextTurn = ({ s with agenda := r } : State).coreTurn c := by
  simp only [State.nextTurn, due, h]

theorem coreTurn_fetch {s : State} {c : CoreId} (run : (s.core c).executes = true) (free : (s.core c).dbg.hold = false)
    (brk : (s.core c).arch.pc ∉ (s.core c).dbg.brks) (wait : (s.core c).waitsForRun = false) :
    s.coreTurn c = s.fetch c := by
  have held : (s.core c).debugHolds = false := by simp [Core.debugHolds, free]
  have stop : (s.core c).atBreak = false := by simp [Core.atBreak, brk]
  simp only [State.coreTurn, run, held, wait, stop, Bool.not_true, Bool.or_self, Bool.false_eq_true, if_false]

/-- The outcome of a turn. -/
def Act.outcome (t : State × Act) : Out :=
  match t.2 with
  | .run i => exec i t.1
  | .done o => o

theorem step_outcome (s : State) : step s = Act.outcome s.tick.nextTurn := rfl

/-- What passes before a turn: time, the count of turns, and the records of the intervals that have ended. -/
theorem tick_eq (s : State) : s.tick = { s with
    time := s.tick.time, fresh := s.fresh + 1, telemetryAt := max (s.tick.time.toNat / 1700000) s.telemetryAt
    boot := { s.boot with telemetry := s.tick.boot.telemetry } } := by
  simp only [State.tick, State.recordTo]

section
variable {s : State} {c : CoreId}

theorem fetch_bad (h : (s.core c).fetchBad = true) : Act.outcome (s.fetch c)
    = ({ s with turn := c } : State).faultMe .memErr .istore (coreAddr c (s.core c).arch.pc.toNat) := by
  have bad : ({ s with turn := c } : State).me.fetchBad = true := h
  simp only [State.fetch, bad, if_true]
  rfl

theorem fetch_refused {x : Trap} (h : (s.core c).fetchBad = false)
    (d : decodeAt (s.core c).arch.pc (s.core c).fetchHalves = .error x) :
    Act.outcome (s.fetch c) = ({ s with turn := c } : State).takeTrap x := by
  have good : ({ s with turn := c } : State).me.fetchBad = false := h
  have dec : decodeAt ({ s with turn := c } : State).me.arch.pc ({ s with turn := c } : State).me.fetchHalves
      = .error x := d
  simp only [State.fetch, good, dec, Bool.false_eq_true, if_false]
  rfl

theorem fetch_decoded {i : Instr} {len : Nat} (h : (s.core c).fetchBad = false)
    (d : decodeAt (s.core c).arch.pc (s.core c).fetchHalves = .ok (i, len)) : Act.outcome (s.fetch c)
    = exec i ((({ s with turn := c } : State).setMe ((s.core c).readyFor c i len)).notePrio c) := by
  have good : ({ s with turn := c } : State).me.fetchBad = false := h
  have dec : decodeAt ({ s with turn := c } : State).me.arch.pc ({ s with turn := c } : State).me.fetchHalves
      = .ok (i, len) := d
  simp only [State.fetch, good, dec, Bool.false_eq_true, if_false]
  rfl

end

/-- Settles O56: a core's turn comes to a fetch, whose three outcomes are the statement's. -/
theorem stepRunsDecodedInstruction : Obligations.StepRunsDecodedInstruction := by
  unfold Obligations.StepRunsDecodedInstruction
  intro s c r i len x k ms t halves latched agenda due run wait cur hold brk _ runs
  have executes : k.executes = true := by simp [Core.executes, run, wait, cur, gatedLevel]
  let u : State := { s.tick with agenda := r }
  have turn : step s = Act.outcome (u.fetch c) := by
    rw [step_outcome, nextTurn_core due agenda]
    exact congrArg _ (coreTurn_fetch executes hold brk runs)
  rw [turn]
  exact ⟨tick_eq s, recordTo_none, fetch_bad (s := u),
    fun good => ⟨fetch_decoded (s := u) good, fetch_refused (s := u) good⟩⟩

end Sys2Proof.Machine

/-! PROOFS. The shared operations, and the meanings built from them, answer next states (01 R24, 19 R338). -/

namespace Sys2Proof.Machine

open Claims

/-! ### Safe outcomes: the shared operations

Each operation that answers an outcome answers a next state, where what it goes on with does. -/

theorem safe_next {t : State} : Safe (.next t) := ⟨t, rfl⟩

theorem safe_ite {p : Prop} [Decidable p] {a b : Out} (ha : Safe a) (hb : Safe b) : Safe (if p then a else b) := by
  split
  · exact ha
  · exact hb

section
variable {s : State}

theorem safe_done {a : Arch} : Safe (s.done a) := safe_next

theorem safe_doneX {d : XReg} {v : Word} : Safe (s.doneX d v) := safe_next

theorem safe_jump {a : Arch} {pc : BitVec 16} : Safe (s.jump a pc) := safe_next

theorem safe_stall : Safe s.stall := safe_next

theorem safe_faultMe {f : FaultClass} {p : Place} {a : Word} : Safe (s.faultMe f p a) := safe_ite safe_next safe_stall

theorem safe_takeTrap {x : Trap} : Safe (s.takeTrap x) := safe_ite safe_next safe_stall

theorem safe_trap {c : Cause} {v : Word} : Safe (s.trap c v) := safe_takeTrap

theorem safe_refuse {v : Word} : Safe (s.refuse v) := safe_trap

theorem safe_illegal : Safe s.illegal := safe_trap

theorem safe_trapAfter {c : Cause} {v : Word} : Safe (s.trapAfter c v) := safe_ite safe_next safe_stall

theorem safe_blocked {i : Instr} {n : Nat} {b : Body} {e : Option Edge} : Safe (s.blocked i n b e) := safe_next

theorem safe_finish {f : Arch → Arch} : Safe (s.finish f) := safe_done

theorem safe_boundary {f : State → Out} (h : ∀ t, Safe (f t)) : Safe (s.boundary f) := safe_ite (h _) safe_next

theorem safe_onceSafe {f : State → Out} (h : ∀ t, Safe (f t)) : Safe (s.onceSafe f) := safe_ite safe_stall (h _)

theorem safe_localRead {ea n : Nat} {f : State → Nat → Out} (h : ∀ t v, Safe (f t v)) : Safe (s.localRead ea n f) := by
  unfold State.localRead
  dsimp only
  split
  · exact safe_stall
  · split
    · exact safe_faultMe
    · exact h _ _

theorem safe_localWrite {ea n v : Nat} {f : State → Out} (h : ∀ t, Safe (f t)) : Safe (s.localWrite ea n v f) :=
  safe_ite safe_next (h _)

theorem safe_paying {va pa : Nat} {f : State → Out} (h : ∀ t, Safe (f t)) : Safe (s.paying va pa f) := by
  unfold State.paying
  split
  · exact h _
  · exact safe_next

theorem safe_readPending {pa n : Nat} {f : State → Arch → Out} (h : ∀ t a, Safe (f t a)) :
    Safe (s.readPending pa n f) := by
  unfold State.readPending
  dsimp only
  split
  · exact safe_stall
  · exact h _ _

theorem safe_globalWrite {va pa n v : Nat} {f : State → Out} (h : ∀ t, Safe (f t)) : Safe (s.globalWrite va pa n v f) :=
  safe_ite safe_next (h _)

theorem safe_vpushAs {i : Instr} {n : Names} {rep : Option Rep} : Safe (s.vpushAs i n rep) := by
  unfold State.vpushAs
  dsimp only
  split
  · exact safe_trap
  · exact safe_ite safe_stall safe_next

theorem safe_of_vpush {i : Instr} (h : exec i s = s.vpush i) : Safe (exec i s) := by
  rw [h]
  exact safe_vpushAs

theorem safe_vloop {a : XReg} {n : Nat} : Safe (execVloop a n s) := safe_ite safe_illegal safe_vpushAs

theorem safe_maskPrefix {d : PReg} {a : VReg} {l : Bool} {p : PReg} {f : Fmt} {z : Bool} :
    Safe (s.maskPrefix d a l p f z) := safe_ite safe_trap (safe_ite safe_stall (safe_ite safe_faultMe safe_done))

/-! ### Scalar instructions (05) -/

theorem safe_movePtr {d : XReg} {p : Word} {v : Int} : Safe (s.movePtr d p v) := safe_ite safe_trap safe_doneX

theorem safe_loadLocal {d a : XReg} {off : Int} {size : Size} {u : Bool} : Safe (s.loadLocal d a off size u) := by
  unfold State.loadLocal
  dsimp only
  split
  · exact safe_takeTrap
  · exact safe_localRead fun _ _ => safe_doneX

theorem safe_stl {r a : XReg} {off : Int} {size : Size} : Safe (execStl r a off size s) := by
  unfold execStl
  dsimp only
  split
  · exact safe_takeTrap
  · exact safe_localWrite fun _ => safe_done

theorem safe_branch {c : Bool} {off : Int} : Safe (s.branch c off) := safe_ite safe_jump safe_done

theorem safe_jumpReg {t : Word} {a : Arch} : Safe (s.jumpReg t a) := safe_ite safe_trap safe_jump

theorem safe_armLoop {level : Bool} {cnt len : Nat} : Safe (s.armLoop level cnt len) :=
  safe_ite safe_illegal (safe_ite safe_jump safe_done)

theorem safe_srd {d : XReg} {sid : BitVec 8} : Safe (execSrd d sid s) := by
  unfold execSrd
  split
  · exact safe_trap
  · exact safe_ite safe_stall safe_doneX

/-! ### Writes of special registers (05 R107) -/

theorem safe_writeTrapReg {sid : Nat} {v : Word} : Safe (s.writeTrapReg sid v) := by
  unfold State.writeTrapReg
  dsimp only
  split <;> exact safe_done

theorem safe_writeLoop {n : Bool} {v : Word} : Safe (s.writeLoop n v) :=
  safe_ite safe_refuse (safe_ite safe_done safe_done)

theorem safe_writeWaiting {bad : Bool} {v : Word} {f : Arch → Arch} : Safe (s.writeWaiting bad v f) :=
  safe_ite safe_stall (safe_ite safe_refuse safe_done)

theorem safe_writeShape {v : Word} : Safe (s.writeShape v) := by
  unfold State.writeShape
  exact safe_writeWaiting

theorem safe_writeTmode {v : Word} : Safe (s.writeTmode v) := by
  unfold State.writeTmode
  exact safe_writeWaiting

theorem safe_writeAmax {f : Bool} {v : Word} : Safe (s.writeAmax f v) := safe_ite safe_writeWaiting safe_writeWaiting

theorem safe_writeBm {n : Reg8} {v : Word} : Safe (s.writeBm n v) :=
  safe_ite safe_refuse (safe_boundary fun _ => safe_ite safe_stall safe_done)

theorem safe_writeChcfg {n : Fin 16} {v : Word} : Safe (s.writeChcfg n v) := by
  unfold State.writeChcfg
  split
  · exact safe_takeTrap
  · exact safe_boundary fun _ => safe_done

theorem safe_writeWaitcfg {v : Word} : Safe (s.writeWaitcfg v) := safe_ite safe_refuse safe_done

theorem safe_writeStashCfg {v : Word} : Safe (s.writeStashCfg v) := safe_ite safe_refuse safe_done

theorem safe_writeChunkLim {v : Word} : Safe (s.writeChunkLim v) := safe_ite safe_refuse safe_done

theorem safe_writePerm {v : Word} : Safe (s.writePerm v) := by
  unfold State.writePerm
  refine safe_ite safe_stall (safe_ite safe_refuse (safe_ite safe_done ?_))
  split
  · exact safe_trap
  · refine safe_localRead fun _ _ => ?_
    dsimp only
    split
    · exact safe_trap
    · exact safe_done

theorem safe_writeAccmode {v : Word} : Safe (s.writeAccmode v) := safe_ite safe_stall (safe_ite safe_refuse safe_done)

theorem safe_writeGang {v : Word} : Safe (s.writeGang v) := safe_ite safe_stall (safe_ite safe_refuse safe_done)

theorem safe_writeRing {n : Reg8} {r : Ring} {b g : Word} : Safe (s.writeRing n r b g) := by
  unfold State.writeRing
  refine safe_ite safe_stall ?_
  split
  · exact safe_takeTrap
  · exact safe_done

theorem safe_writeEnd {n : Reg8} {r : Ring} {v : Word} : Safe (s.writeEnd n r v) :=
  safe_ite safe_stall (safe_ite safe_trap safe_done)

theorem safe_writeRingReg {n : Reg8} {k : Fin 6} {v : Word} : Safe (s.writeRingReg n k v) := by
  unfold State.writeRingReg
  dsimp only
  split
  · exact safe_writeRing
  · exact safe_writeRing
  · exact safe_writeEnd
  · exact safe_writeEnd
  · exact safe_writeRing
  · exact safe_writeRing

theorem safe_writeSpecial {sid : Nat} {v : Word} : Safe (s.writeSpecial sid v) := by
  unfold State.writeSpecial
  split
  · exact safe_done
  · refine safe_ite safe_writeBm (safe_ite safe_writeChcfg ?_)
    split
    · exact safe_writeRingReg
    · split
      · exact safe_writeTrapReg
      · exact safe_writeTrapReg
      · exact safe_writeTrapReg
      · exact safe_writeTrapReg
      · exact safe_writeTrapReg
      · exact safe_writeShape
      · exact safe_writeTmode
      · exact safe_writeAmax
      · exact safe_writeAmax
      · exact safe_writePerm
      · exact safe_writeGang
      · exact safe_writeAccmode
      · exact safe_writeStashCfg
      · exact safe_writeChunkLim
      · exact safe_writeLoop
      · exact safe_writeLoop
      · exact safe_writeWaitcfg
      · exact safe_trap

theorem safe_swr {r : XReg} {sid : BitVec 8} : Safe (execSwr r sid s) :=
  safe_ite safe_trap (safe_ite safe_trap safe_writeSpecial)

/-! ### Synchronisation (09) -/

theorem safe_barv {n : Reg8} : Safe (execBarv n s) :=
  safe_boundary fun _ => safe_ite safe_finish (safe_ite safe_blocked safe_finish)

theorem safe_bwait {n : Reg8} : Safe (execBwait n s) := safe_ite safe_blocked safe_finish

theorem safe_bmask {d a : XReg} : Safe (execBmask d a s) := safe_boundary fun _ => safe_finish

theorem safe_sstepEnd : Safe (sstepEnd s) := safe_ite safe_blocked safe_finish

theorem safe_sstepArriveAgain : Safe (sstepArriveAgain s) :=
  safe_ite safe_finish (safe_ite safe_blocked safe_sstepEnd)

theorem safe_sstepExchange : Safe (sstepExchange s) := safe_ite safe_sstepArriveAgain safe_blocked

theorem safe_sstepRelease : Safe (sstepRelease s) := safe_ite safe_blocked safe_sstepExchange

theorem safe_sstepArrive : Safe (sstepArrive s) := safe_ite safe_sstepRelease (safe_ite safe_blocked safe_sstepRelease)

theorem safe_sstep : Safe (execSstep s) := safe_boundary fun _ => safe_ite safe_sstepRelease
  (safe_ite safe_sstepExchange (safe_ite safe_sstepArriveAgain (safe_ite safe_sstepEnd safe_sstepArrive)))

theorem safe_deliver {i : Instr} {dst : CoreId} {ch : Fin 16} {n : Nat} {b : Body} : Safe (s.deliver i dst ch n b) :=
  safe_ite safe_faultMe (safe_ite safe_blocked (safe_ite safe_faultMe safe_finish))

theorem safe_send {d a : XReg} {req : Bool} {len : Fin 8} : Safe (execSend d a req len s) := by
  unfold execSend
  refine safe_ite safe_deliver ?_
  split
  · exact safe_takeTrap
  · refine safe_boundary fun _ => ?_
    split
    · exact safe_faultMe
    · exact safe_deliver

theorem safe_takeMessage {d : XReg} {ch : Fin 16} : Safe (s.takeMessage d ch) := safe_ite safe_finish safe_finish

theorem safe_recv {d : XReg} {ch : Fin 16} : Safe (execRecv d ch s) :=
  safe_ite safe_trap (safe_boundary fun _ => safe_ite safe_blocked safe_takeMessage)

theorem safe_rpoll {d : XReg} {ch : Fin 16} : Safe (execRpoll d ch s) :=
  safe_ite safe_trap (safe_boundary fun _ => safe_takeMessage)

theorem safe_take {d a : XReg} {addr : Word} : Safe (s.take d a addr) := by
  unfold State.take
  refine safe_ite safe_faultMe (safe_ite (safe_ite safe_blocked safe_blocked) ?_)
  split
  · exact safe_faultMe
  · exact safe_ite safe_finish (safe_ite safe_blocked safe_blocked)

theorem safe_fetake {d a : XReg} : Safe (execFetake d a s) := by
  unfold execFetake
  refine safe_ite safe_finish (safe_ite safe_blocked ?_)
  split
  · exact safe_takeTrap
  · exact safe_boundary fun _ => safe_take

theorem safe_feput {d a b : XReg} : Safe (execFeput d a b s) := by
  unfold execFeput
  dsimp only
  split
  · exact safe_takeTrap
  · exact safe_boundary fun _ => safe_ite safe_faultMe (safe_ite safe_blocked safe_finish)

theorem safe_fepeek {d a b : XReg} : Safe (execFepeek d a b s) := by
  unfold execFepeek
  dsimp only
  split
  · exact safe_takeTrap
  · refine safe_ite (safe_localRead fun _ _ => safe_finish) (safe_ite safe_faultMe (safe_ite safe_blocked ?_))
    split
    · exact safe_faultMe
    · exact safe_finish

/-! ### Memory, queues and engines (14 to 16, 23) -/

theorem safe_ldg {d a : XReg} {off : Int} {size : Size} {u acq : Bool} {sc : Scope} :
    Safe (execLdg d a off size u acq sc s) := by
  unfold execLdg
  dsimp only
  split
  · exact safe_takeTrap
  · refine safe_ite safe_stall ?_
    split
    · exact safe_faultMe
    · exact safe_paying fun _ => safe_readPending fun _ _ => safe_done

theorem safe_stg {r a : XReg} {off : Int} {size : Size} {rel : Bool} {sc : Scope} :
    Safe (execStg r a off size rel sc s) := by
  unfold execStg
  dsimp only
  split
  · exact safe_takeTrap
  · split
    · exact safe_takeTrap
    · refine safe_ite safe_stall ?_
      split
      · exact safe_faultMe
      · exact safe_paying fun _ => safe_globalWrite fun _ => safe_done

theorem safe_atom {d a b : XReg} {aop : Aop} {sc : Scope} : Safe (execAtom d a b aop sc s) := by
  unfold execAtom
  dsimp only
  split
  · exact safe_takeTrap
  · split
    · exact safe_takeTrap
    · refine safe_ite safe_stall ?_
      split
      · exact safe_faultMe
      · exact safe_paying fun _ => safe_readPending fun _ _ => safe_globalWrite fun _ => safe_done

theorem safe_atomlRemote {i : Instr} {d a b : XReg} {aop : Aop} {ty : Fmt} : Safe (s.atomlRemote i d a b aop ty) := by
  unfold State.atomlRemote
  refine safe_ite safe_faultMe (safe_ite safe_blocked ?_)
  split
  · exact safe_faultMe
  · exact safe_finish

theorem safe_atoml {d a b : XReg} {aop : Aop} {ty : AtomTy} : Safe (execAtoml d a b aop ty s) := by
  unfold execAtoml
  dsimp only
  split
  · exact safe_takeTrap
  · exact safe_ite (safe_localRead fun _ _ => safe_localWrite fun _ => safe_done)
      (safe_boundary fun _ => safe_atomlRemote)

theorem safe_fence {sc : Scope} : Safe (execFence sc s) := safe_ite safe_trap (safe_boundary fun _ => safe_done)

theorem safe_stashWrwin {d a b : XReg} : Safe (execStashWrwin d a b s) := safe_ite safe_trap safe_done

theorem safe_stashFetch {d a b : XReg} : Safe (execStashFetch d a b s) := by
  unfold execStashFetch
  dsimp only
  split
  · exact safe_doneX
  · exact safe_next

theorem safe_qpush {a : XReg} : Safe (execQpush a s) := by
  unfold execQpush
  split
  · exact safe_finish
  · exact safe_ite safe_blocked safe_finish

theorem safe_qpop {d : XReg} {q : Reg8} : Safe (execQpop d q s) := by
  unfold execQpop
  split
  · exact safe_blocked
  · exact safe_finish

theorem safe_pushCopy {i : Instr} {k : CopyKind} {d a c : Word} {sh : Option Word} :
    Safe (s.pushCopy i k d a c sh) := by
  unfold State.pushCopy
  dsimp only
  split
  · exact safe_takeTrap
  · exact safe_boundary fun _ => safe_ite safe_blocked safe_finish

theorem safe_ringset {d : Reg8} {a b : XReg} : Safe (execRingset d a b s) :=
  safe_ite safe_stall (safe_ite safe_trap safe_writeRing)

theorem safe_ringadv {d : Reg8} {head : Bool} {n : Nat} : Safe (execRingadv d head n s) := safe_ite safe_trap safe_done

theorem safe_pushMat {i : Instr} {m : MatCmd} : Safe (s.pushMat i m) :=
  safe_boundary fun _ => safe_ite safe_blocked safe_finish

theorem safe_mma {d a b : Reg8} {m : MmaMode} {k : Nat} : Safe (execMma d a b m k s) := by
  unfold execMma
  split
  · exact safe_takeTrap
  · exact safe_pushMat

theorem safe_mdrain {d a : Reg8} {b : XReg} {m : DrainMode} : Safe (execMdrain d a b m s) := by
  unfold execMdrain
  dsimp only
  split
  · exact safe_takeTrap
  · exact safe_pushMat

theorem safe_rtset {d a b : XReg} {rd : Bool} : Safe (execRtset d a b rd s) := by
  unfold execRtset
  refine safe_ite safe_trap (safe_ite safe_doneX (safe_ite safe_trap ?_))
  split
  · exact safe_takeTrap
  · exact safe_done

theorem safe_rtsend {d a b : XReg} : Safe (execRtsend d a b s) := by
  unfold execRtsend
  split
  · exact safe_takeTrap
  · exact safe_boundary fun _ => safe_ite safe_blocked safe_finish

theorem safe_shpark {d a : XReg} : Safe (execShpark d a s) := safe_onceSafe fun _ => safe_done

theorem safe_shunpark {d a : XReg} : Safe (execShunpark d a s) := safe_onceSafe fun _ => safe_done

theorem safe_halt : Safe (execHalt s) := safe_boundary fun _ => safe_ite safe_next safe_blocked

/-! ### Gates (20) -/

theorem safe_gateRequest {i : Instr} {d : XReg} {o : GateOp} {addr : Word} {b : Body} {off : Nat} {idx : Lane} :
    Safe (s.gateRequest i d o addr b off idx) := by
  unfold State.gateRequest
  dsimp only
  split
  · exact safe_faultMe
  · split
    · exact safe_faultMe
    · refine safe_ite safe_faultMe ?_
      split
      · exact safe_blocked
      · exact safe_ite safe_blocked safe_finish

theorem safe_gateExec {i : Instr} {d : XReg} {o : GateOp} {addr : Word} {buffer : Option Word} {idx : Lane} :
    Safe (s.gateExec i d o addr buffer idx) := by
  unfold State.gateExec
  refine safe_ite safe_gateRequest ?_
  split
  · exact safe_takeTrap
  · refine safe_boundary fun _ => safe_ite ?_ safe_gateRequest
    split
    · exact safe_faultMe
    · exact safe_gateRequest

theorem safe_gateRetry : Safe s.gateRetry := by
  unfold State.gateRetry
  split
  · split
    · exact safe_gateExec
    · exact safe_gateExec
    · exact safe_gateExec
    · exact safe_gateExec
    · exact safe_gateExec
    · exact safe_next
  · exact safe_next

end

end Sys2Proof.Machine

/-! PROOFS. Every row of the opcode table and every turn answers a next state (01 R24, 19 R338). -/

namespace Sys2Proof.Machine

open Claims

/-! ### Safe outcomes: the rows of the opcode table -/

theorem safe_sendDelivery {s : State} {c : CoreId} : Safe (execSendDelivery c s) := by
  unfold execSendDelivery
  split
  · exact safe_send
  · exact safe_next

theorem safe_fetakeRetry {s : State} {c : CoreId} : Safe (execFetakeRetry c s) := by
  unfold execFetakeRetry
  split
  · exact safe_fetake
  · exact safe_next

theorem safe_resumeMe {s : State} : Safe s.resumeMe := by
  unfold State.resumeMe
  split
  · exact safe_next
  · split
    · exact safe_halt
    · exact safe_barv
    · exact safe_bwait
    · exact safe_sstep
    · exact safe_recv
    · exact safe_ite safe_blocked (safe_ite safe_fetake safe_next)
    · exact safe_qpush
    · exact safe_qpop
    · exact safe_pushCopy
    · exact safe_pushCopy
    · exact safe_mma
    · exact safe_mdrain
    · exact safe_rtsend
    · exact safe_next

theorem safe_waitResume {s : State} {c : CoreId} : Safe (execWaitResume c s) := safe_ite safe_resumeMe safe_next

theorem safe_remoteMe {s : State} : Safe s.remoteMe := by
  unfold State.remoteMe
  split
  · exact safe_next
  · refine safe_ite safe_next ?_
    split
    · exact safe_fetake
    · exact safe_feput
    · exact safe_fepeek
    · exact safe_atoml
    · exact safe_next

theorem safe_remoteOperation {s : State} {c : CoreId} : Safe (execRemoteOperation c s) :=
  safe_ite safe_remoteMe safe_next

theorem safe_gateRequestEvent {s : State} {x : SlateSend} : Safe (execGateRequest x s) :=
  safe_ite safe_next (safe_ite safe_gateRetry safe_next)

theorem safe_stopAtT {s : State} {part : Nat} : Safe (execStopAtT part s) := by
  unfold execStopAtT
  split
  · exact safe_next
  · next p _ =>
    refine safe_ite safe_next ?_
    cases p.stop with
    | requested t => exact safe_ite safe_next safe_next
    | settling | sweeping => exact safe_ite safe_next safe_next
    | none | stopped | resuming => exact safe_next

theorem safe_reconfigure {s : State} {op : ReOp} {e : ReconfEntry} : Safe (s.reconfigure op e) := by
  unfold State.reconfigure
  split
  · exact safe_next
  · refine safe_ite safe_next (safe_ite safe_next ?_)
    split <;> exact safe_next

/-- Every instruction that a core fetches answers a next state. -/
theorem exec_safe_fetched {i : Instr} (h : isEvent i = false) (s : State) : Safe (exec i s) := by
  cases i with
  -- scalar instructions, and others that complete in every state
  | nop | add | sub | and | or | xor | sll | srl | sra | seq | sne | slt | sltu | min | max | minu | maxu | addi
    | andi | ori | xori | slli | srli | srai | slti | li | mv | mul | mulh | mulhu | mulhsu | div | divu | rem | remu
    | clz | ctz | popc | bswap | fadd | fsub | fmul | fdiv | fmin | fmax | fsqrt | fneg | fma | fms | fnma | fnms | feq
    | flt | fle | fclass | cvtfi | cvtif | cvtff | sel | feat | br | call | vwidth | stashRdwin | stashClean
    | stashFlush | qstat | rtmark => exact safe_next
  | brk | trap => exact safe_trapAfter
  | tret => exact safe_ite safe_jump safe_illegal
  | halt => exact safe_halt
  | addp | subp | addpi => exact safe_movePtr
  | tagp => exact safe_ite safe_trap safe_doneX
  | ldl | ldlu => exact safe_loadLocal
  | stl => exact safe_stl
  | beqz | bnez | bltz | bgez => exact safe_branch
  | jr | jalr => exact safe_jumpReg
  | loop | loopi => exact safe_armLoop
  | srd => exact safe_srd
  | swr => exact safe_swr
  -- vector instructions: pushes, and the few that act at once
  | vadd | vsub | vmul | vmin | vmax | vand | vor | vxor | vsll | vsrl | vsra | vfma | vdiv | vsqrt | vabs | vneg
    | vcmp | vsel | vsplat | vmov | vcvt | vqnt | vdqnt | vred | vperm | vslide | vext | vins | vdot | vsfu | viota
    | vldl | vstl | vldls | vstls | vgath | vscat | vldg | vstg | vpopc | tmclr | tmacc | tmmerge
    | tmfold | tmexit | tmtab => exact safe_of_vpush rfl
  | vfree => exact safe_vpushAs
  | vloop => exact safe_vloop
  | vsync => exact safe_ite safe_done safe_stall
  | pcount | pbound => exact safe_ite safe_stall safe_done
  | pmask | pfirst => exact safe_maskPrefix
  -- synchronisation, shares, memory, queues, engines and gates
  | barv => exact safe_barv
  | bwait => exact safe_bwait
  | bmask => exact safe_bmask
  | send => exact safe_send
  | recv => exact safe_recv
  | rpoll => exact safe_rpoll
  | fetake => exact safe_fetake
  | feput => exact safe_feput
  | fepeek => exact safe_fepeek
  | sstep => exact safe_sstep
  | shpark => exact safe_shpark
  | shunpark => exact safe_shunpark
  | ldg => exact safe_ldg
  | stg => exact safe_stg
  | atom => exact safe_atom
  | atoml => exact safe_atoml
  | fence => exact safe_fence
  | chunk => exact safe_boundary fun _ => safe_done
  | stashWrwin => exact safe_stashWrwin
  | stashFetch => exact safe_stashFetch
  | qpush => exact safe_qpush
  | qpop => exact safe_qpop
  | cpy | cpyx => exact safe_pushCopy
  | ringset => exact safe_ringset
  | ringadv => exact safe_ringadv
  | mma => exact safe_mma
  | mdrain => exact safe_mdrain
  | rtset => exact safe_rtset
  | rtsend => exact safe_rtsend
  | gpost | gtake | gstat | gerr | grearm => exact safe_gateExec
  -- writes of special registers
  | loopCntWrite => exact safe_writeLoop
  | amaxWrite => exact safe_writeAmax
  | shapeWrite => exact safe_writeShape
  | tmodeWrite => exact safe_writeTmode
  | bmWrite => exact safe_writeBm
  | chcfgWrite => exact safe_writeChcfg
  | waitcfgWrite => exact safe_writeWaitcfg
  | stashCfgWrite => exact safe_writeStashCfg
  | chunkLimWrite => exact safe_writeChunkLim
  | ringRegisterWrite => exact safe_writeRingReg
  | permWrite => exact safe_writePerm
  | accmodeWrite => exact safe_writeAccmode
  | gangWrite => exact safe_writeGang
  | _ => exact nomatch h

/-- Every event answers a next state. -/
theorem exec_safe_event {i : Instr} (h : isEvent i = true) (s : State) : Safe (exec i s) := by
  cases i with
  -- events that execute a waiting core's instruction again
  | sendDelivery => exact safe_sendDelivery
  | fetakeRetry => exact safe_fetakeRetry
  | waitResume => exact safe_waitResume
  | remoteOperation => exact safe_remoteOperation
  | gateRequest => exact safe_gateRequestEvent
  | reconfigureAdd | reconfigureRemove | reconfigureShare | reconfigureUnshare | reconfigureSlice =>
    exact safe_reconfigure
  -- events that act on any state
  | sequencerEntryExecute | startMessage | translationInvalidate | governorCycle | tokenPeriod
    | bucketRefill | lostNotice | scrubError | monitorRestart | telemetryInterval | debugStep | debugRun
    | barRegisterWrite => exact safe_next
  -- events of cores, shares and memory, which act where the state calls for them, and else leave it as it is
  | barrierRelease | instructionStoreWrite | levelStep | lend | recallMsg | returnMsg | cycleNotice |
    parkedShareTimeout | linkWidthChange | regulatorFailure | chunkCommit | pageWalk | directoryRequest =>
    dsimp only [exec, execBarrierRelease, execInstructionStoreWrite, execLevelStep, execLend, execRecall,
      execReturnMsg, execCycleNotice, execParkedShareTimeout, execLinkWidthChange, execRegulatorFailure,
      execChunkCommit, execPageWalk, execDirectoryRequest]
    repeat' (first | with_reducible exact safe_next | split)
  -- events of the engines
  | copyCommand | copySegment | planEntry | gangJoin | mmaCommand | kStep | mmaCompletion | mdrainCommand |
    slewBoundary | routerCommand | streamPacket | entryUpdate | rtsendCompletion | linkFailure =>
    dsimp only [exec, execCopyCommand, execCopySegment, execPlanEntry, execGangJoin, execMmaCommand, execKStep,
      execMmaCompletion, execMdrainCommand, execSlewBoundary, execRouterCommand, execStreamPacket, execEntryUpdate,
      execRtsendCompletion, execLinkFailure]
    repeat' (first | with_reducible exact safe_next | split)
  -- events of faults, stops and partitions
  | fault | watchdog | synchronisedStop | flushToken | resume | resumeRelease | sliceEnd | migration |
    cutover | gateSetup | gateClose | gateRelease | vfEnable | vfReset | resize | resizeApply | allotmentWrite |
    slateSetting =>
    dsimp only [exec, execFault, execWatchdog, execSynchronisedStop, execFlushToken, execResume,
      execResumeRelease, execSliceEnd, execMigration, execCutover, execGateSetup, execGateClose, execGateRelease,
      execVfEnable, execVfReset, execResize, execResizeApply, execAllotmentWrite, execSlateSetting]
    repeat' (first | with_reducible exact safe_next | split)
  | stopAtT => exact safe_stopAtT
  -- events of the host and management
  | sqtail | eqhead | launch | launchStart | resetpart | readlog | resync | powerOn | monitorUpdate | policyImageLoad
    | debugHold | poison =>
    dsimp only [exec, execSqtail, execEqhead, execLaunch, execLaunchStart, execResetpart, execReadlog, execResync,
      execPowerOn, execMonitorUpdate, execPolicyImageLoad, execDebugHold, execPoison]
    repeat' (first | with_reducible exact safe_next | split)
  | _ => exact nomatch h

theorem exec_safe (i : Instr) (s : State) : Safe (exec i s) := by
  cases h : isEvent i with
  | false => exact exec_safe_fetched h s
  | true => exact exec_safe_event h s

/-! ### Safe turns -/

theorem safe_run {s : State} {i : Instr} : Safe (Act.outcome (s, .run i)) := exec_safe i s

theorem safe_fetch {s : State} {c : CoreId} : Safe (Act.outcome (s.fetch c)) := by
  unfold State.fetch
  dsimp only
  split
  · exact safe_faultMe
  · split
    · exact safe_takeTrap
    · exact safe_run

theorem safe_coreTurn {s : State} {c : CoreId} : Safe (Act.outcome (s.coreTurn c)) := by
  unfold State.coreTurn
  dsimp only
  split
  · exact safe_next
  · split
    · exact safe_next
    · exact safe_fetch

theorem safe_defaultTurn {s : State} : Safe (Act.outcome s.defaultTurn) := by
  unfold State.defaultTurn
  dsimp only
  split
  · exact safe_run
  · exact safe_coreTurn

/-- A turn faults only where the agenda lists as an event what is none. -/
theorem safe_nextTurn {s : State} (h : s.agendaOk = true) : Safe (Act.outcome s.nextTurn) := by
  unfold State.nextTurn
  split
  · exact safe_run
  · split
    · exact safe_coreTurn
    · next i r hr =>
      have event : isEvent i = true := by
        simp only [State.agendaOk, hr, List.all_cons, Bool.and_eq_true] at h
        exact h.1
      rw [if_pos event]
      exact safe_run
    · exact safe_defaultTurn

/-- Settles O55: a step is the outcome of a turn, and every turn has one. -/
theorem everyStepHasANextState : Obligations.EveryStepHasANextState := by
  unfold Obligations.EveryStepHasANextState
  intro s agenda
  rw [step_outcome]
  exact safe_nextTurn agenda

end Sys2Proof.Machine

/-! PROOFS. Trap entry and trap return (01 R22 to R25). -/

namespace Sys2Proof.Machine

open Claims

/-! ### Frames of traps: what is left of the executing core, and of the others -/

theorem onlyArch_trans {k l m : Core} (h : OnlyArch k l) (h' : OnlyArch l m) : OnlyArch k m := by
  unfold OnlyArch at *
  rw [h', h]

theorem onlyArch_breakRun (k : Core) : OnlyArch k k.breakRun := by
  unfold OnlyArch Core.breakRun
  split
  · rw [onLastChunk_frame]
  · rfl

theorem onlyArch_endChunk (k : Core) : OnlyArch k k.endChunk := by
  unfold OnlyArch Core.endChunk
  split
  · rfl
  · split
    · rfl
    · rw [onLastChunk_frame]; rfl

/-- A core whose instruction has been counted, with other registers. -/
theorem onlyArch_counted (k : Core) (a : Arch) (w : Word) :
    OnlyArch k { Core.countInstr { k with arch := a } with progress := w } := by
  unfold OnlyArch
  rw [countInstr_frame]

/-- A core whose chunk a trap has ended, with the registers that the trap leaves. -/
theorem onlyArch_trapped (k : Core) (a : Arch) : OnlyArch k { k.breakRun.endChunk.stepped with arch := a } :=
  onlyArch_trans (onlyArch_breakRun k) (onlyArch_trans (onlyArch_endChunk k.breakRun) rfl)

theorem onlyMe_setMe (s : State) (k : Core) : OnlyMe s (s.setMe k) := ⟨rfl, fun d h => core_setMe_ne s d k h⟩

/-! ### Trap entry (01 R22, R24) -/

/-- The registers that trap entry leaves, the frame of the machine with what a refused store leaves behind, and the
frame of the core. -/
def Entered (s t : State) (ret : BitVec 16) (y : Trap) : Prop :=
  t.me.arch = s.me.arch.enterTrap ret y
  ∧ OnlyMe (if y.cause = .gateerr then s.logRefusal s.turn .global y.tval else s) t ∧ OnlyArch s.me t.me

/-- The DOUBLETRAP fault of the executing core, whose trapping instruction stands at `at_`. -/
def Doubled (s t : State) (at_ : BitVec 16) (y : Trap) : Prop :=
  t.me.arch = s.me.arch ∧ t.me.run = .frozen
  ∧ t.pendingFaults = s.pendingFaults ++
      [⟨.doubleTrap, .pc, at_.setWidth 64, y.cause.code, s.turn, s.me.part, s.me.launch⟩]

theorem noteRefused_eq (s : State) (c : CoreId) (y : Trap) :
    s.noteRefused c y = if y.cause = .gateerr then s.logRefusal c .global y.tval else s := by
  simp only [State.noteRefused, beq_iff_eq]

theorem core_raise_same (s : State) (c : CoreId) (f : FaultClass) (p : Place) (addr : Word) (n : Nat) :
    (s.raise c f p addr n).core c = { s.core c with run := .frozen } := core_setCore_same s c _

section
variable {s : State} {y : Trap} (at_ ret : BitVec 16)

/-- Outside a handler and with a vector, trap entry is the five steps of R24. -/
theorem enterTrap_entered (h : s.me.arch.inHandler = false) (v : s.me.arch.tvec ≠ 0) :
    Entered s (s.enterTrap s.turn at_ ret y) ret y := by
  obtain ⟨e, -⟩ | ⟨-, -, e⟩ := enterTrap_cases s s.turn at_ ret y
  · exact absurd e (not_or.mpr ⟨Bool.eq_false_iff.mp h, v⟩)
  · have own : s.enterTrap s.turn at_ ret y = (s.noteRefused s.turn y).setMe
        { s.me.breakRun.endChunk.stepped with arch := s.me.arch.enterTrap ret y } := by
      rw [e, State.setMe, noteRefused_turn]; rfl
    rw [own, Entered, ← noteRefused_eq, me_setMe]
    exact ⟨rfl, onlyMe_setMe _ _, onlyArch_trapped _ _⟩

/-- In a handler or without a vector it is the DOUBLETRAP fault (19 R339). -/
theorem enterTrap_doubled (h : s.me.arch.inHandler = true ∨ s.me.arch.tvec = 0) :
    Doubled s (s.enterTrap s.turn at_ ret y) at_ y := by
  obtain ⟨-, e⟩ | ⟨h', v', -⟩ := enterTrap_cases s s.turn at_ ret y
  · have own : (s.enterTrap s.turn at_ ret y).me = { s.me with run := .frozen } := by
      rw [e, State.me, raise_turn, noteRefused_turn, core_raise_same, noteRefused_core]; rfl
    rw [Doubled, own, e]
    exact ⟨rfl, rfl, by simp [State.raise, State.me]⟩
  · exact absurd h (not_or.mpr ⟨Bool.eq_false_iff.mp h', v'⟩)

/-- Trap entry after the trapping instruction has been counted as completed (R22). -/
theorem entered_of_counted {l : Core} {t : State} (arch : l.arch = s.me.arch) (frame : OnlyArch s.me l)
    (plain : y.cause ≠ .gateerr) (h : Entered (s.setMe l) t ret y) : Entered s t ret y := by
  unfold Entered at h ⊢
  rw [if_neg plain, me_setMe, arch] at h
  rw [if_neg plain]
  obtain ⟨regs, ⟨same, others⟩, core⟩ := h
  exact ⟨regs, ⟨same, fun d hd => (others d hd).trans (core_setMe_ne s d l hd)⟩, onlyArch_trans frame core⟩

theorem doubled_of_counted {l : Core} {t : State} (arch : l.arch = s.me.arch) (part : l.part = s.me.part)
    (launch : l.launch = s.me.launch) (h : Doubled (s.setMe l) t at_ y) : Doubled s t at_ y := by
  unfold Doubled at h ⊢
  rw [me_setMe, arch, part, launch] at h
  exact h

end
section
variable {s : State} (seq : s.me.seq = [])
include seq

theorem takeTrap_taken (y : Trap) : s.takeTrap y = .next (s.enterTrap s.turn s.pc s.pc y) := by
  simp [State.takeTrap, seq]

theorem trapAfter_taken (c : Cause) (v : Word) : s.trapAfter c v
    = .next ((s.setMe { s.me.countInstr with progress := s.time }).enterTrap s.turn s.pc s.npc ⟨c, v⟩) := by
  simp [State.trapAfter, seq]

theorem takeTrap_enters (h : s.me.arch.inHandler = false) (v : s.me.arch.tvec ≠ 0) (y : Trap) :
    ∃ t, s.takeTrap y = .next t ∧ Entered s t s.pc y := ⟨_, takeTrap_taken seq y, enterTrap_entered _ _ h v⟩

theorem takeTrap_doubles (h : s.me.arch.inHandler = true ∨ s.me.arch.tvec = 0) (y : Trap) :
    ∃ t, s.takeTrap y = .next t ∧ Doubled s t s.pc y := ⟨_, takeTrap_taken seq y, enterTrap_doubled _ _ h⟩

theorem trapAfter_enters (h : s.me.arch.inHandler = false) (v : s.me.arch.tvec ≠ 0) (c : Cause) (w : Word)
    (plain : c ≠ .gateerr) : ∃ t, s.trapAfter c w = .next t ∧ Entered s t s.npc ⟨c, w⟩ := by
  refine ⟨_, trapAfter_taken seq c w, entered_of_counted s.npc (l := { s.me.countInstr with progress := s.time })
    (countInstr_arch _) (onlyArch_counted s.me s.me.arch s.time) plain ?_⟩
  refine enterTrap_entered (s := s.setMe _) s.pc s.npc ?_ ?_
  · rw [me_setMe]; simpa using h
  · rw [me_setMe]; simpa using v

theorem trapAfter_doubles (h : s.me.arch.inHandler = true ∨ s.me.arch.tvec = 0) (c : Cause) (w : Word) :
    ∃ t, s.trapAfter c w = .next t ∧ Doubled s t s.pc ⟨c, w⟩ := by
  refine ⟨_, trapAfter_taken seq c w, doubled_of_counted s.pc (l := { s.me.countInstr with progress := s.time })
    (countInstr_arch _) (countInstr_part _) (countInstr_launch _) ?_⟩
  refine enterTrap_doubled (s := s.setMe _) s.pc s.npc ?_
  rw [me_setMe]
  simpa using h

end

/-! ### The handler (01 R25) -/

theorem armLoop_inHandler {s : State} {level : Bool} {n len : Nat} (h : s.me.arch.inHandler = true) :
    s.armLoop level n len = s.illegal := if_pos h

/-- A field of loop.n.cnt that starts at bit lo is even where bit lo is 0. -/
theorem even_field (w : Word) (lo : Nat) (h : w.toNat / 2 ^ lo % 2 = 0) :
    bit (w.extractLsb' lo 16).toNat 0 = false := by
  simp [bit, Nat.shiftRight_eq_div_pow, h]

/-- A loop count whose start and end are even is written as it is. -/
theorem writeLoop_even {s : State} {level : Bool} {w : Word} (st : w.toNat / 2 ^ 48 % 2 = 0)
    (en : w.toNat / 2 ^ 32 % 2 = 0) : s.writeLoop level w
      = s.done (if level then { s.me.arch with loop1 := w } else { s.me.arch with loop0 := w }) := by
  have ok : (bit (loopStart w).toNat 0 || bit (loopEnd w).toNat 0) = false := by
    rw [loopStart, loopEnd, even_field w 48 st, even_field w 32 en]; rfl
  simp only [State.writeLoop, ok, Bool.false_eq_true, if_false]
  split <;> rfl

/-- Settles O9: trap entry and the DOUBLETRAP fault by the two cases of `enterTrap`, and what a handler may do. -/
theorem trapEntry : Obligations.TrapEntry := by
  unfold Obligations.TrapEntry
  intro s code x r level n len seq
  refine ⟨fun h v => ⟨?_, ?_, ?_⟩, fun h => ⟨?_, ?_, ?_⟩, fun h => ⟨fun a ha => ?_, ?_, ?_, fun st en => ?_⟩⟩
  · exact trapAfter_enters seq h v .brk _ nofun
  · exact trapAfter_enters seq h v .swtrap _ nofun
  · exact takeTrap_enters seq h v x
  · exact trapAfter_doubles seq h .brk _
  · exact trapAfter_doubles seq h .swtrap _
  · exact takeTrap_doubles seq h x
  · rw [completed_arch, advance_inHandler ha]
  · exact armLoop_inHandler h
  · exact armLoop_inHandler h
  · exact writeLoop_even st en

theorem onlyMe_jumped (s : State) (a : Arch) (pc : BitVec 16) : OnlyMe s (s.jumped a pc) := onlyMe_setMe s _

theorem onlyArch_jumped (s : State) (a : Arch) (pc : BitVec 16) : OnlyArch s.me (s.jumped a pc).me := by
  rw [me_jumped]
  exact onlyArch_counted s.me { a with pc := pc } s.time

/-- TRET in a handler transfers to tpc with the registers that `leaveTrap` gives. -/
theorem tret_returns {s : State} {b : Arch} (h : s.me.arch.inHandler = true)
    (hb : { s.me.arch.leaveTrap with pc := s.me.arch.tpc.setWidth 16 } = b) :
    ∃ t, exec .tret s = .next t ∧ t.me.arch = b ∧ OnlyMe s t ∧ OnlyArch s.me t.me :=
  ⟨s.jumped s.me.arch.leaveTrap (s.me.arch.tpc.setWidth 16), if_pos h, (jumped_arch s _ _).trans hb,
    onlyMe_jumped s _ _, onlyArch_jumped s _ _⟩

theorem even_target (w : Word) : ((w &&& 0xFFFE).setWidth 16 : BitVec 16).getLsbD 0 = false := by
  simp

/-- Settles O10: TRET by whether a VLOOP is remembered, the two writes, and the DOUBLETRAP fault. -/
theorem trapReturn : Obligations.TrapReturn := by
  unfold Obligations.TrapReturn
  intro s r x at_ recent pushes
  refine ⟨fun h => ⟨fun e => tret_returns h ?_, fun e => tret_returns h ?_⟩, fun h => if_neg (by simp [h]), rfl, rfl,
    even_target _, fun seq h => takeTrap_doubles seq h x⟩
  · simp only [Arch.leaveTrap, e]
  · simp only [Arch.leaveTrap, e]
    split <;> rfl

end Sys2Proof.Machine
